-- ==== Sys2Proof/Word.lean ====
section
/-! DEFINITION. The words of the Uzouth: register words, rows, masks, slots and bundles. -/

namespace Sys2Proof

/-- A scalar word. -/
abbrev W64 := BitVec 64
/-- A 128 B row: a vector register, a tile segment, a row of memory. Byte i is bits [8i+7:8i] (R7). -/
abbrev Row := BitVec 1024
/-- A vector mask. -/
abbrev Mask := BitVec 128
/-- A byte of memory. -/
abbrev Byte := BitVec 8
/-- A move slot (R21). -/
abbrev SlotWord := BitVec 24
/-- A bundle: slot k in bits [24k+23:24k] (R20, R7). -/
abbrev Bundle := BitVec 192

end Sys2Proof
end

