-- ==== Sys2Proof/Syntax.lean ====
section
/-! DEFINITION. The syntax of the Uzouth: sources, guards, destinations and the one instruction type, with a constructor for every row of the opcode table. -/

namespace Sys2Proof

/-- The scalar unit that a scalar operation names: sa0, or sa1 at the sa0 code plus 0x20 (R91). -/
inductive Sa where
  | sa0 | sa1
  deriving DecidableEq, Repr

/-- The operand ports 0x080 to 0x0A4, in code order (R77). -/
inductive Port where
  | sa0a | sa0b | sa0d | sa1a | sa1b | sa1d | agua | agub | agud | ctla | ctlb
  | lsua | lsub | lsuc | lsuy | lsud | veca | vecb | vecc | veck | vecy | vecz | vecd
  | lgy | lgd | lgb | srtb | srtd | mxa | mxe | mxd | syna | synb | synd | spca | spcb | spcd
  deriving DecidableEq, Repr

/-- A register destination: the codes 0x000 to 0x07D (R24). -/
inductive RegDst where
  | s (n : BitVec 6) | v (n : BitVec 5) | p (n : BitVec 3) | m (n : BitVec 3)
  | tcfg (n : BitVec 3) | acp | rrb | lc | ec | mcfg | pcfg
  deriving DecidableEq, Repr

/-- Where a plain move writes: a register, an operand port, a tile write port (R24). -/
inductive MDst where
  | reg (r : RegDst)
  | port (p : Port)
  | tileW (k : BitVec 3)
  deriving DecidableEq, Repr

/-- The source of a move (R23). A long immediate names its slot k and holds the bits its carrier slots gave (R25). -/
inductive Src where
  | s (n : BitVec 6) | v (n : BitVec 5) | p (n : BitVec 3) | m (n : BitVec 3)
  | tcfg (n : BitVec 3) | acp | rrb | lc | ec | mcfg | pcfg | did | crd
  | tn (k : BitVec 3) | th (k : BitVec 3) | lq | ftime | cyc | hb | rxq | sst
  | imm9 (i : BitVec 9)
  | limm20 (k : BitVec 3) (i : BitVec 20)
  | limm40 (k : BitVec 3) (i : BitVec 40)
  deriving DecidableEq, Repr

/-- The guard field G (R21, R22). -/
structure Guard where
  inv : Bool
  p : BitVec 3
  deriving DecidableEq, Repr

/-- Guard and source of a move into a trigger port. -/
structure Head where
  g : Guard
  src : Src
  deriving DecidableEq, Repr

/-- What an uncorrectable error struck (R244, R332). -/
inductive ErrAt where
  | replica (row : Nat) | cleanCopy (row : Nat) | home (row : Nat)
  | dirtyL1 (row : Nat) | scratch (plate : Nat) (r : Nat)
  deriving DecidableEq, Repr

/-- What a collective packet says of its sender's command (R295, R298): OP, ROOT, COUNT, the number of ranks; which of its rows are poisoned; whether it brings no data but the news that the rank is gone. -/
structure CollHead where
  op : Nat
  root : Nat
  count : Nat
  ranks : Nat
  bad : List Nat
  gone : Bool
  deriving DecidableEq, Repr

/-- The contribution of a collective packet: what it says of its sender, and the rows. -/
structure CollBody where
  head : CollHead
  rows : List Row
  deriving DecidableEq, Repr

/-- Memory traffic from outside: the partition that its function is, the PCIe requester and the I/O die that it reaches (0 for X0, 1 for X1), and the port and the IDE stream that it comes on, if any (R383, R384, R412). -/
structure Traffic where
  part : Nat
  req : Nat
  io : Nat
  via : Option (Nat × Nat)
  deriving DecidableEq, Repr

/-- What an arriving message brings beside its header: the IPv6 address and UDP port that it came from, and its payload (R392, R394, R396). -/
structure Datagram where
  src : BitVec 144
  payload : List Byte
  deriving DecidableEq, Repr

/-- A register access from outside: the VF whose page it reaches, none for the PF, and the port and the IDE stream that it comes on, if any (R383, R405). -/
structure Access where
  vf : Option Nat
  via : Option (Nat × Nat)
  deriving DecidableEq, Repr

/-- One step of the machine: a bundle, one move of a bundle, or one event of the device and its surroundings. One constructor for each row of the opcode table, in its order. -/
inductive Instr where
  -- moves, bundles, landings
  | move (g : Guard) (src : Src) (hold : Bool) (dst : MDst)
  | bundleIssue (b : Bundle)
  | resultLanding (n : Nat)
  | timedLanding (n : Nat)
  | loadQueueFill (n : Nat)
  | contextSaveDone
  | taskRestore (die cluster core : Nat)
  -- sa0, sa1
  | add (u : Sa) (h : Head) | sub (u : Sa) (h : Head) | and (u : Sa) (h : Head) | or (u : Sa) (h : Head)
  | xor (u : Sa) (h : Head) | andn (u : Sa) (h : Head) | min (u : Sa) (h : Head) | max (u : Sa) (h : Head)
  | minu (u : Sa) (h : Head) | maxu (u : Sa) (h : Head) | shl (u : Sa) (h : Head) | shr (u : Sa) (h : Head)
  | sar (u : Sa) (h : Head) | rotl (u : Sa) (h : Head) | seq (u : Sa) (h : Head) | sne (u : Sa) (h : Head)
  | slt (u : Sa) (h : Head) | sltu (u : Sa) (h : Head) | sle (u : Sa) (h : Head) | sleu (u : Sa) (h : Head)
  | sel (u : Sa) (h : Head) | mul (u : Sa) (h : Head) | mulh (u : Sa) (h : Head) | mulhu (u : Sa) (h : Head)
  | clz (u : Sa) (h : Head) | ctz (u : Sa) (h : Head) | popc (u : Sa) (h : Head) | bfx (u : Sa) (h : Head)
  | bfi (u : Sa) (h : Head) | sext (u : Sa) (h : Head) | zext (u : Sa) (h : Head)
  | div (h : Head) | divu (h : Head) | rem (h : Head) | remu (h : Head)
  -- agu
  | lea (h : Head) | leaw (h : Head) | cadd (h : Head)
  -- ctl
  | jmp (h : Head) | jmpi (h : Head) | call (h : Head) | ret (h : Head) | jtab (h : Head) | loop (h : Head)
  | done (h : Head) | spt (h : Head) | wait (h : Head) | fuse (h : Head) | dcpl (h : Head) | rejoin (h : Head)
  | groupForm
  | uintReturn (h : Head) | trap (h : Head) | sys (h : Head) | csrr (h : Head) | csrw (h : Head)
  -- lsu
  | ld (h : Head) | ldq (h : Head) | st (h : Head) | ldx (h : Head) | stx (h : Head) | qmark (h : Head)
  | fence (h : Head)
  | fenceDone
  | fsc (h : Head) | pref (h : Head) | smap (h : Head) | sunm (h : Head) | sfl (h : Head)
  | ownToEngine (h : Head) | ownToThread (h : Head)
  | plateFlipThread
  | rinv (h : Head)
  | amoAdd (h : Head) | amoFadd (h : Head) | amoMax (h : Head) | amoMin (h : Head) | amoMaxu (h : Head)
  | amoMinu (h : Head) | amoFmax (h : Head) | amoFmin (h : Head) | amoAnd (h : Head) | amoOr (h : Head)
  | amoXor (h : Head) | amoSwp (h : Head) | amoCas (h : Head)
  | nraAdd (h : Head) | nraFadd (h : Head) | nraMax (h : Head) | nraMin (h : Head) | nraMaxu (h : Head)
  | nraMinu (h : Head) | nraFmax (h : Head) | nraFmin (h : Head) | nraAnd (h : Head) | nraOr (h : Head)
  | nraXor (h : Head)
  | redAdd (h : Head) | redFadd (h : Head) | redFmax (h : Head)
  | redPassApply (inst group pass : Nat)
  | storeQueueIssue
  -- vec
  | vadd (h : Head) | vsub (h : Head) | vmul (h : Head) | vfma (h : Head) | vmin (h : Head) | vmax (h : Head)
  | vabs (h : Head) | vneg (h : Head) | vand (h : Head) | vor (h : Head) | vxor (h : Head) | vshl (h : Head)
  | vshr (h : Head) | vsar (h : Head) | vceq (h : Head) | vclt (h : Head) | vcle (h : Head) | vsel (h : Head)
  | vcvt (h : Head) | vbc (h : Head) | vext (h : Head) | vins (h : Head) | vperm (h : Head) | vrot (h : Head)
  | vsum (h : Head) | vrmax (h : Head) | vrmin (h : Head) | vmaxi (h : Head) | vpopc (h : Head) | vmexp (h : Head)
  | vmpak (h : Head) | vcls (h : Head) | viota (h : Head) | vsqz (h : Head) | vbnd (h : Head)
  -- lg
  | lg2 (h : Head) | ln (h : Head) | ex2 (h : Head) | exp (h : Head) | rcp (h : Head) | rsq (h : Head)
  | sqrt (h : Head) | tanh (h : Head) | sigm (h : Head) | gmb (h : Head)
  | rndGenerator (h : Head) | rndReplay (h : Head)
  -- srt
  | sclr (h : Head) | smrg (h : Head) | srd (h : Head) | ssort (h : Head) | scsum (h : Head)
  -- mx
  | push (h : Head) | shift (h : Head) | acc (h : Head) | accz (h : Head) | drain (h : Head) | mxclr (h : Head)
  -- syn
  | spawn (h : Head) | spawnd (h : Head)
  | spawndChildEnd (inst : Nat)
  | dcnt (h : Head) | cstage (h : Head) | uien (h : Head) | bpost (h : Head) | barv (h : Head) | bwait (h : Head)
  | hbw (h : Head) | gth (h : Head) | coll (h : Head) | esend (h : Head)
  -- spc
  | sgo (h : Head) | acmpGuess (h : Head) | acmpRun (h : Head) | acmpOut (h : Head) | acmpLast (h : Head)
  | acmpTag (h : Head) | scmt (h : Head) | sabt (h : Head) | apreg (h : Head) | fnext (h : Head)
  -- engines and interrupts
  | compactionDone
  | engineRow (op : Nat)
  | engineComplete (op : Nat)
  | uintEntry
  | collEnd (op : Nat)
  | collTimeout (op : Nat)
  | heartbeatTick
  -- scheduler
  | queueDoorbell (fn queue : Nat) (v : W64)
  | queueEntrySubmit (fn queue : Nat)
  | instanceRelease (seq : Nat)
  | teamDispatch (die cluster : Nat)
  | instanceComplete (inst : Nat)
  | instanceFail (inst : Nat)
  | late (inst : Nat)
  | miss (inst : Nat)
  | lvlDown (seq : Nat)
  | bholdOff (part : Nat)
  | wctExceeded
  | softRequest
  | graceExpire
  | killExpire
  | frameSlotFree
  -- rings and host registers
  | ringRecordWrite (ring : Nat)
  | weight0 (ring : Nat)
  | fltResume (part : Nat) (v : W64)
  | fltResumeEnd (part : Nat) (v : W64)
  | fltRdrop (ring : Nat)
  | schPreempt (part : Nat) (v : W64)
  | schCancel (part : Nat) (v : W64)
  | uncorrectableError (e : ErrAt)
  | machineCheck
  | dierstOrderly (die : Nat)
  | dierstForced (die : Nat)
  | dieReset
  | parDlog (part : Nat) (v : W64)
  | parStop (part : Nat) (v : W64)
  | parStopResume (part : Nat)
  | stopped (part : Nat)
  | parHattr (part : Nat) (v : W64)
  | parPtroot (part : Nat) (v : W64)
  | parTlbinv (part : Nat) (v : W64)
  | tlbinvDone (part : Nat)
  | rgnQuery (part : Nat) (v : W64)
  | place (part : Nat) (v : W64)
  | unplace (part : Nat) (v : W64)
  | degpin (part : Nat) (v : W64)
  | degunpin (part : Nat) (v : W64)
  | epochEnd
  | parWaymap (die : Nat) (v : BitVec 128)
  | hbmSlotcmt (stack : Nat)
  | hbmFrameStart
  | powerInterval
  | powerThrottle (part : Nat)
  | pwrToken (part : Nat) (v : W64)
  | lnkVcw (part port : Nat) (v : W64)
  -- mirrors
  | mirrorPointDone
  | woadHeartbeat (die : Nat)
  | partnerLost (die : Nat)
  | shadowTakeover (die : Nat)
  | failover (inst : Nat)
  | resync (pair : Nat)
  | resyncDone (pair : Nat)
  -- partitions
  | create (v : W64) | destroy (v : W64) | grant (v : W64) | revoke (v : W64)
  | blkadd (v : W64) | blkrem (v : W64) | blkpair (v : W64)
  | parBlkack (part : Nat) (v : W64)
  | blockScrubDone (block : Nat)
  | functionLevelReset (vf : Nat)
  | inboundRead (who : Traffic) (off : Nat) (len : Nat)
  | inboundWrite (who : Traffic) (off : Nat) (data : List Byte)
  -- endpoint
  | bind (part : Nat) (v : W64) | unbind (part : Nat) (v : W64) | sessRead (part : Nat) (v : W64)
  | ingressMessage (sess : Nat) (strm : Bool) (seq : BitVec 32) (txts : W64) (msg : Datagram)
  | chunkEgress (sess : Nat) (firstBit : Nat)
  | ethQueueClose (part io node : Nat)
  | servoLock (tai : Nat) (offset : BitVec 32)
  | servoLockLoss
  -- boot, keys, attestation, management
  | powerGood
  | dieRelease (image : BitVec 256) (pass : Bool)
  | bootPhase
  | alloc (v : W64) | free (v : W64) | rekey (v : W64)
  | getVersion (port : Nat) | getCapabilities (port : Nat) | negotiateAlgorithms (port : Nat)
  | getDigests (port : Nat) | getCertificate (port : Nat) | challenge (port : Nat) (nonce : BitVec 256)
  | getMeasurements (port : Nat) (index : Nat) | keyExchange (port : Nat) (data : BitVec 256)
  | finish (port : Nat) (mac : BitVec 256)
  | ideKm (port stream part : Nat)
  | pldmMonitor (sensor : Nat)
  | pldmFwUpdate (die : Nat) (image : BitVec 256)
  | thermalOver (die : Nat) (tok : BitVec 20)
  | thermalTrip
  | registerWrite (who : Access) (off : Nat) (v : W64)
  | translationComplete
  | exchangeComplete (part : Nat)
  | chunkToEndpoint
  | rxqRowArrival
  | collectivePacket (part : Nat) (job : BitVec 24) (gid : BitVec 32) (tag : W64) (rank : Nat) (data : CollBody)
  deriving DecidableEq, Repr

end Sys2Proof
end

