-- ==== Sys2Proof/WellFormed.lean ====
section
/-! DEFINITION. Which terms of the syntax stand for something the hardware can hold: one named check each. -/

namespace Sys2Proof

/-- G = 0x8 marks a carrier, so no move has the inverted p0 as its guard (R22). -/
def Guard.ok (g : Guard) : Bool := !(g.inv && g.p == 0)

/-- A long immediate of the move in slot 0 draws from carriers behind it (R25). -/
def Src.ok : Src → Bool
  | .limm20 k _ => k != 0
  | .limm40 k _ => k != 0 && k != 7
  | _ => true

def Head.ok (h : Head) : Bool := h.g.ok && h.src.ok

/-- H is 0 outside the operand ports (R26). -/
def holdOk (hold : Bool) : MDst → Bool
  | .port _ => true
  | _ => !hold

/-- The immediate value of a source, if it is one (R23, R25). -/
def Src.imm : Src → Option W64
  | .imm9 i => some (i.signExtend 64)
  | .limm20 _ i => some (i.signExtend 64)
  | .limm40 _ i => some (i.signExtend 64)
  | _ => none

/-- Rows of the table that share one code differ in a bit of t: a term whose source is an immediate must agree with the row it names (R277, R346). `true` where the value is not an immediate. -/
def sharedOk (s : Src) (test : W64 → Bool) : Bool :=
  match s.imm with
  | some v => test v
  | none => true

/-- Bits [6:4] of an acmp control word (R346). -/
def acmpOp (v : W64) : BitVec 3 := v.extractLsb' 4 3

/-- The well-formed terms. -/
def Instr.wf : Instr → Bool
  | .move g src hold dst => g.ok && src.ok && holdOk hold dst
  | .ownToEngine h => h.ok && sharedOk h.src fun v => v.getLsbD 0
  | .ownToThread h => h.ok && sharedOk h.src fun v => !v.getLsbD 0
  | .acmpGuess h => h.ok && sharedOk h.src fun v => acmpOp v == 0 || 5 ≤ (acmpOp v).toNat
  | .acmpRun h => h.ok && sharedOk h.src fun v => acmpOp v == 1
  | .acmpOut h => h.ok && sharedOk h.src fun v => acmpOp v == 2
  | .acmpLast h => h.ok && sharedOk h.src fun v => acmpOp v == 3
  | .acmpTag h => h.ok && sharedOk h.src fun v => acmpOp v == 4
  | .add _ h | .sub _ h | .and _ h | .or _ h | .xor _ h | .andn _ h | .min _ h | .max _ h | .minu _ h
  | .maxu _ h | .shl _ h | .shr _ h | .sar _ h | .rotl _ h | .seq _ h | .sne _ h | .slt _ h | .sltu _ h
  | .sle _ h | .sleu _ h | .sel _ h | .mul _ h | .mulh _ h | .mulhu _ h | .clz _ h | .ctz _ h | .popc _ h
  | .bfx _ h | .bfi _ h | .sext _ h | .zext _ h => h.ok
  | .div h | .divu h | .rem h | .remu h | .lea h | .leaw h | .cadd h | .jmp h | .jmpi h | .call h | .ret h
  | .jtab h | .loop h | .done h | .spt h | .wait h | .fuse h | .dcpl h | .rejoin h | .uintReturn h | .trap h
  | .sys h | .csrr h | .csrw h | .ld h | .ldq h | .st h | .ldx h | .stx h | .qmark h | .fence h | .fsc h
  | .pref h | .smap h | .sunm h | .sfl h | .rinv h | .amoAdd h | .amoFadd h | .amoMax h | .amoMin h
  | .amoMaxu h | .amoMinu h | .amoFmax h | .amoFmin h | .amoAnd h | .amoOr h | .amoXor h | .amoSwp h
  | .amoCas h | .nraAdd h | .nraFadd h | .nraMax h | .nraMin h | .nraMaxu h | .nraMinu h | .nraFmax h
  | .nraFmin h | .nraAnd h | .nraOr h | .nraXor h | .redAdd h | .redFadd h | .redFmax h | .vadd h | .vsub h
  | .vmul h | .vfma h | .vmin h | .vmax h | .vabs h | .vneg h | .vand h | .vor h | .vxor h | .vshl h
  | .vshr h | .vsar h | .vceq h | .vclt h | .vcle h | .vsel h | .vcvt h | .vbc h | .vext h | .vins h
  | .vperm h | .vrot h | .vsum h | .vrmax h | .vrmin h | .vmaxi h | .vpopc h | .vmexp h | .vmpak h | .vcls h
  | .viota h | .vsqz h | .vbnd h | .lg2 h | .ln h | .ex2 h | .exp h | .rcp h | .rsq h | .sqrt h | .tanh h
  | .sigm h | .gmb h | .rndGenerator h | .rndReplay h | .sclr h | .smrg h | .srd h | .ssort h | .scsum h
  | .push h | .shift h | .acc h | .accz h | .drain h | .mxclr h | .spawn h | .spawnd h | .dcnt h | .cstage h
  | .uien h | .bpost h | .barv h | .bwait h | .hbw h | .gth h | .coll h | .esend h | .sgo h | .scmt h
  | .sabt h | .apreg h | .fnext h => h.ok
  | .taskRestore d c k => d < 8 && c < 8 && k < 8
  | .teamDispatch d c => d < 8 && c < 8
  | .queueDoorbell f q _ | .queueEntrySubmit f q => f < 64 && q < 4
  | .ringRecordWrite r | .weight0 r | .fltRdrop r => r < 65
  | .fltResume p _ | .fltResumeEnd p _ | .schPreempt p _ | .schCancel p _ | .parDlog p _ | .parStop p _
  | .parStopResume p | .stopped p | .parHattr p _ | .parPtroot p _ | .parTlbinv p _ | .tlbinvDone p
  | .rgnQuery p _ | .place p _ | .unplace p _ | .degpin p _ | .degunpin p _ | .powerThrottle p
  | .pwrToken p _ | .parBlkack p _ | .bholdOff p | .bind p _ | .unbind p _ | .sessRead p _
  | .exchangeComplete p => p < 64
  | .inboundRead w _ n => w.part < 64 && w.io < 2 && n ≤ 128
  | .inboundWrite w _ d => w.part < 64 && w.io < 2 && d.length ≤ 128
  | .lnkVcw p n _ => p < 64 && n < 40
  | .parWaymap d _ | .woadHeartbeat d | .partnerLost d | .shadowTakeover d | .dierstOrderly d
  | .dierstForced d => d < 8
  | .hbmSlotcmt s => s < 8
  | .resync p | .resyncDone p => p < 4
  | .ingressMessage s _ _ _ _ => s < 16384
  | .chunkEgress s _ => s < 16384
  | .functionLevelReset v => 1 ≤ v && v < 64
  | .blockScrubDone b => b < 256
  | .bundleIssue _ | .resultLanding _ | .timedLanding _ | .loadQueueFill _ | .contextSaveDone | .groupForm
  | .fenceDone | .plateFlipThread | .redPassApply _ _ _ | .storeQueueIssue | .spawndChildEnd _
  | .compactionDone | .engineRow _ | .engineComplete _ | .uintEntry | .collEnd _ | .collTimeout _
  | .heartbeatTick | .instanceRelease _ | .instanceComplete _ | .instanceFail _ | .late _ | .miss _
  | .lvlDown _ | .wctExceeded | .softRequest | .graceExpire | .killExpire | .frameSlotFree
  | .uncorrectableError _ | .machineCheck | .dieReset | .epochEnd | .hbmFrameStart | .powerInterval
  | .mirrorPointDone | .failover _ | .create _ | .destroy _ | .grant _ | .revoke _ | .blkadd _ | .blkrem _
  | .blkpair _ | .ethQueueClose _ _ _ | .servoLock _ _ | .servoLockLoss | .powerGood | .dieRelease _ _
  | .bootPhase | .alloc _ | .free _ | .rekey _ | .getVersion _ | .getCapabilities _ | .negotiateAlgorithms _
  | .getDigests _ | .getCertificate _ | .challenge _ _ | .getMeasurements _ _ | .keyExchange _ _ | .finish _ _
  | .ideKm _ _ _ | .pldmMonitor _ | .pldmFwUpdate _ _ | .thermalOver _ _ | .thermalTrip | .registerWrite _ _ _
  | .translationComplete | .chunkToEndpoint | .rxqRowArrival | .collectivePacket _ _ _ _ _ _ => true

end Sys2Proof
end

