-- ==== Sys2Proof/Decode.lean ====
section
/-! DEFINITION. Decoding: move slots and bundles to instructions, total, with a named refusal for every reserved code; and the encoder that goes back. -/

namespace Sys2Proof

/-- The bytes [lo, lo + n) of a value are fields: bits [lo + n - 1 : lo] as a number. -/
def bitsOf {w : Nat} (x : BitVec w) (lo n : Nat) : Nat := x.toNat / 2 ^ lo % 2 ^ n

/-- Why a slot is refused: the encoding traps of R26, first failure in the order of R76. -/
inductive EncErr where
  | illSrc | illLimm | illDst | illHold
  deriving DecidableEq, Repr

/-- Slot k of a bundle (R20, R21). -/
def slotOf (b : Bundle) (k : Nat) : SlotWord := BitVec.ofNat 24 (bitsOf b (24 * k) 24)

/-- A never-guarded slot, G = 0x8 (R22). -/
def isCarrier (w : SlotWord) : Bool := bitsOf w 20 4 == 8

/-- The value bits that a carrier gives (R25). -/
def carried (b : Bundle) (k : Nat) : Nat := bitsOf (slotOf b k) 0 20

/-- The operand port of a code 0x080 to 0x0A4 (R77). -/
def portOfCode (d : Nat) : Option Port :=
  match d with
  | 0x80 => some .sa0a
  | 0x81 => some .sa0b
  | 0x82 => some .sa0d
  | 0x83 => some .sa1a
  | 0x84 => some .sa1b
  | 0x85 => some .sa1d
  | 0x86 => some .agua
  | 0x87 => some .agub
  | 0x88 => some .agud
  | 0x89 => some .ctla
  | 0x8a => some .ctlb
  | 0x8b => some .lsua
  | 0x8c => some .lsub
  | 0x8d => some .lsuc
  | 0x8e => some .lsuy
  | 0x8f => some .lsud
  | 0x90 => some .veca
  | 0x91 => some .vecb
  | 0x92 => some .vecc
  | 0x93 => some .veck
  | 0x94 => some .vecy
  | 0x95 => some .vecz
  | 0x96 => some .vecd
  | 0x97 => some .lgy
  | 0x98 => some .lgd
  | 0x99 => some .lgb
  | 0x9a => some .srtb
  | 0x9b => some .srtd
  | 0x9c => some .mxa
  | 0x9d => some .mxe
  | 0x9e => some .mxd
  | 0x9f => some .syna
  | 0xa0 => some .synb
  | 0xa1 => some .synd
  | 0xa2 => some .spca
  | 0xa3 => some .spcb
  | 0xa4 => some .spcd
  | _ => none

/-- The code of an operand port (R77). -/
def Port.code : Port → Nat
  | .sa0a => 0x80
  | .sa0b => 0x81
  | .sa0d => 0x82
  | .sa1a => 0x83
  | .sa1b => 0x84
  | .sa1d => 0x85
  | .agua => 0x86
  | .agub => 0x87
  | .agud => 0x88
  | .ctla => 0x89
  | .ctlb => 0x8a
  | .lsua => 0x8b
  | .lsub => 0x8c
  | .lsuc => 0x8d
  | .lsuy => 0x8e
  | .lsud => 0x8f
  | .veca => 0x90
  | .vecb => 0x91
  | .vecc => 0x92
  | .veck => 0x93
  | .vecy => 0x94
  | .vecz => 0x95
  | .vecd => 0x96
  | .lgy => 0x97
  | .lgd => 0x98
  | .lgb => 0x99
  | .srtb => 0x9a
  | .srtd => 0x9b
  | .mxa => 0x9c
  | .mxe => 0x9d
  | .mxd => 0x9e
  | .syna => 0x9f
  | .synb => 0xa0
  | .synd => 0xa1
  | .spca => 0xa2
  | .spcb => 0xa3
  | .spcd => 0xa4

/-- 0x128: own, named by t[0] where t is an immediate (R277). -/
def ownOf (h : Head) : Instr :=
  match h.src.imm with
  | some v => if v.getLsbD 0 then .ownToEngine h else .ownToThread h
  | none => .ownToEngine h

/-- 0x19D: acmp, named by t[6:4] where t is an immediate (R346). -/
def acmpOf (h : Head) : Instr :=
  match h.src.imm with
  | some v => match (acmpOp v).toNat with
    | 1 => .acmpRun h | 2 => .acmpOut h | 3 => .acmpLast h | 4 => .acmpTag h | _ => .acmpGuess h
  | none => .acmpGuess h


/-- A register destination of a code 0x000 to 0x07D (R24). -/
def regOfCode (d : Nat) : Option RegDst :=
  if d < 0x40 then some (.s (BitVec.ofNat 6 d))
  else if d < 0x60 then some (.v (BitVec.ofNat 5 d))
  else if d < 0x68 then some (.p (BitVec.ofNat 3 d))
  else if d < 0x70 then some (.m (BitVec.ofNat 3 d))
  else if d < 0x78 then some (.tcfg (BitVec.ofNat 3 d))
  else match d with
    | 0x78 => some .acp | 0x79 => some .rrb | 0x7a => some .lc
    | 0x7b => some .ec | 0x7c => some .mcfg | 0x7d => some .pcfg
    | _ => none

def RegDst.code : RegDst → Nat
  | .s n => n.toNat | .v n => 0x40 + n.toNat | .p n => 0x60 + n.toNat | .m n => 0x68 + n.toNat
  | .tcfg n => 0x70 + n.toNat | .acp => 0x78 | .rrb => 0x79 | .lc => 0x7a | .ec => 0x7b
  | .mcfg => 0x7c | .pcfg => 0x7d

/-- The destination of a plain move (R24); `none` for trigger codes and codes that R77 assigns to nothing. -/
def mdstOfCode (d : Nat) : Option MDst :=
  if d < 0x80 then (regOfCode d).map .reg
  else if d < 0xa5 then (portOfCode d).map .port
  else if 0xb0 ≤ d ∧ d < 0xb8 then some (.tileW (BitVec.ofNat 3 d))
  else none

def MDst.code : MDst → Nat
  | .reg r => r.code
  | .port p => p.code
  | .tileW k => 0xb0 + k.toNat

/-- The source of a code, within its bundle (R23, R25, R76). -/
def decodeSrc (b : Bundle) (s : Nat) : Except EncErr Src :=
  if s < 0x40 then .ok (.s (BitVec.ofNat 6 s))
  else if s < 0x60 then .ok (.v (BitVec.ofNat 5 s))
  else if s < 0x68 then .ok (.p (BitVec.ofNat 3 s))
  else if s < 0x70 then .ok (.m (BitVec.ofNat 3 s))
  else if s < 0x78 then .ok (.tcfg (BitVec.ofNat 3 s))
  else if s < 0x80 then .ok (match s with
    | 0x78 => .acp | 0x79 => .rrb | 0x7a => .lc | 0x7b => .ec | 0x7c => .mcfg | 0x7d => .pcfg
    | 0x7e => .did | _ => .crd)
  else if s < 0x88 then .ok (.tn (BitVec.ofNat 3 s))
  else if s < 0x90 then .ok (.th (BitVec.ofNat 3 s))
  else if s < 0x96 then .ok (match s with
    | 0x90 => .lq | 0x91 => .ftime | 0x92 => .cyc | 0x93 => .hb | 0x94 => .rxq | _ => .sst)
  else if s < 0x100 then .error .illSrc
  else if s < 0x300 then .ok (.imm9 (BitVec.ofNat 9 (s + 0x200)))
  else if s < 0x3f0 then .error .illSrc
  else if s < 0x3f8 then
    let k := s - 0x3f0
    if isCarrier (slotOf b k) then .ok (.limm20 (BitVec.ofNat 3 k) (BitVec.ofNat 20 (carried b k)))
    else .error .illLimm
  else if s < 0x3ff then
    let k := s - 0x3f8
    if isCarrier (slotOf b k) && isCarrier (slotOf b (k + 1)) then
      .ok (.limm40 (BitVec.ofNat 3 k) (BitVec.ofNat 40 (carried b k + 2 ^ 20 * carried b (k + 1))))
    else .error .illLimm
  else .error .illLimm

/-- The source field of a source (R23). -/
def Src.code : Src → Nat
  | .s n => n.toNat | .v n => 0x40 + n.toNat | .p n => 0x60 + n.toNat | .m n => 0x68 + n.toNat
  | .tcfg n => 0x70 + n.toNat | .acp => 0x78 | .rrb => 0x79 | .lc => 0x7a | .ec => 0x7b
  | .mcfg => 0x7c | .pcfg => 0x7d | .did => 0x7e | .crd => 0x7f
  | .tn k => 0x80 + k.toNat | .th k => 0x88 + k.toNat | .lq => 0x90 | .ftime => 0x91 | .cyc => 0x92
  | .hb => 0x93 | .rxq => 0x94 | .sst => 0x95
  | .imm9 i => 0x100 + (i.toNat + 0x100) % 0x200
  | .limm20 k _ => 0x3f0 + k.toNat
  | .limm40 k _ => 0x3f8 + k.toNat

/-- The operation of a trigger code (R83). Codes that two rows share are told apart by an immediate t; otherwise the first row of the table stands for the code, and its meaning looks at t itself (log 6). -/
def opOfCode (d : Nat) (h : Head) : Option Instr :=
  match d with
  | 0xc0 => some (.add .sa0 h)
  | 0xc1 => some (.sub .sa0 h)
  | 0xc2 => some (.and .sa0 h)
  | 0xc3 => some (.or .sa0 h)
  | 0xc4 => some (.xor .sa0 h)
  | 0xc5 => some (.andn .sa0 h)
  | 0xc6 => some (.shl .sa0 h)
  | 0xc7 => some (.shr .sa0 h)
  | 0xc8 => some (.sar .sa0 h)
  | 0xc9 => some (.rotl .sa0 h)
  | 0xca => some (.min .sa0 h)
  | 0xcb => some (.max .sa0 h)
  | 0xcc => some (.minu .sa0 h)
  | 0xcd => some (.maxu .sa0 h)
  | 0xce => some (.seq .sa0 h)
  | 0xcf => some (.sne .sa0 h)
  | 0xd0 => some (.slt .sa0 h)
  | 0xd1 => some (.sltu .sa0 h)
  | 0xd2 => some (.sle .sa0 h)
  | 0xd3 => some (.sleu .sa0 h)
  | 0xd4 => some (.sel .sa0 h)
  | 0xd5 => some (.mul .sa0 h)
  | 0xd6 => some (.mulh .sa0 h)
  | 0xd7 => some (.mulhu .sa0 h)
  | 0xd8 => some (.clz .sa0 h)
  | 0xd9 => some (.ctz .sa0 h)
  | 0xda => some (.popc .sa0 h)
  | 0xdb => some (.bfx .sa0 h)
  | 0xdc => some (.bfi .sa0 h)
  | 0xdd => some (.sext .sa0 h)
  | 0xde => some (.zext .sa0 h)
  | 0xe0 => some (.add .sa1 h)
  | 0xe1 => some (.sub .sa1 h)
  | 0xe2 => some (.and .sa1 h)
  | 0xe3 => some (.or .sa1 h)
  | 0xe4 => some (.xor .sa1 h)
  | 0xe5 => some (.andn .sa1 h)
  | 0xe6 => some (.shl .sa1 h)
  | 0xe7 => some (.shr .sa1 h)
  | 0xe8 => some (.sar .sa1 h)
  | 0xe9 => some (.rotl .sa1 h)
  | 0xea => some (.min .sa1 h)
  | 0xeb => some (.max .sa1 h)
  | 0xec => some (.minu .sa1 h)
  | 0xed => some (.maxu .sa1 h)
  | 0xee => some (.seq .sa1 h)
  | 0xef => some (.sne .sa1 h)
  | 0xf0 => some (.slt .sa1 h)
  | 0xf1 => some (.sltu .sa1 h)
  | 0xf2 => some (.sle .sa1 h)
  | 0xf3 => some (.sleu .sa1 h)
  | 0xf4 => some (.sel .sa1 h)
  | 0xf5 => some (.mul .sa1 h)
  | 0xf6 => some (.mulh .sa1 h)
  | 0xf7 => some (.mulhu .sa1 h)
  | 0xf8 => some (.clz .sa1 h)
  | 0xf9 => some (.ctz .sa1 h)
  | 0xfa => some (.popc .sa1 h)
  | 0xfb => some (.bfx .sa1 h)
  | 0xfc => some (.bfi .sa1 h)
  | 0xfd => some (.sext .sa1 h)
  | 0xfe => some (.zext .sa1 h)
  | 0xff => some (.div h)
  | 0x100 => some (.divu h)
  | 0x101 => some (.rem h)
  | 0x102 => some (.remu h)
  | 0x104 => some (.lea h)
  | 0x105 => some (.leaw h)
  | 0x106 => some (.cadd h)
  | 0x108 => some (.jmp h)
  | 0x109 => some (.jmpi h)
  | 0x10a => some (.call h)
  | 0x10b => some (.ret h)
  | 0x10c => some (.jtab h)
  | 0x10d => some (.loop h)
  | 0x10e => some (.done h)
  | 0x10f => some (.trap h)
  | 0x110 => some (.sys h)
  | 0x111 => some (.fuse h)
  | 0x112 => some (.dcpl h)
  | 0x113 => some (.rejoin h)
  | 0x114 => some (.uintReturn h)
  | 0x115 => some (.spt h)
  | 0x116 => some (.wait h)
  | 0x117 => some (.csrr h)
  | 0x118 => some (.csrw h)
  | 0x11c => some (.ld h)
  | 0x11d => some (.ldq h)
  | 0x11e => some (.st h)
  | 0x11f => some (.ldx h)
  | 0x120 => some (.stx h)
  | 0x121 => some (.qmark h)
  | 0x122 => some (.fence h)
  | 0x123 => some (.fsc h)
  | 0x124 => some (.pref h)
  | 0x125 => some (.smap h)
  | 0x126 => some (.sunm h)
  | 0x127 => some (.sfl h)
  | 0x128 => some (ownOf h)
  | 0x129 => some (.rinv h)
  | 0x12a => some (.amoAdd h)
  | 0x12b => some (.amoFadd h)
  | 0x12c => some (.amoMax h)
  | 0x12d => some (.amoMin h)
  | 0x12e => some (.amoMaxu h)
  | 0x12f => some (.amoMinu h)
  | 0x130 => some (.amoFmax h)
  | 0x131 => some (.amoFmin h)
  | 0x132 => some (.amoAnd h)
  | 0x133 => some (.amoOr h)
  | 0x134 => some (.amoXor h)
  | 0x135 => some (.amoSwp h)
  | 0x136 => some (.amoCas h)
  | 0x137 => some (.nraAdd h)
  | 0x138 => some (.nraFadd h)
  | 0x139 => some (.nraMax h)
  | 0x13a => some (.nraMin h)
  | 0x13b => some (.nraMaxu h)
  | 0x13c => some (.nraMinu h)
  | 0x13d => some (.nraFmax h)
  | 0x13e => some (.nraFmin h)
  | 0x13f => some (.nraAnd h)
  | 0x140 => some (.nraOr h)
  | 0x141 => some (.nraXor h)
  | 0x142 => some (.redAdd h)
  | 0x143 => some (.redFadd h)
  | 0x144 => some (.redFmax h)
  | 0x148 => some (.vadd h)
  | 0x149 => some (.vsub h)
  | 0x14a => some (.vmul h)
  | 0x14b => some (.vfma h)
  | 0x14c => some (.vmin h)
  | 0x14d => some (.vmax h)
  | 0x14e => some (.vabs h)
  | 0x14f => some (.vneg h)
  | 0x150 => some (.vand h)
  | 0x151 => some (.vor h)
  | 0x152 => some (.vxor h)
  | 0x153 => some (.vshl h)
  | 0x154 => some (.vshr h)
  | 0x155 => some (.vsar h)
  | 0x156 => some (.vceq h)
  | 0x157 => some (.vclt h)
  | 0x158 => some (.vcle h)
  | 0x159 => some (.vsel h)
  | 0x15a => some (.vcvt h)
  | 0x15b => some (.vbc h)
  | 0x15c => some (.vext h)
  | 0x15d => some (.vins h)
  | 0x15e => some (.vperm h)
  | 0x15f => some (.vrot h)
  | 0x160 => some (.vsum h)
  | 0x161 => some (.vrmax h)
  | 0x162 => some (.vmaxi h)
  | 0x163 => some (.vrmin h)
  | 0x164 => some (.vpopc h)
  | 0x165 => some (.vmexp h)
  | 0x166 => some (.vmpak h)
  | 0x167 => some (.vcls h)
  | 0x168 => some (.vbnd h)
  | 0x169 => some (.viota h)
  | 0x16a => some (.vsqz h)
  | 0x170 => some (.lg2 h)
  | 0x171 => some (.ln h)
  | 0x172 => some (.ex2 h)
  | 0x173 => some (.exp h)
  | 0x174 => some (.rcp h)
  | 0x175 => some (.rsq h)
  | 0x176 => some (.sqrt h)
  | 0x177 => some (.tanh h)
  | 0x178 => some (.sigm h)
  | 0x179 => some (.gmb h)
  | 0x17a => some (.rndGenerator h)
  | 0x17c => some (.sclr h)
  | 0x17d => some (.smrg h)
  | 0x17e => some (.srd h)
  | 0x17f => some (.ssort h)
  | 0x180 => some (.scsum h)
  | 0x184 => some (.push h)
  | 0x185 => some (.shift h)
  | 0x186 => some (.acc h)
  | 0x187 => some (.accz h)
  | 0x188 => some (.drain h)
  | 0x189 => some (.mxclr h)
  | 0x18c => some (.spawn h)
  | 0x18d => some (.spawnd h)
  | 0x18e => some (.dcnt h)
  | 0x18f => some (.bpost h)
  | 0x190 => some (.bwait h)
  | 0x191 => some (.barv h)
  | 0x192 => some (.cstage h)
  | 0x193 => some (.gth h)
  | 0x194 => some (.coll h)
  | 0x195 => some (.esend h)
  | 0x196 => some (.uien h)
  | 0x197 => some (.hbw h)
  | 0x19c => some (.sgo h)
  | 0x19d => some (acmpOf h)
  | 0x19e => some (.scmt h)
  | 0x19f => some (.sabt h)
  | 0x1a0 => some (.apreg h)
  | 0x1a1 => some (.fnext h)
  | _ => none

/-- The trigger code of an operation (R83); `none` for moves, bundles and events. -/
def Instr.opCode : Instr → Option Nat
  | .add u _ => some (match u with | .sa0 => 0xc0 | .sa1 => 0xe0)
  | .sub u _ => some (match u with | .sa0 => 0xc1 | .sa1 => 0xe1)
  | .and u _ => some (match u with | .sa0 => 0xc2 | .sa1 => 0xe2)
  | .or u _ => some (match u with | .sa0 => 0xc3 | .sa1 => 0xe3)
  | .xor u _ => some (match u with | .sa0 => 0xc4 | .sa1 => 0xe4)
  | .andn u _ => some (match u with | .sa0 => 0xc5 | .sa1 => 0xe5)
  | .min u _ => some (match u with | .sa0 => 0xca | .sa1 => 0xea)
  | .max u _ => some (match u with | .sa0 => 0xcb | .sa1 => 0xeb)
  | .minu u _ => some (match u with | .sa0 => 0xcc | .sa1 => 0xec)
  | .maxu u _ => some (match u with | .sa0 => 0xcd | .sa1 => 0xed)
  | .shl u _ => some (match u with | .sa0 => 0xc6 | .sa1 => 0xe6)
  | .shr u _ => some (match u with | .sa0 => 0xc7 | .sa1 => 0xe7)
  | .sar u _ => some (match u with | .sa0 => 0xc8 | .sa1 => 0xe8)
  | .rotl u _ => some (match u with | .sa0 => 0xc9 | .sa1 => 0xe9)
  | .seq u _ => some (match u with | .sa0 => 0xce | .sa1 => 0xee)
  | .sne u _ => some (match u with | .sa0 => 0xcf | .sa1 => 0xef)
  | .slt u _ => some (match u with | .sa0 => 0xd0 | .sa1 => 0xf0)
  | .sltu u _ => some (match u with | .sa0 => 0xd1 | .sa1 => 0xf1)
  | .sle u _ => some (match u with | .sa0 => 0xd2 | .sa1 => 0xf2)
  | .sleu u _ => some (match u with | .sa0 => 0xd3 | .sa1 => 0xf3)
  | .sel u _ => some (match u with | .sa0 => 0xd4 | .sa1 => 0xf4)
  | .mul u _ => some (match u with | .sa0 => 0xd5 | .sa1 => 0xf5)
  | .mulh u _ => some (match u with | .sa0 => 0xd6 | .sa1 => 0xf6)
  | .mulhu u _ => some (match u with | .sa0 => 0xd7 | .sa1 => 0xf7)
  | .clz u _ => some (match u with | .sa0 => 0xd8 | .sa1 => 0xf8)
  | .ctz u _ => some (match u with | .sa0 => 0xd9 | .sa1 => 0xf9)
  | .popc u _ => some (match u with | .sa0 => 0xda | .sa1 => 0xfa)
  | .bfx u _ => some (match u with | .sa0 => 0xdb | .sa1 => 0xfb)
  | .bfi u _ => some (match u with | .sa0 => 0xdc | .sa1 => 0xfc)
  | .sext u _ => some (match u with | .sa0 => 0xdd | .sa1 => 0xfd)
  | .zext u _ => some (match u with | .sa0 => 0xde | .sa1 => 0xfe)
  | .div _ => some 0xff
  | .divu _ => some 0x100
  | .rem _ => some 0x101
  | .remu _ => some 0x102
  | .lea _ => some 0x104
  | .leaw _ => some 0x105
  | .cadd _ => some 0x106
  | .jmp _ => some 0x108
  | .jmpi _ => some 0x109
  | .call _ => some 0x10a
  | .ret _ => some 0x10b
  | .jtab _ => some 0x10c
  | .loop _ => some 0x10d
  | .done _ => some 0x10e
  | .spt _ => some 0x115
  | .wait _ => some 0x116
  | .fuse _ => some 0x111
  | .dcpl _ => some 0x112
  | .rejoin _ => some 0x113
  | .uintReturn _ => some 0x114
  | .trap _ => some 0x10f
  | .sys _ => some 0x110
  | .csrr _ => some 0x117
  | .csrw _ => some 0x118
  | .ld _ => some 0x11c
  | .ldq _ => some 0x11d
  | .st _ => some 0x11e
  | .ldx _ => some 0x11f
  | .stx _ => some 0x120
  | .qmark _ => some 0x121
  | .fence _ => some 0x122
  | .fsc _ => some 0x123
  | .pref _ => some 0x124
  | .smap _ => some 0x125
  | .sunm _ => some 0x126
  | .sfl _ => some 0x127
  | .ownToEngine _ => some 0x128
  | .ownToThread _ => some 0x128
  | .rinv _ => some 0x129
  | .amoAdd _ => some 0x12a
  | .amoFadd _ => some 0x12b
  | .amoMax _ => some 0x12c
  | .amoMin _ => some 0x12d
  | .amoMaxu _ => some 0x12e
  | .amoMinu _ => some 0x12f
  | .amoFmax _ => some 0x130
  | .amoFmin _ => some 0x131
  | .amoAnd _ => some 0x132
  | .amoOr _ => some 0x133
  | .amoXor _ => some 0x134
  | .amoSwp _ => some 0x135
  | .amoCas _ => some 0x136
  | .nraAdd _ => some 0x137
  | .nraFadd _ => some 0x138
  | .nraMax _ => some 0x139
  | .nraMin _ => some 0x13a
  | .nraMaxu _ => some 0x13b
  | .nraMinu _ => some 0x13c
  | .nraFmax _ => some 0x13d
  | .nraFmin _ => some 0x13e
  | .nraAnd _ => some 0x13f
  | .nraOr _ => some 0x140
  | .nraXor _ => some 0x141
  | .redAdd _ => some 0x142
  | .redFadd _ => some 0x143
  | .redFmax _ => some 0x144
  | .vadd _ => some 0x148
  | .vsub _ => some 0x149
  | .vmul _ => some 0x14a
  | .vfma _ => some 0x14b
  | .vmin _ => some 0x14c
  | .vmax _ => some 0x14d
  | .vabs _ => some 0x14e
  | .vneg _ => some 0x14f
  | .vand _ => some 0x150
  | .vor _ => some 0x151
  | .vxor _ => some 0x152
  | .vshl _ => some 0x153
  | .vshr _ => some 0x154
  | .vsar _ => some 0x155
  | .vceq _ => some 0x156
  | .vclt _ => some 0x157
  | .vcle _ => some 0x158
  | .vsel _ => some 0x159
  | .vcvt _ => some 0x15a
  | .vbc _ => some 0x15b
  | .vext _ => some 0x15c
  | .vins _ => some 0x15d
  | .vperm _ => some 0x15e
  | .vrot _ => some 0x15f
  | .vsum _ => some 0x160
  | .vrmax _ => some 0x161
  | .vrmin _ => some 0x163
  | .vmaxi _ => some 0x162
  | .vpopc _ => some 0x164
  | .vmexp _ => some 0x165
  | .vmpak _ => some 0x166
  | .vcls _ => some 0x167
  | .viota _ => some 0x169
  | .vsqz _ => some 0x16a
  | .vbnd _ => some 0x168
  | .lg2 _ => some 0x170
  | .ln _ => some 0x171
  | .ex2 _ => some 0x172
  | .exp _ => some 0x173
  | .rcp _ => some 0x174
  | .rsq _ => some 0x175
  | .sqrt _ => some 0x176
  | .tanh _ => some 0x177
  | .sigm _ => some 0x178
  | .gmb _ => some 0x179
  | .rndGenerator _ => some 0x17a
  | .rndReplay _ => some 0x17a
  | .sclr _ => some 0x17c
  | .smrg _ => some 0x17d
  | .srd _ => some 0x17e
  | .ssort _ => some 0x17f
  | .scsum _ => some 0x180
  | .push _ => some 0x184
  | .shift _ => some 0x185
  | .acc _ => some 0x186
  | .accz _ => some 0x187
  | .drain _ => some 0x188
  | .mxclr _ => some 0x189
  | .spawn _ => some 0x18c
  | .spawnd _ => some 0x18d
  | .dcnt _ => some 0x18e
  | .cstage _ => some 0x192
  | .uien _ => some 0x196
  | .bpost _ => some 0x18f
  | .barv _ => some 0x191
  | .bwait _ => some 0x190
  | .hbw _ => some 0x197
  | .gth _ => some 0x193
  | .coll _ => some 0x194
  | .esend _ => some 0x195
  | .sgo _ => some 0x19c
  | .acmpGuess _ => some 0x19d
  | .acmpRun _ => some 0x19d
  | .acmpOut _ => some 0x19d
  | .acmpLast _ => some 0x19d
  | .acmpTag _ => some 0x19d
  | .scmt _ => some 0x19e
  | .sabt _ => some 0x19f
  | .apreg _ => some 0x1a0
  | .fnext _ => some 0x1a1
  | _ => none

/-- Guard and source of an operation. -/
def Instr.head? : Instr → Option Head
  | .add _ h | .sub _ h | .and _ h | .or _ h | .xor _ h | .andn _ h | .min _ h | .max _ h | .minu _ h
  | .maxu _ h | .shl _ h | .shr _ h | .sar _ h | .rotl _ h | .seq _ h | .sne _ h | .slt _ h | .sltu _ h
  | .sle _ h | .sleu _ h | .sel _ h | .mul _ h | .mulh _ h | .mulhu _ h | .clz _ h | .ctz _ h | .popc _ h
  | .bfx _ h | .bfi _ h | .sext _ h | .zext _ h | .div h | .divu h | .rem h | .remu h | .lea h | .leaw h
  | .cadd h | .jmp h | .jmpi h | .call h | .ret h | .jtab h | .loop h | .done h | .spt h | .wait h | .fuse h
  | .dcpl h | .rejoin h | .uintReturn h | .trap h | .sys h | .csrr h | .csrw h | .ld h | .ldq h | .st h
  | .ldx h | .stx h | .qmark h | .fence h | .fsc h | .pref h | .smap h | .sunm h | .sfl h | .ownToEngine h
  | .ownToThread h | .rinv h | .amoAdd h | .amoFadd h | .amoMax h | .amoMin h | .amoMaxu h | .amoMinu h
  | .amoFmax h | .amoFmin h | .amoAnd h | .amoOr h | .amoXor h | .amoSwp h | .amoCas h | .nraAdd h
  | .nraFadd h | .nraMax h | .nraMin h | .nraMaxu h | .nraMinu h | .nraFmax h | .nraFmin h | .nraAnd h
  | .nraOr h | .nraXor h | .redAdd h | .redFadd h | .redFmax h | .vadd h | .vsub h | .vmul h | .vfma h
  | .vmin h | .vmax h | .vabs h | .vneg h | .vand h | .vor h | .vxor h | .vshl h | .vshr h | .vsar h | .vceq h
  | .vclt h | .vcle h | .vsel h | .vcvt h | .vbc h | .vext h | .vins h | .vperm h | .vrot h | .vsum h
  | .vrmax h | .vrmin h | .vmaxi h | .vpopc h | .vmexp h | .vmpak h | .vcls h | .viota h | .vsqz h | .vbnd h
  | .lg2 h | .ln h | .ex2 h | .exp h | .rcp h | .rsq h | .sqrt h | .tanh h | .sigm h | .gmb h
  | .rndGenerator h | .rndReplay h | .sclr h | .smrg h | .srd h | .ssort h | .scsum h | .push h | .shift h
  | .acc h | .accz h | .drain h | .mxclr h | .spawn h | .spawnd h | .dcnt h | .cstage h | .uien h | .bpost h
  | .barv h | .bwait h | .hbw h | .gth h | .coll h | .esend h | .sgo h | .acmpGuess h | .acmpRun h
  | .acmpOut h | .acmpLast h | .acmpTag h | .scmt h | .sabt h | .apreg h | .fnext h => some h
  | _ => none

/-- One slot of a bundle that is not a carrier (R76): checks in the order written there. -/
def decodeSlot (b : Bundle) (k : Nat) : Except EncErr Instr :=
  let w := slotOf b k
  let g : Guard := { inv := w.getLsbD 23, p := BitVec.ofNat 3 (bitsOf w 20 3) }
  let d := bitsOf w 0 9
  let hold := w.getLsbD 9
  match decodeSrc b (bitsOf w 10 10) with
  | .error e => .error e
  | .ok src =>
    match mdstOfCode d with
    | some dst => if holdOk hold dst then .ok (.move g src hold dst) else .error .illHold
    | none =>
      match opOfCode d { g := g, src := src } with
      | some i => if hold then .error .illHold else .ok i
      | none => .error .illDst

/-- Whether slots 1 to 7 are all carriers. -/
def restCarriers (b : Bundle) : Bool :=
  isCarrier (slotOf b 1) && isCarrier (slotOf b 2) && isCarrier (slotOf b 3) && isCarrier (slotOf b 4)
    && isCarrier (slotOf b 5) && isCarrier (slotOf b 6) && isCarrier (slotOf b 7)

/-- A bundle's instruction: the move or operation of slot 0 where it stands alone and is encoded well, else the bundle as a whole, whose meaning raises the encoding traps (log 5). -/
def decode (b : Bundle) : Instr :=
  if restCarriers b && !isCarrier (slotOf b 0) then
    match decodeSlot b 0 with
    | .ok i => i
    | .error _ => .bundleIssue b
  else .bundleIssue b

/-- A slot word of its fields (R21). -/
def slotWord (g : Guard) (s : Nat) (hold : Bool) (d : Nat) : Nat :=
  (if g.inv then 2 ^ 23 else 0) + g.p.toNat * 2 ^ 20 + s % 2 ^ 10 * 2 ^ 10 + (if hold then 2 ^ 9 else 0) + d % 2 ^ 9

/-- The carrier at slot k that a long immediate needs, 0x80_0000 elsewhere (R25, R44). -/
def carrierFor (src : Src) (k : Nat) : Nat :=
  0x800000 + (match src with
    | .limm20 j i => if k = j.toNat then i.toNat else 0
    | .limm40 j i => if k = j.toNat then i.toNat % 2 ^ 20 else if k = j.toNat + 1 then i.toNat / 2 ^ 20 else 0
    | _ => 0)

/-- The bundle with a slot word in slot 0 and the carriers of its source behind it. -/
def bundleOf (w : Nat) (src : Src) : Bundle :=
  BitVec.ofNat 192 (w + carrierFor src 1 * 2 ^ 24 + carrierFor src 2 * 2 ^ 48 + carrierFor src 3 * 2 ^ 72
    + carrierFor src 4 * 2 ^ 96 + carrierFor src 5 * 2 ^ 120 + carrierFor src 6 * 2 ^ 144 + carrierFor src 7 * 2 ^ 168)

/-- The words of an instruction: a move or an operation in slot 0 of a bundle of carriers, a bundle as it is. Events have no words. -/
def encode (i : Instr) : Option Bundle :=
  match i with
  | .move g src hold dst => some (bundleOf (slotWord g src.code hold dst.code) src)
  | .bundleIssue b => some b
  | i =>
    match i.opCode, i.head? with
    | some d, some h => some (bundleOf (slotWord h.g h.src.code false d) h.src)
    | _, _ => none

/-- Instructions that the words of a bundle name: well-formed moves and operations, but for rows told apart from another row of their code by a register or a port alone (log 6). -/
def Instr.hasOwnWord (i : Instr) : Bool :=
  match i with
  | .move .. => i.wf
  | .rndReplay _ => false
  | .ownToThread h | .acmpRun h | .acmpOut h | .acmpLast h | .acmpTag h => i.wf && h.src.imm.isSome
  | i => i.wf && i.opCode.isSome

/-- The instruction of a table word: up to 24 bits are slot 0 of a bundle of carriers, more are a whole bundle, bits above nbits zero (log 5). -/
def decodeTableWord (nbits w : Nat) : Option Instr :=
  if nbits ≤ 24 then
    let b := bundleOf (w % 2 ^ 24) .acp
    if isCarrier (slotOf b 0) then some (.bundleIssue b)
    else (decodeSlot b 0).toOption
  else some (decode (BitVec.ofNat 192 (w % 2 ^ nbits)))

end Sys2Proof
end

