-- ==== Sys2Proof/Config.lean ====
section
/-! DEFINITION. The free values: what the spec leaves open and the machine nevertheless reads. No body, so no proof sees a number (R11). -/

namespace Sys2Proof.Config

/-- The n-th undefined value read by the machine: any value of the destination's full width (R11). DESIGN CHOICE (log 2); unsafe only where a claim needs a relation between two of them. -/
opaque freeRow : Nat → Row

/-- The n-th answer that arrives from outside the device: the data of an I/O read (R223), a completion error flag in bit 0 of the second row. DESIGN CHOICE (log 12). -/
opaque ioRead : Nat → Row

/-- Signatures, certificates and keys that the Mordant die produces (R400, R401): the n-th block of them. DESIGN CHOICE (log 24). -/
opaque mordantBlock : Nat → BitVec 256

/-- The n-th sensor reading that PLDM reports (R404). DESIGN CHOICE (log 24). -/
opaque sensor : Nat → BitVec 32

/-- The n-th reading of the activity meters (R381): what they leave of a partition's tokens at an interval's end. DESIGN CHOICE (log 7). -/
opaque meter : Nat → Nat

end Sys2Proof.Config
end

