-- ==== Sys2Proof/Machine/State.lean ====
section
/-! DEFINITION. The state of the device as plain data: the task in focus, the other tasks, memory, the partitions, the scheduler, the engines, the endpoint, the mirrors and the Mordant die; the state after reset; the reasons a step stops. -/

namespace Sys2Proof.Machine

/-- A step of this model stops with a fault nowhere in a program's run: every trap of R88 is taken as the spec describes it. -/
inductive Fault where
  /-- Nobody raises it: the spec leaves no access of the device without a stated outcome. Safe. -/
  | none
  deriving DecidableEq, Repr

/-- Why a step has no meaning. -/
inductive Refusal where
  /-- Raised by a dispatch arm whose instruction has no meaning yet. Safe: nothing is claimed of it. -/
  | notModelled (mnemonic : String)
  deriving DecidableEq, Repr

/-- A sparse array: rising keys, no zero entry (`Memory.wf` in Machine/Ops.lean); an unlisted key reads 0. -/
abbrev Sparse (w : Nat) := List (Nat × BitVec w)

/-- Trap causes (R88). -/
inductive Cause where
  | illSrc | illDst | illHold | illLimm | bundleConflict | illType | illScope
  | pageFault | prot | format | owner | space | barOverrun | barBroken | rngPos | lqEmpty
  | specEffect | specDepth | wctExceeded | killed | poison | machineCheck | trapInsn | priv
  deriving DecidableEq, Repr

/-- What a trap report holds beside its cause (R34, R315). -/
structure Trap where
  cause : Cause
  slot : Nat := 0
  lane : Nat := 0
  addr : Nat := 0
  info : Nat := 0
  /-- 1 for an engine's fault, with the row reached (R285, R315). -/
  kind : Nat := 0
  info2 : Nat := 0
  /-- Bundle and slot of a report that is not precise: slot · 2^13 + bundle. -/
  loc : Option Nat := none
  /-- When it was raised, in fleet ns (R315). -/
  at_ : Option Nat := none
  /-- The line of the poisoned data that a POISON consumes (R335, log 17). -/
  line : Option Nat := none
  deriving DecidableEq, Repr

/-! ### One task -/

/-- The scalar, vector, predicate, mask and special registers (R17, R18). -/
structure Regs where
  s : Vector W64 64
  v : Vector Row 32
  p : Vector Bool 8
  m : Vector Mask 8
  tcfg : Vector W64 8
  acp : W64
  rrb : W64
  lc : W64
  ec : W64
  mcfg : W64
  pcfg : W64
  pc : Nat
  cyc : Nat
  /-- Registers whose landed data is poisoned (R35). -/
  poison : List RegDst
  deriving DecidableEq, Repr

/-- An operand port: its value, whether a move has written it since the last consuming trigger, and its held mark (R29, R31). -/
structure Latch where
  val : Row
  full : Bool
  held : Bool
  deriving DecidableEq, Repr

/-- Where a result goes, after renaming (R32, R81). -/
inductive Dest where
  | reg (r : RegDst) | tileW (k : BitVec 3) | drop
  deriving DecidableEq, Repr

/-- How a result in flight lands: within a latency bound, at a landing slot, or at the drain of a deferred operation (R36, R37, R354). -/
inductive FlightKind where
  | fixed | timed | deferred
  deriving DecidableEq, Repr

/-- A result in flight. `val` is none until the data is there; `dead` marks one that a later-issued write has settled against; `landed` one that has written its destination early, `seg` the tile segment that it took then. -/
structure Flight where
  dest : Dest
  kind : FlightKind
  val : Option Row
  poison : Bool
  due : Nat
  seq : Nat
  dead : Bool
  landed : Bool
  seg : Option Nat := none
  deriving DecidableEq, Repr

/-- A load-queue entry (R38). -/
structure LqEntry where
  seq : Nat
  val : Option Row
  poison : Bool
  deriving DecidableEq, Repr

/-- Where an access goes once its window and its page are known. -/
inductive Target where
  /-- A row of the own scratchpad (R111). -/
  | plate (row : Nat)
  /-- A row of device memory: virtual row, physical address, class, page format, frame base (R213, R214). -/
  | glob (va pa coh fmt base : Nat) (poisoned : Bool)
  /-- A row of the I/O window: virtual row, physical address (R223). -/
  | io (va pa : Nat)
  /-- A row bound by a stash entry: entry, plate row, and the global row it is filled from (R227). -/
  | stash (entry row : Nat) (src : Target)
  deriving DecidableEq, Repr

/-- One element of an indexed access (R117): lane number, target row, byte offset in the row, its operand and its compare operand. -/
structure Lane where
  i : Nat
  tgt : Target
  off : Nat
  val : Nat
  cmp : Nat
  deriving DecidableEq, Repr

/-- The update that an atomic makes (R265). -/
inductive AmoOp where
  | add | fadd | max | min | maxu | minu | fmax | fmin | and | or | xor | swp | cas
  deriving DecidableEq, Repr

/-- The operation of a red form (R268). -/
inductive RedOp where
  | add | fadd | fmax
  deriving DecidableEq, Repr

/-- What an engine operation does (R280). -/
inductive EngKind where
  | copy (entry : Nat) | gather | coll | compact
  deriving DecidableEq, Repr

/-- An engine operation (R280 to R299): its owner, its descriptor or schedule entry as it was read, rows done of how many, completion word, the barrier tag at its release, the rows it holds with those of them that are poisoned, whether it waits for its task after a page fault. `steps` is 1 once a collective's group has been read, 2 once its outcome is known, 3 while only the interrupt of R283 is left; `after` is a collective's group identity plus 1 and `ranks` its number of ranks, 0 while unknown. -/
structure EngOp where
  id : Nat
  owner : Nat
  kind : EngKind
  desc : BitVec 1024
  start : Nat
  row : Nat
  total : Nat
  cw : W64
  tag : Bool
  status : Nat
  trigger : Nat
  buf : List Row
  bad : List Nat
  stopped : Bool
  steps : Nat
  after : Nat
  ranks : Nat
  /-- The nodes of a collective's ranks, and those to which its contribution has still to go (R296, R390). -/
  nodes : List Nat := []
  toSend : List Nat := []
  /-- The die whose engine runs it. -/
  die : Nat := 0
  deriving DecidableEq, Repr

/-- A memory operation that has been triggered and has not performed or issued yet (R245, R246), and what a deferred effect does at its drain (R354, R355). -/
inductive MemKind where
  | ld (t : Target)
  | ldx (w : Nat) (lanes : List Lane)
  | st (t : Target) (data : Row)
  | stx (w : Nat) (lanes : List Lane)
  | amo (op : AmoOp) (ty : Nat) (ret : Bool) (lanes : List Lane)
  | red (op : RedOp) (ty : Nat) (t : Target) (off : Nat) (vals : List (Option Nat))
  | mark
  | fence (scope : Nat)
  | own (toEngine : Bool) (first count : Nat)
  | rinv (va pa : Nat)
  /-- A load of a speculative iteration that waits for a compaction: the iteration, then as ld and ldx (R352, R356). -/
  | ldIter (iter : Nat) (t : Target)
  | ldxIter (iter : Nat) (w : Nat) (lanes : List Lane)
  /-- A binding takes effect on plates; an unbinding's write-backs; a flush's write-backs, by plate ranges (R274 to R276). -/
  | smap (first count : Nat)
  | unbind (first count : Nat)
  | flush (plates : List (Nat × Nat))
  /-- Nothing goes ahead of it, and it waits until these operations of other ranks have gone: task and number (R343, R355). -/
  | gate (ids : List (Nat × Nat))
  /-- Logical rows lo to hi of a region are invalidated (R349). -/
  | wipe (base rb lo hi : Nat)
  /-- The compaction of a region starts (R348, R351). -/
  | compact (op : EngOp)
  | release (entries : List Nat)
  | cstage (t : Nat)
  | engine (op : EngOp)
  | barv (bar : Nat) (tag : Bool) (bytes loc : Nat)
  | dcnt (ctr : Nat)
  | spawn (rec : Nat) (arg : W64) (donate : Bool)
  | esend (sess : Nat) (seq : Nat) (deadline : Nat) (row : Row) (bad : Bool)
  deriving DecidableEq, Repr

/-- Where poisoned data stands: a result by the number of its load, a register, a tile segment, an accumulator segment, a plate row (R35, R244). -/
inductive BadAt where
  | res (seq : Nat) | reg (d : RegDst) | seg (key : Nat) | acc (g : Nat) | row (r : Nat)
  deriving DecidableEq, Repr

structure MemOp where
  seq : Nat
  kind : MemKind
  deriving DecidableEq, Repr

/-- A weight plane (R154): weights are bit patterns of the plane's rows, as loaded. -/
structure Plane where
  fmt : Nat
  nc : Nat
  rows : Nat
  /-- The rows loaded so far, row j at key j (R156). -/
  data : Sparse 1024
  /-- Stripes that lost rows with a discarded prologue buffer: they stay +0 (R156, R165). -/
  lost : List Nat
  deriving DecidableEq, Repr

/-- The matrix unit (R154, R159). Accumulator entry (q, c) has key 96 q + c. -/
structure Matrix where
  active : Plane
  shadow : Plane
  acc : Sparse 32
  /-- Accumulator segments that an engine has written from poisoned rows: segment g of row q is 3 q + g (R244, R285). -/
  accBad : List Nat := []
  deriving DecidableEq, Repr

/-- A candidate of the Lake: an fp32 pattern, an index, and its rank of entry (R144). -/
structure Cand where
  val : BitVec 32
  idx : BitVec 32
  deriving DecidableEq, Repr

/-- The valid entries, kept in value order; `ord` says whether the list is shown in index order (R144). -/
structure Lake where
  entries : List Cand
  ord : Bool
  deriving DecidableEq, Repr

/-- A stash entry (R225). -/
structure StashEntry where
  valid : Bool
  vbase : Nat
  wb : Bool
  count : Nat
  first : Nat
  deriving DecidableEq, Repr

/-- A bound row that is not EMPTY (R227): its plate row, whether DIRTY, and the target it was filled from (R228). -/
structure StashRow where
  row : Nat
  dirty : Bool
  src : Target
  deriving DecidableEq, Repr

/-- A freeze that a core stands in after a bundle (R321 FREEZE, and those that R84, R189, R276, R284, R312, R319, R367 add). A task holds a list of them: one bundle may begin several. -/
inductive Freeze where
  | bwait (bar : Nat) (par : Bool) (loc : Nat)
  | hbw (target : Nat)
  | fence (scope : Nat)
  | fsc (tick : Option Nat)
  | rejoin (mask : Nat)
  /-- After an sfl, until its write-backs are visible (R276). -/
  | flush
  /-- Stopped to be replayed, until the release of R251 is made (R335). -/
  | replayWait
  /-- A mirror point; `last` at the task's done (R367). -/
  | mirror (last : Bool)
  /-- After done, until the task's engine operations have completed (R284). -/
  | done
  /-- A sys that waits to leave: service, place, and when it took effect (R312, R315, R319). -/
  | sysWait (service loc at_ : Nat)
  /-- The grace time is over: the core stands at the bundle boundary until the save can be made (R329). -/
  | halt
  /-- After an spt: the leave by a safe-point save (R109). -/
  | safePoint (n : Nat)
  | faultWait (t : Trap)
  /-- Before a bundle: data that is late, a structure that is full, a translation that is not there yet (R35, R37, R84). -/
  | stall
  deriving DecidableEq, Repr

/-- Madder phases (R339). -/
inductive Phase where
  | idle | guess | spec | done
  deriving DecidableEq, Repr

/-- A carry: s8 to s15 and v8 to v11, those not named zero (R340). -/
structure Carry where
  s : List W64
  v : List Row
  deriving DecidableEq, Repr

/-- What the Madder keeps of one iteration (R340). -/
structure Iter where
  ci : Option Carry
  row : Option Nat
  co : Option Carry
  done : Bool
  last : Bool
  fail : Bool
  ok : Bool
  confirmed : Bool
  deriving DecidableEq, Repr

/-- An append region (R350). -/
structure Region where
  base : Nat
  rb : Nat
  tail : Nat
  hi : Option Nat
  deriving DecidableEq, Repr

/-- A Madder action that a bundle has triggered: it takes effect at the bundle's end, in a group after every member has issued (R339, R345). `seq` is the issue number of its carry writes, `res` that of acmp's result. -/
inductive Todo where
  | sgo (header : BitVec 72) (w : Nat) (tc : Carry)
  | acmp (t : W64) (carry : Carry) (seq res : Nat)
  | scmt (seq : Nat)
  | sabt (seq : Nat)
  deriving DecidableEq, Repr

/-- The speculation state of a task (R339 to R359). -/
structure Madder where
  phase : Phase
  team : Bool
  width : Nat
  header : Option (BitVec 72)
  tc : Carry
  iters : List Iter
  cur : Nat
  n : Nat
  fin : Bool
  abnd : Bool
  /-- Buffered stores and deferred effects: iteration and operation, in trigger order (R354). -/
  buf : List (Nat × MemOp)
  /-- Memory, plates and private lines as RUN found them (R356). -/
  snapMem : List Host.Cell
  snapPlates : Sparse 1024
  /-- The bound rows that held data when RUN took effect. -/
  snapStash : List Nat
  /-- The poison marks that RUN found: rows, regions lost, their rows written since, plate rows (R244, R356). -/
  snapBad : List Nat
  snapLost : List Nat
  snapHealed : List Nat
  snapPlateBad : List Nat
  /-- Stores of iterations that went to memory at once as tentative rows (R351), for the loads of their own iteration. -/
  tent : List (Nat × MemOp)
  regions : List (Option Region)
  todo : List Todo
  /-- What sst reads in the bundle of a team round that is issuing, which its members issue one after another (R347). -/
  shown : Option W64 := none
  deriving DecidableEq, Repr

/-- User-interrupt state (R305). -/
structure UInt where
  en : Bool
  queue : List W64
  ovf : Bool
  inHandler : Bool
  shS : List W64
  shP : List Bool
  shRrb : W64
  ret : Nat
  deriving DecidableEq, Repr

/-- Where a task is (R319, R329). -/
inductive Place where
  /-- Not dispatched yet. -/
  | waiting
  /-- On core `core` of cluster `cluster` of die `die`. -/
  | onCore (die cluster core : Nat)
  /-- Off core, with its frame slot; ready to be restored. -/
  | ready (slot : Nat)
  /-- Off core, waiting on a retryable record. -/
  | onRecord (slot : Nat)
  /-- Off core, suspended for a spawnd child. -/
  | onChild (slot : Nat)
  /-- Off core by a stop or a halt while its save completes, still charged to the core. -/
  | saving (slot die cluster core : Nat)
  /-- Stopped on that core by a fault of R334 or a die loss in a class F instance, waiting for its fail-over (R335, R371). -/
  | replay (die cluster core : Nat)
  /-- Ended. -/
  | ended (ok : Bool)
  deriving DecidableEq, Repr

/-- The escalation ladder of a task (R329): timers in fleet ns. -/
inductive Ladder where
  | run | asked (since : Nat) | halting (since : Nat) | off | dead
  deriving DecidableEq, Repr

/-- What a launch fixes for a task (R176, R177, R310). -/
structure TaskInfo where
  launch : Nat
  inst : Nat
  x : Nat
  y : Nat
  z : Nat
  stg : Nat
  copy : Nat
  setLog : Nat
  part : Nat
  vf : Nat
  cls : Nat
  askp : W64
  nbv : W64
  wct : Nat
  recAddr : Nat
  seqno : Nat
  sess : Option Nat
  msgSlot : Option Nat
  codelen : Nat
  code : List Bundle
  ftab : List (BitVec 16)
  lmap : List (BitVec 256)
  sched : List (BitVec 512)
  extX : Nat
  extY : Nat
  extZ : Nat
  extS : Nat
  chanFirst : Nat
  chanCount : Nat
  rpl : Bool
  deriving DecidableEq, Repr

/-- The timers and counters of a task. -/
structure TaskTime where
  wctUsed : Nat
  nleft : Nat
  sysr : W64
  rngs : W64
  rxCursor : Nat
  /-- Rows of the released message that have reached the core (R395). -/
  rxReady : Nat
  ladder : Ladder
  softPending : Bool
  waitN : Nat
  deriving DecidableEq, Repr

/-- A context frame's bookkeeping (R319 to R322). -/
structure FrameInfo where
  slot : Option Nat
  ndelta : Nat
  loglen : Nat
  savedAt : Nat
  safePt : Bool
  /-- Where the newest image keeps sysr (R320). -/
  sysrAt : Nat
  /-- The model's own: what a frame in memory held when its latest save was complete, copies of sysr apart, by which a restore knows an altered frame (R320). -/
  kept : List Host.Cell
  deriving DecidableEq, Repr

/-- One task: its context and what belongs to it. -/
structure Task where
  uid : Nat
  info : TaskInfo
  regs : Regs
  ports : List Latch
  flights : List Flight
  lq : List LqEntry
  memq : List MemOp
  tiles : Sparse 1024
  tilePoison : List Nat
  mx : Matrix
  lake : Lake
  plates : Sparse 1024
  platePoison : List Nat
  owners : BitVec 128
  stash : List StashEntry
  stashRows : List StashRow
  sc : Nat
  released : List Nat
  spec : Madder
  uint : UInt
  freeze : List Freeze
  /-- Causes that end or suspend the task at its next bundle boundary, in the order they arose (R285, R304, R333). -/
  pending : List Trap
  fused : List Nat
  place : Place
  time : TaskTime
  frame : FrameInfo
  egress : List (Nat × Nat × Nat × Row)
  /-- The tiles whose tcfg the latest bundle moved into, and the ck of its issue: an engine segment of theirs is held one cycle (R288). -/
  segHold : Nat × List Nat
  /-- The units of R322 written since the latest save or restore, one bit each: 4 KiB pages 0 to 31, tile segments from bit 32, accumulator rows from bit 2,080, scratchpad rows from bit 3,104. -/
  dirty : Nat
  /-- The line that gave the latest poisoned row which an access of the task returned: a fault's line in R335 (log 17). -/
  badRow : Nat
  /-- The line that the poisoned data of a place came from (R335, log 17). -/
  badBy : List (BadAt × Nat) := []
  /-- Accumulator rows that a beat or a drain touched while a copy entry had them in hand: undefined until it completes (R159). -/
  accLost : List Nat
  deriving DecidableEq, Repr

/-! ### Memory side -/

/-- A line in an L1 (R220 to R222): the core (512 numbers), the physical row number, its way in the row's set, its class, data, dirty mark, exclusive ownership, poison mark of its fill. A coherent line's data also stands at its home, where every reader of the device finds it (R248). -/
structure L1Line where
  core : Nat
  row : Nat
  way : Nat
  coh : Nat
  data : Row
  dirty : Bool
  own : Bool
  bad : Bool
  deriving DecidableEq, Repr

/-- A line of a shared cache slice (R229): the die, the physical row number, its way in the set of R230. On the home die of its region it is the home line, elsewhere a replica. -/
structure SliceLine where
  die : Nat
  row : Nat
  way : Nat
  deriving DecidableEq, Repr

/-- A directory entry (R220): the dies that it names as holding a copy, in a replica, an L1 or a bound row, and the core whose L1 owns the line. -/
structure DirEntry where
  row : Nat
  dies : BitVec 8
  owner : Option Nat
  deriving DecidableEq, Repr

/-- A region whose state differs from its reset state (R233, R236, R237, R239). -/
structure RegionState where
  num : Nat
  home : Nat
  deg : Nat
  ppin : Bool
  dpin : Bool
  hits : Nat
  missr : Nat
  coll : Nat
  /-- Row accesses from each die, and at index 8 those from no die (R239). -/
  accDie : List Nat
  epochs : Nat
  deriving DecidableEq, Repr

/-- A TLB entry of a partition: virtual page base, size, base frame, the entry that was read and its address (R216 to R218). -/
structure TlbEntry where
  part : Nat
  vbase : Nat
  size : Nat
  pbase : Nat
  ent : BitVec 128
  entPa : Nat
  deriving DecidableEq, Repr

structure MemSide where
  l1 : List L1Line
  /-- Pseudo-LRU bits of each L1 set, at key 512 · core + set (R221). -/
  plru : Sparse 7
  slices : List SliceLine
  dir : List DirEntry
  regions : List RegionState
  tlb : List TlbEntry
  /-- Poisoned rows, beside the regions lost whole with a die; rows of those that have been written since (R244, R370). -/
  poison : List Nat
  lost : List Nat
  healed : List Nat
  /-- The key slots under which rows have been written, the latest first: first row, rows, slot (R401, log 37). -/
  keyed : List (Nat × Nat × Nat) := []
  ways : List (BitVec 128)
  hbmActive : List (List Byte)
  hbmStaged : List (List Byte)
  hbmCommit : List Bool
  hbmErr : List Bool
  ioOut : List (Nat × Nat × Nat)
  ioReads : Nat
  /-- Epochs and HBM frames that have ended, by fleet time (R236, R240). -/
  epoch : Nat
  hbmFrame : Nat
  /-- The HBM slot that is running, in slots of fleet time, and the rows that each stack has served in it (R240, R242). -/
  hbmSlot : Nat
  hbmRows : List Nat
  deriving DecidableEq, Repr

/-! ### Scheduler -/

/-- A launch record as it was copied at submission (R178). -/
structure Launch where
  seqno : Nat
  recAddr : Nat
  part : Nat
  vf : Nat
  cls : Nat
  code : Nat
  ftabA : Nat
  data : Nat
  csched : Nat
  lmapA : Nat
  rgrp : Nat
  release : Nat
  deadline : Nat
  period : Nat
  wct : Nat
  athr : BitVec 32
  codelen : Nat
  extX : Nat
  extY : Nat
  extZ : Nat
  extS : Nat
  bcast : Nat
  ents : List Nat
  askip : Bool
  irq : Bool
  chanFirst : Nat
  chanCount : Nat
  sess : Option Nat
  dwait : Option Nat
  dnext : Option Nat
  qcls : Nat
  hbmd : Nat
  arg0 : W64
  arg1 : W64
  deriving DecidableEq, Repr

/-- A group of a reduction declaration (R269). -/
structure RedGroup where
  addr : Nat
  op : RedOp
  ty : Nat
  xmask : Nat
  yFirst : Nat
  yCount : Nat
  zFirst : Nat
  zCount : Nat
  stg : Nat
  deriving DecidableEq, Repr

/-- A live launch (R178 to R200). -/
structure LaunchState where
  lr : Launch
  admitted : Nat
  level : Nat
  /-- The level that the launch's latest release brought into effect: a change waits for the next one (R198). -/
  inEffect : Nat
  /-- Fleet time of the latest level change. -/
  lastChange : Option Nat
  fromL3 : Bool
  unitHeld : Bool
  unitLent : Bool
  donor : Option Nat
  /-- The task that a spawnd suspended for this launch with the number of its status result, and the deadline it lends (R205). -/
  parent : Option (Nat × Nat)
  parentDl : Option Nat
  nextK : Nat
  lastRelease : Nat
  cancelled : Bool
  gateOpen : Bool
  image : List Bundle
  ftab : List (BitVec 16)
  sched : List (BitVec 512)
  lmap : List (BitVec 256)
  groups : List RedGroup
  clusters : List (Nat × Nat)
  nbv : W64
  msgs : List (Nat × Nat × Nat)
  doneK : Nat
  /-- The partition in whose space the record was read; its status is written there (R178, R180). -/
  recPart : Nat
  /-- Instances that the device has reported as a MISS while it could not release them are below this index (R190). -/
  missK : Nat
  deriving DecidableEq, Repr

/-- An instance of a launch (R173, R184, R190). -/
structure Inst where
  id : Nat
  seqno : Nat
  k : Nat
  release : Nat
  deadline : Option Nat
  /-- The entry it starts at (R181, R199). -/
  ent : Nat
  /-- Teams not dispatched yet: stage, z, y. -/
  teamsLeft : List (Nat × Nat × Nat)
  /-- The die of each gang that has a team dispatched: stage, z, die. -/
  gangs : List (Nat × Nat × Nat)
  tasksLeft : Nat
  failed : Bool
  lateRaised : Bool
  missRaised : Bool
  msgSlot : Option Nat
  /-- The deadline that orders it: a spawnd child's is the lesser of its own and its parent's (R192). -/
  orderDl : Option Nat
  closed : Bool
  unreplayable : Bool
  lastFault : List Nat
  deriving DecidableEq, Repr

/-- A barrier object (R300). -/
structure Barrier where
  pend : Int
  phase : Bool
  posted : Bool
  broken : Bool
  deriving DecidableEq, Repr

/-- The barrier set of a team copy: instance, y, z, stage, copy. -/
structure BarSet where
  inst : Nat
  y : Nat
  z : Nat
  stg : Nat
  copy : Nat
  bars : List Barrier
  deriving DecidableEq, Repr

/-- A contribution to an open reduction pass (R271, R272): who gave it and its lane-tree value. -/
structure Contrib where
  inst : Nat
  group : Nat
  pass : Nat
  copy : Nat
  x : Nat
  y : Nat
  z : Nat
  val : Nat
  tgt : Target
  off : Nat
  deriving DecidableEq, Repr

/-- What a rank of a collective has delivered (R296, R297): who sent it or, from another device, received it; the partition's job; the group's identity, the tag, the rank; what its command says of itself; its rows. -/
structure CollPacket where
  part : Nat
  job : Nat
  gid : BitVec 32
  tag : W64
  rank : Nat
  head : CollHead
  data : List Row
  deriving DecidableEq, Repr

/-- A rank's function was reset, or its task ended, after its coll had started and before its contribution was delivered (R298): the group's identity plus 1, the tag, the job, and the ranks that have not met the news. -/
structure CollGone where
  after : Nat
  tag : Nat
  job : Nat
  left : List Nat
  deriving DecidableEq, Repr

/-- A task as an image holds it: a standing image on a shadow core as its last mirror point left it (R366, R367), or a task's latest save (R322). -/
structure Standing where
  uid : Nat
  image : Task
  /-- The barriers of its team, where the task keeps them. -/
  bars : List BarSet
  deriving DecidableEq, Repr

structure Sched where
  seq : Nat
  nextInst : Nat
  nextUid : Nat
  launches : List LaunchState
  insts : List Inst
  barSets : List BarSet
  contribs : List Contrib
  passes : List (Nat × Nat × Nat)
  ops : List EngOp
  nextOp : Nat
  packets : List CollPacket
  gone : List CollGone
  /-- The pair whose turn it is in the shared pool, times 256, and the teams of this turn; the ring, times 16, and the records of this turn (R197, R318). -/
  poolTurn : Nat
  ringTurn : Nat
  safePt : Bool
  dierst : W64
  /-- The latest save of each task that has one, against which the next delta counts its dirty units (R322). -/
  saves : List Standing
  deriving DecidableEq, Repr

/-! ### Partitions, rings -/

/-- A launch queue (R387). -/
structure LQueue where
  base : Nat
  logn : Nat
  en : Bool
  head : Nat
  tail : Nat
  /-- The head entry, read and submitted, that waits for a unit of its quota class (R183). -/
  wait : Option LaunchState
  deriving DecidableEq, Repr

/-- The memory registers of a partition. -/
structure PartMem where
  hbaseSt : W64
  hlimSt : W64
  hoffSt : W64
  hbase : W64
  hlim : W64
  hoff : W64
  hattr : W64
  herr : Bool
  ptroot : W64
  tlbinv : W64
  tlbBusy : Bool
  rgnstat : W64
  replHit : W64
  replFill : W64
  replColl : W64
  degChange : W64
  migrate : W64
  exchange : Option (Nat × Nat × Bool)
  iorange : W64
  iolim : W64
  inbase : W64
  indrop : W64
  bew : W64
  /-- Best-effort rows of the HBM frame that is running, and of the round-robin turn (R242). -/
  beRows : Nat
  beTurn : Nat
  deriving DecidableEq, Repr

/-- The scheduler, fault and frame registers of a partition. -/
structure PartSched where
  grace : W64
  kill : W64
  blim : W64
  quota : List W64
  unitsHeld : List Nat
  queues : List LQueue
  cntLate : W64
  cntMiss : W64
  cntLvl : W64
  cntSkip : W64
  bhold : Bool
  lastS : Nat
  stop : W64
  /-- 0 runs; 1 stops; 2 stopped; 3 stops to be destroyed (R338, R378). -/
  stopping : Nat
  anyKilled : Bool
  fltcfg : W64
  dlog : W64
  dirtyFrames : List Nat
  framebase : W64
  framecnt : W64
  resval : W64
  slotsUsed : List Nat
  counters : List (Nat × BitVec 32)
  bound : List (Nat × Nat)
  deriving DecidableEq, Repr

/-- An Ethernet queue that is open: its I/O die, the peer node, and when it last carried a packet (R390). -/
structure EthQueue where
  io : Nat
  node : Nat
  used : Nat
  deriving DecidableEq, Repr

/-- What a partition holds, and its endpoint and power registers. -/
structure PartRes where
  held : List (Nat × Nat × Nat)
  genClusters : List (Nat × Nat)
  /-- Clusters that have been taken back and leave when they are empty (R378). -/
  leaving : List (Nat × Nat)
  fPairs : List (Nat × Nat)
  /-- The F cluster pairs whose primary cluster is on the odd die (R366, R372). -/
  fOdd : List (Nat × Nat)
  blocks : List Nat
  pairs : List (Nat × Nat)
  blkreq : W64
  keys : List Nat
  scrubbing : List Nat
  /-- Blocks that have left, while an access or an engine row to them is still under way (R379). -/
  going : List Nat
  sessaddr : W64
  sessstat : W64
  /-- A command of EPT_SESSCMD that waits for rows of its image or records (R239, R370). -/
  sessWait : Option W64
  job : W64
  gidmap : List W64
  rxdup : W64
  rxdrop : W64
  eptDup : W64
  eptLate : W64
  eptSent : W64
  pwrToken : W64
  pwrStat : W64
  /-- General work stands still until the next interval (R382). -/
  frozen : Bool
  lnk : List W64
  /-- F flits of each port in the frame that is running (R374). -/
  lnkF : List Nat
  ethOpen : List EthQueue
  ide : List (Nat × Nat)
  deriving DecidableEq, Repr

structure Part where
  id : Nat
  live : Bool
  nbv : W64
  mem : PartMem
  sch : PartSched
  res : PartRes
  deriving DecidableEq, Repr

/-- A record on its way to a ring (R315, R318). -/
structure Rec where
  words : BitVec 512
  retry : Bool
  /-- When it was raised, and whether WEIGHT_0 has been reported for it (R316). -/
  at_ : Nat
  warned : Bool
  deriving DecidableEq, Repr

structure Ring where
  base : Nat
  cfg : W64
  head : Nat
  tail : Nat
  drop : W64
  phase : Bool
  waiting : List Rec
  deriving DecidableEq, Repr

/-! ### Endpoint, mirrors, boot -/

/-- A bound session (R392 to R397). -/
structure Session where
  num : Nat
  part : Nat
  image : BitVec 512
  lv : Bool
  last : BitVec 32
  rv : Bool
  rxseq : BitVec 32
  ringPa : List Nat
  /-- The peer record's rows as the binding captures their translation, and the record's place in the first of them (R393). -/
  peer : List Target
  peerOff : Nat
  slots : List Nat
  nextSlot : Nat
  recSeq : Nat
  reasonSeq : Option Nat
  closing : Bool
  deriving DecidableEq, Repr

/-- A message that left the device (R396). -/
structure WireMsg where
  sess : Nat
  seq : BitVec 32
  hold : Bool
  deadline : W64
  acts : BitVec 128
  /-- Where it goes: the peer's IPv6 address and UDP port, of a HOLD the message's source (R392, R396). -/
  dest : BitVec 144
  deriving DecidableEq, Repr

/-- A message that has arrived and waits for its slot's rows (R239, R370): session, STRM, SEQ, TXTS, arrival, payload. -/
structure RxMsg where
  sess : Nat
  strm : Bool
  seq : BitVec 32
  txts : W64
  at_ : Nat
  src : BitVec 144
  payload : List Byte
  deriving DecidableEq, Repr

structure Endpoint where
  node : W64
  tcfg : W64
  tstat : W64
  sessions : List Session
  egressQ : List (Nat × Nat × Nat × Row)
  wire : List WireMsg
  /-- Contributions of ranks on this device that have left for ranks elsewhere, by node (R389). -/
  rud : List (Nat × CollPacket)
  rxWait : List RxMsg
  deriving DecidableEq, Repr

/-- A mirror pair (R366 to R372). -/
structure Pair where
  fails : Nat
  lost : Nat
  state : Nat
  /-- When each die's latest heartbeat was received. -/
  hbAt : List Nat
  isolated : Option Nat
  /-- Whether the memory of the latest loss has been taken over (R370). -/
  taken : Bool
  /-- The odd die is the one that went on after the pair's latest loss (R372). -/
  roleOdd : Bool
  /-- STATE and LOST as they read until the memory of the latest loss has been taken over (R415). -/
  shown : Nat × Nat := (0, 0)
  deriving DecidableEq, Repr

structure Mirrors where
  pairs : List Pair
  standing : List Standing
  /-- Rows of mirrored blocks written since the last mirror point: task and row (R367). -/
  written : List (Nat × Nat)
  /-- Dies whose Woad engine has fallen silent, as the outside has it (R369, log 81). -/
  mute : List Nat
  deriving DecidableEq, Repr

/-- A completion of an inbound read: the data, a completer abort, data marked poisoned (R384). -/
structure Completion where
  part : Nat
  data : List Byte
  abort : Bool
  poisoned : Bool
  deriving DecidableEq, Repr

/-- An inbound access that waits: partition, aperture offset, length, and a write's data (R384). -/
structure InReq where
  part : Nat
  /-- The PCIe requester, and the I/O die that the access reaches (R412). -/
  req : Nat
  io : Nat
  off : Nat
  len : Nat
  data : Option (List Byte)
  deriving DecidableEq, Repr

structure Boot where
  boot : W64
  /-- The next die of the release order (R398). -/
  next : Nat
  /-- Key slots that a partition has had since its CREATE: no other may have them (R401). -/
  keys : List (Nat × Nat)
  pwrBudget : Nat
  /-- Tokens of the pool, and power intervals that have begun (R381, R382). -/
  pool : Nat
  interval : Nat
  /-- Partitions whose own tokens are spent and that wait to draw, and the partition in turn, times 256, with the draws of its turn (R382). -/
  poolWait : List Nat := []
  drawTurn : Nat := 0
  hot : List Nat
  powered : Bool
  replies : List (Nat × Nat × Nat)
  staged : List (Nat × Nat)
  measures : List (Nat × Nat)
  spdmState : List Nat
  /-- Blocks of the Mordant die's own values that have been used (log 24). -/
  blocksUsed : Nat
  interrupts : List Nat
  cmdstat : W64
  inbound : List Completion
  /-- Inbound accesses that wait for their rows (R239, R370). -/
  inq : List InReq
  deriving DecidableEq, Repr

/-- The clocks (R9, R262, R391): core clocks since power-good, heartbeat, fleet time in ns and its thirds. -/
structure Clock where
  ck : Nat
  hb : Nat
  ftime : Nat
  sub : Nat
  /-- What the servo has still to correct, in ns: positive where ftime is behind (R391). -/
  slew : Int := 0
  deriving DecidableEq, Repr

/-- An event that the outside delivers or the device's own choice brings about: the task it concerns and the event (log 1). -/
structure Stimulus where
  uid : Nat
  event : Instr
  deriving DecidableEq, Repr


/-- The state of the device. -/
structure State where
  task : Task
  others : List Task
  mem : List Host.Cell
  side : MemSide
  sched : Sched
  parts : List Part
  rings : List Ring
  ept : Endpoint
  mir : Mirrors
  boot : Boot
  clk : Clock
  agenda : List Stimulus
  /-- The model's own: how many undefined values have been read (log 2). -/
  fresh : Nat
  /-- The model's own: the number of the next issued write or operation (log 8). -/
  seq : Nat
  deriving DecidableEq, Repr

/-! ### Reset -/

/-- No value latched, nothing held (log 2). -/
def Latch.empty : Latch := { val := 0, full := false, held := false }

/-- Every register zero (R17). -/
def Regs.zero : Regs :=
  { s := Vector.replicate 64 0, v := Vector.replicate 32 0, p := Vector.replicate 8 false
    m := Vector.replicate 8 0, tcfg := Vector.replicate 8 0, acp := 0, rrb := 0, lc := 0, ec := 0
    mcfg := 0, pcfg := 0, pc := 0, cyc := 0, poison := [] }

def Plane.empty : Plane := { fmt := 0, nc := 0, rows := 0, data := [], lost := [] }

def Carry.zero : Carry := { s := List.replicate 8 0, v := List.replicate 4 0 }

def Iter.empty : Iter :=
  { ci := none, row := none, co := none, done := false, last := false, fail := false, ok := false, confirmed := false }

/-- IDLE, no header, four empty append slots (R339, R350). -/
def Madder.idle : Madder :=
  { phase := .idle, team := false, width := 0, header := none, tc := Carry.zero, iters := List.replicate 8 Iter.empty
    cur := 0, n := 0, fin := false, abnd := false, buf := [], snapMem := [], snapPlates := [], snapStash := [], snapBad := []
    snapLost := [], snapHealed := [], snapPlateBad := [], tent := []
    regions := [none, none, none, none], todo := [] }

def UInt.zero : UInt :=
  { en := false, queue := [], ovf := false, inHandler := false, shS := [], shP := [], shRrb := 0, ret := 0 }

def StashEntry.empty : StashEntry := { valid := false, vbase := 0, wb := false, count := 0, first := 0 }

def TaskInfo.none : TaskInfo :=
  { launch := 0, inst := 0, x := 0, y := 0, z := 0, stg := 0, copy := 0, setLog := 0, part := 0, vf := 0, cls := 2
    askp := 0, nbv := 2, wct := 0, recAddr := 0, seqno := 0, sess := Option.none, msgSlot := Option.none
    codelen := 0, code := [], ftab := [], lmap := [], sched := [], extX := 1, extY := 1, extZ := 1, extS := 1
    chanFirst := 0, chanCount := 0, rpl := false }

/-- A task at its start, before the launch sets s0 to s7: every register zero (R17, R176). -/
def Task.fresh (uid : Nat) (info : TaskInfo) : Task :=
  { uid := uid, info := info, regs := Regs.zero, ports := List.replicate 37 Latch.empty, flights := [], lq := []
    memq := [], tiles := [], tilePoison := [], mx := { active := Plane.empty, shadow := Plane.empty, acc := [] }
    lake := { entries := [], ord := false }, plates := [], platePoison := [], owners := 0
    stash := List.replicate 16 StashEntry.empty, stashRows := [], sc := 0, released := [], spec := Madder.idle
    uint := UInt.zero, freeze := [], pending := [], fused := [], place := .waiting
    time := { wctUsed := 0, nleft := 0, sysr := 0, rngs := 0, rxCursor := 0, rxReady := 0, ladder := .run, softPending := false, waitN := 0 }
    frame := { slot := none, ndelta := 0, loglen := 0, savedAt := 0, safePt := false, sysrAt := 0, kept := [] }, egress := []
    segHold := (0, []), dirty := 0, badRow := 0, accLost := [] }

/-- A launch queue at reset (R387). -/
def LQueue.reset : LQueue := { base := 0, logn := 0, en := false, head := 0, tail := 0, wait := none }

/-- The memory registers of a partition at reset (R211, R219, R237, R242, R385). -/
def PartMem.reset : PartMem :=
  { hbaseSt := 0, hlimSt := 0, hoffSt := 0, hbase := 0, hlim := 0, hoff := 0, hattr := 0, herr := false
    ptroot := 0, tlbinv := 0, tlbBusy := false, rgnstat := 0, replHit := 0, replFill := 0, replColl := 0
    degChange := 0, migrate := 0, exchange := none, iorange := 0, iolim := 0, inbase := 0, indrop := 0
    bew := 1, beRows := 0, beTurn := 0 }

/-- The scheduler registers of a partition at reset: SCH_GRACE 50, SCH_KILL 1,000, SCH_QUOTA WEIGHT 1 (R328, R388). -/
def PartSched.reset : PartSched :=
  { grace := 50, kill := 1000, blim := 0, quota := List.replicate 16 0x10000, unitsHeld := List.replicate 16 0
    queues := List.replicate 4 LQueue.reset
    cntLate := 0, cntMiss := 0, cntLvl := 0, cntSkip := 0, bhold := false, lastS := 0, stop := 0, stopping := 0
    anyKilled := false, fltcfg := 0, dlog := 0, dirtyFrames := [], framebase := 0, framecnt := 0, resval := 0
    slotsUsed := [], counters := [], bound := [] }

/-- The resources of a partition at reset: nothing granted; PWR_TOKEN WEIGHT 1, LNK_VCW GW 1 (R374, R381). -/
def PartRes.reset : PartRes :=
  { held := [], genClusters := [], leaving := [], fPairs := [], fOdd := [], blocks := [], pairs := [], blkreq := 0, keys := [], scrubbing := [], going := []
    sessaddr := 0, sessstat := 0, sessWait := none, job := 0, gidmap := List.replicate 16 0, rxdup := 0, rxdrop := 0, eptDup := 0
    eptLate := 0, eptSent := 0, pwrToken := 0x10000000000, pwrStat := 0, frozen := false
    lnk := List.replicate 40 0x100, lnkF := List.replicate 40 0, ethOpen := [], ide := [] }

/-- A partition's registers at reset; nbv resets to VER 2 (R73). -/
def Part.reset (id : Nat) (live : Bool) : Part :=
  { id := id, live := live, nbv := 2, mem := PartMem.reset, sch := PartSched.reset, res := PartRes.reset }

/-- Ring r at reset: WEIGHT 1, 8 for ring 0, 4 for ring 1; PHASE 1 on the first pass (R315, R317). -/
def Ring.reset (r : Nat) : Ring :=
  { base := 0, cfg := if r = 0 then 0x8000 else if r = 1 then 0x4000 else 0x1000, head := 0, tail := 0, drop := 0
    phase := true, waiting := [] }

def MemSide.reset : MemSide :=
  { l1 := [], plru := [], slices := [], dir := [], regions := [], tlb := [], poison := [], lost := [], healed := [], ways := List.replicate 8 0
    hbmActive := List.replicate 8 (List.replicate 64 0), hbmStaged := List.replicate 8 (List.replicate 64 0)
    hbmCommit := List.replicate 8 false, hbmErr := List.replicate 8 false, ioOut := [], ioReads := 0, epoch := 0, hbmFrame := 0
    hbmSlot := 0, hbmRows := List.replicate 8 0 }

def Sched.reset : Sched :=
  { seq := 0, nextInst := 1, nextUid := 1, launches := [], insts := [], barSets := [], contribs := [], passes := []
    ops := [], nextOp := 1, packets := [], gone := [], poolTurn := 0, ringTurn := 0, safePt := true, dierst := 0, saves := [] }

/-- A mirror pair at reset: STATE 3, OFF (R372). -/
def Pair.reset : Pair :=
  { fails := 0, lost := 0, state := 3, hbAt := [0, 0], isolated := none, taken := true, roleOdd := false }

def Boot.reset : Boot :=
  { boot := 0, next := 0, keys := [], pwrBudget := 17500, pool := 0, interval := 0, hot := [], powered := true, replies := [], staged := []
    measures := [], spdmState := [0, 0, 0], blocksUsed := 0, interrupts := [], cmdstat := 0, inbound := [], inq := [] }

/-- The device at power-good, before the Mordant die has released anything (R391, R398, R402): no task, memory unlisted. -/
def State.reset : State :=
  { task := Task.fresh 0 TaskInfo.none, others := [], mem := [], side := MemSide.reset, sched := Sched.reset
    parts := Part.reset 0 true :: (List.range 63).map (fun i => Part.reset (i + 1) false)
    rings := (List.range 65).map Ring.reset
    ept := { node := 0, tcfg := 0, tstat := 0, sessions := [], egressQ := [], wire := [], rud := [], rxWait := [] }
    mir := { pairs := List.replicate 4 Pair.reset, standing := [], written := [], mute := [] }
    boot := Boot.reset, clk := { ck := 0, hb := 0, ftime := 0, sub := 0 }, agenda := [], fresh := 0, seq := 0 }

end Sys2Proof.Machine
end

