-- ==== Sys2Proof/Machine/Bits.lean ====
section
/-! DEFINITION. Bit fields, lanes, signed readings and sparse arrays: the helpers the meanings share. -/

namespace Sys2Proof.Machine

/-- Bits [hi:lo] of a word as a number (R7). -/
def fld {w : Nat} (x : BitVec w) (hi lo : Nat) : Nat := bitsOf x lo (hi + 1 - lo)

/-- Bit n of a word. -/
def bitAt {w : Nat} (x : BitVec w) (n : Nat) : Bool := x.getLsbD n

/-- A bit as a number. -/
def b2n (b : Bool) : Nat := if b then 1 else 0

/-- A w-bit pattern read as two's complement. -/
def sgn (w n : Nat) : Int := if n % 2 ^ w < 2 ^ (w - 1) then ((n % 2 ^ w : Nat) : Int) else ((n % 2 ^ w : Nat) : Int) - 2 ^ w

/-- An integer modulo 2^w as a pattern (R50). -/
def wrapN (w : Nat) (x : Int) : Nat := (x % (2 ^ w : Nat)).toNat

/-- An integer clamped to [lo, hi]. -/
def clampI (lo hi x : Int) : Int := if x < lo then lo else if x > hi then hi else x

/-- Element i of width w of a row, as a pattern: bytes i·w/8 upward (R90). -/
def laneN (r : Row) (w i : Nat) : Nat := r.toNat / 2 ^ (w * i) % 2 ^ w

/-- The first n elements of width w. -/
def lanesN (r : Row) (w n : Nat) : List Nat := (List.range n).map (laneN r w)

/-- The number whose w-bit digits, least first, are the list. -/
def packN (w : Nat) (l : List Nat) : Nat := l.foldr (fun x a => x % 2 ^ w + 2 ^ w * a) 0

/-- A row of its elements; bytes beyond them are zero. -/
def packRow (w : Nat) (l : List Nat) : Row := BitVec.ofNat 1024 (packN w l)

/-- A mask as a 128 B value (R19, R122). -/
def maskRow (l : List Bool) : Row := packRow 1 (l.map b2n)

/-- Bytes 0 to 7 of a row (R19). -/
def lo64 (r : Row) : W64 := BitVec.ofNat 64 r.toNat

/-- A 64-bit value in bytes 0 to 7, zero above (R19). -/
def row64 (x : W64) : Row := BitVec.ofNat 1024 x.toNat

/-- Number of set bits of the low n bits. -/
def popcN : Nat → Nat → Nat
  | 0, _ => 0
  | n + 1, x => x % 2 + popcN n (x / 2)

/-- Position of the highest set bit plus 1, 0 for 0: the bit length. -/
def bitLen (x : Nat) : Nat := if x = 0 then 0 else Nat.log2 x + 1

/-- Zero bits below the lowest set bit among n bits; n for 0. -/
def ctzN : Nat → Nat → Nat
  | 0, _ => 0
  | n + 1, x => if x % 2 = 1 then 0 else 1 + ctzN n (x / 2)

/-- The least multiple of m that is not below x. -/
def alignUp (x m : Nat) : Nat := (x + m - 1) / m * m

/-- List element with a default. -/
def nth {α : Type} (l : List α) (i : Nat) (d : α) : α := l.getD i d

/-- List with element i replaced; unchanged beyond the end. -/
def setNth {α : Type} : List α → Nat → α → List α
  | [], _, _ => []
  | _ :: t, 0, x => x :: t
  | h :: t, i + 1, x => h :: setNth t i x

/-- A sparse array read: an unlisted key reads 0. -/
def sget {w : Nat} : Sparse w → Nat → BitVec w
  | [], _ => 0
  | (k, v) :: t, a => if a = k then v else sget t a

/-- A sparse array write that keeps the canonical form: writing 0 removes the entry. -/
def sset {w : Nat} : Sparse w → Nat → BitVec w → Sparse w
  | [], a, x => if x = 0 then [] else [(a, x)]
  | (k, v) :: t, a, x =>
    if a < k then (if x = 0 then (k, v) :: t else (a, x) :: (k, v) :: t)
    else if a = k then (if x = 0 then t else (k, x) :: t)
    else (k, v) :: sset t a x

/-- Every key from `lo` below `hi` back to 0. -/
def sclearRange {w : Nat} (m : Sparse w) (lo hi : Nat) : Sparse w := m.filter fun e => e.1 < lo || hi ≤ e.1

/-- Keys rise strictly from `lo` and no entry is 0. -/
def swfFrom {w : Nat} : Nat → Sparse w → Bool
  | _, [] => true
  | lo, (k, v) :: t => decide (lo ≤ k) && !(v == 0) && swfFrom (k + 1) t

/-- The canonical form of a sparse array. -/
def swf {w : Nat} (m : Sparse w) : Bool := swfFrom 0 m

/-- The canonical form of memory. -/
def Memory.wf (m : List Host.Cell) : Bool := swf (w := 8) m

/-- n bytes from address a, little-endian. -/
def readN (m : List Host.Cell) (a : Nat) : Nat → Nat
  | 0 => 0
  | n + 1 => (sget m a).toNat + 256 * readN m (a + 1) n

/-- n bytes to address a upward, little-endian. -/
def writeN (m : List Host.Cell) (a : Nat) : Nat → Nat → List Host.Cell
  | 0, _ => m
  | n + 1, x => writeN (sset m a (BitVec.ofNat 8 x)) (a + 1) n (x / 256)

/-- The 128 B row that holds a physical address (R90). -/
def readRow (m : List Host.Cell) (pa : Nat) : Row := BitVec.ofNat 1024 (readN m (pa / 128 * 128) 128)

def writeRow (m : List Host.Cell) (pa : Nat) (r : Row) : List Host.Cell := writeN m (pa / 128 * 128) 128 r.toNat

/-- The wider of two optional failures: the first. -/
def firstErr {ε α : Type} (l : List (Except ε α)) : Except ε (List α) :=
  match l with
  | [] => .ok []
  | .error e :: _ => .error e
  | .ok a :: t => match firstErr t with
    | .error e => .error e
    | .ok r => .ok (a :: r)

/-- Result bytes of element i of width w replaced. -/
def setLane (r : Row) (w i x : Nat) : Row :=
  BitVec.ofNat 1024 (r.toNat - laneN r w i * 2 ^ (w * i) + x % 2 ^ w * 2 ^ (w * i))

end Sys2Proof.Machine
end

