-- ==== Sys2Proof/Machine/Num.lean ====
section
/-! DEFINITION. Number formats and exact arithmetic: type codes, floats as exact dyadic numbers, rounding, conversion, trees, maxima (R48 to R70, R74). -/

namespace Sys2Proof.Machine

/-! ### Types -/

/-- Width of type codes 0 to 12 (R48); 0 for the others. -/
def tyWidth (c : Nat) : Nat := match c with
  | 0 | 1 | 8 | 9 => 8
  | 2 | 3 | 10 | 11 => 16
  | 4 | 5 | 12 => 32
  | 6 | 7 => 64
  | _ => 0

/-- Integer types: 0 to 7; i types are the even ones (R48, R50). -/
def tyInt (c : Nat) : Bool := c < 8
def tySigned (c : Nat) : Bool := c < 8 && c % 2 == 0

/-- A floating-point format: exponent bits, mantissa bits p, bias, whether it has infinities (R51). -/
structure Fmt where
  ebits : Nat
  p : Nat
  bias : Nat
  inf : Bool
  deriving DecidableEq, Repr

def fmt32 : Fmt := { ebits := 8, p := 23, bias := 127, inf := true }
def fmt16 : Fmt := { ebits := 5, p := 10, bias := 15, inf := true }
def fmtB : Fmt := { ebits := 8, p := 7, bias := 127, inf := true }
def fmtE5 : Fmt := { ebits := 5, p := 2, bias := 15, inf := true }
def fmtE4 : Fmt := { ebits := 4, p := 3, bias := 7, inf := false }

/-- The format of a floating-point type code (R48, R51). -/
def tyFmt (c : Nat) : Fmt := match c with
  | 8 => fmtE4 | 9 => fmtE5 | 10 => fmtB | 11 => fmt16 | _ => fmt32

def Fmt.width (f : Fmt) : Nat := 1 + f.ebits + f.p
def Fmt.emax (f : Fmt) : Nat := 2 ^ f.ebits - 1

/-- Canonical NaN (R53). -/
def Fmt.nan (f : Fmt) : Nat := if f.inf then f.emax * 2 ^ f.p + 2 ^ (f.p - 1) else f.emax * 2 ^ f.p + (2 ^ f.p - 1)

/-- Pattern of the largest finite value (R51). -/
def Fmt.maxPat (f : Fmt) : Nat :=
  if f.inf then (f.emax - 1) * 2 ^ f.p + (2 ^ f.p - 1) else f.emax * 2 ^ f.p + (2 ^ f.p - 2)

/-- A float's value: NaN, an infinity, or (−1)^s · m · 2^e exactly; a zero keeps its sign (R52). -/
inductive FV where
  | nan
  | inf (s : Bool)
  | fin (s : Bool) (m : Nat) (e : Int)
  deriving DecidableEq, Repr

/-- Decoding a pattern (R52). -/
def decodeF (f : Fmt) (x : Nat) : FV :=
  let s := x / 2 ^ (f.ebits + f.p) % 2 = 1
  let e := x / 2 ^ f.p % 2 ^ f.ebits
  let m := x % 2 ^ f.p
  if e = 0 then .fin s m (1 - f.bias - f.p)
  else if e = f.emax ∧ f.inf then (if m = 0 then .inf s else .nan)
  else if e = f.emax ∧ m = 2 ^ f.p - 1 then .nan
  else .fin s (2 ^ f.p + m) ((e : Int) - f.bias - f.p)

def FV.isNaN : FV → Bool
  | .nan => true
  | _ => false
def FV.isInf : FV → Bool
  | .inf _ => true
  | _ => false
/-- The sign bit of a value; NaN counts as positive. -/
def FV.neg? : FV → Bool
  | .inf s => s
  | .fin s _ _ => s
  | .nan => false

/-- Rounding modes: 0 RNE, 1 RTZ, 2 RU, 3 RD (R49). -/
abbrev Rm := Nat

/-- Whether the magnitude q + (remainder) is rounded up: `odd` the last bit of q, `half` the comparison of the remainder with a half, `exact` no remainder (R55). -/
def roundUp (rm : Rm) (s odd exact : Bool) (half : Ordering) : Bool :=
  if exact then false
  else match rm with
    | 0 => match half with
      | .lt => false
      | .gt => true
      | .eq => odd
    | 1 => false
    | 2 => !s
    | _ => s

/-- The overflow result of R56. -/
def overflowPat (f : Fmt) (rm : Rm) (s : Bool) : Nat :=
  let toInf := match rm with
    | 0 => true
    | 1 => false
    | 2 => !s
    | _ => s
  let sb := if s then 2 ^ (f.ebits + f.p) else 0
  if toInf then (if f.inf then sb + f.emax * 2 ^ f.p else f.nan) else sb + f.maxPat

/-- Whether a magnitude pattern without upper exponent limit lies above the largest finite one (R56). -/
def patOver (f : Fmt) (mag : Nat) : Bool := mag > f.maxPat

/-- The rounded magnitude of m · 2^e plus a sticky remainder below its last place, as an encoding without upper exponent limit (R55): exponent field · 2^p + mantissa. -/
def roundMag (f : Fmt) (rm : Rm) (s : Bool) (m : Nat) (e : Int) (sticky : Bool) : Nat :=
  -- spacing exponent: that of the value's binade, or of the subnormals
  let top : Int := e + bitLen m
  let qmin : Int := 1 - f.bias - f.p
  let q : Int := max (top - f.p - 1) qmin
  let sh := q - e
  let (n, exact, half) :=
    if sh ≤ 0 then (m * 2 ^ (-sh).toNat, !sticky, Ordering.lt)
    else
      let d := 2 ^ sh.toNat
      let r := m % d
      (m / d, r == 0 && !sticky,
        if 2 * r < d then Ordering.lt else if 2 * r > d then Ordering.gt else if sticky then Ordering.gt else Ordering.eq)
  let n' := if roundUp rm s (n % 2 == 1) exact half then n + 1 else n
  -- n' · 2^q with n' < 2^(p+1) or a carry into the next binade
  if n' < 2 ^ f.p then n' else ((q - qmin).toNat + 1) * 2 ^ f.p + (n' - 2 ^ f.p)

/-- round_T of a non-zero magnitude with a sign, and overflow by R56. DESIGN CHOICE (log 99): a non-zero value that rounds to zero keeps its sign, of which R56, speaking of exact zeros, says nothing. -/
def roundPat (f : Fmt) (rm : Rm) (s : Bool) (m : Nat) (e : Int) (sticky : Bool) : Nat :=
  let mag := roundMag f rm s m e sticky
  if patOver f mag then overflowPat f rm s
  else (if s then 2 ^ (f.ebits + f.p) else 0) + mag

/-- A signed zero's pattern. -/
def zeroPat (f : Fmt) (s : Bool) : Nat := if s then 2 ^ (f.ebits + f.p) else 0

/-- Encoding a value into a format: NaN canonical, infinities by R56 and R58, zeros with their sign, finite values rounded once. -/
def encodeF (f : Fmt) (rm : Rm) (v : FV) : Nat := match v with
  | .nan => f.nan
  | .inf s => if f.inf then zeroPat f s + f.emax * 2 ^ f.p else f.nan
  | .fin s m e => if m = 0 then zeroPat f s else roundPat f rm s m e false

/-- Under VER = 1 a rounding into bf16 of a magnitude below 2^−126 gives a zero of its sign (R74). -/
def flushes (ver1 : Bool) (f : Fmt) (v : FV) : Bool := match v with
  | .fin _ m e => ver1 && decide (f = fmtB) && m != 0 && decide ((e : Int) + bitLen m ≤ -126)
  | _ => false

/-- Encoding with the VER = 1 rule. -/
def encodeV (ver1 : Bool) (f : Fmt) (rm : Rm) (v : FV) : Nat :=
  if flushes ver1 f v then zeroPat f v.neg? else encodeF f rm v

/-! ### Exact arithmetic -/

/-- The exact signed mantissa of a finite value at exponent e0 ≤ e. -/
def scaleTo (e0 : Int) (s : Bool) (m : Nat) (e : Int) : Int :=
  let x : Int := (m * 2 ^ (e - e0).toNat : Nat)
  if s then -x else x

/-- The value of a signed mantissa; `zs` is the sign of a zero. -/
def ofScaled (x : Int) (e : Int) (zs : Bool) : FV := .fin (if x = 0 then zs else decide (x < 0)) x.natAbs e

/-- Exact product (R56, R67): 0 × ∞ is NaN; a zero takes the exclusive-or of the signs. -/
def mulF : FV → FV → FV
  | .nan, _ => .nan
  | _, .nan => .nan
  | .inf s, .inf t => .inf (s != t)
  | .inf s, .fin t m _ => if m = 0 then .nan else .inf (s != t)
  | .fin t m _, .inf s => if m = 0 then .nan else .inf (s != t)
  | .fin s m e, .fin t n g => .fin (s != t) (m * n) (e + g)

/-- Exact sum; an exact zero takes its sign by R56: −0 when both are −0, or under RD unless both are +0. -/
def addF (rm : Rm) : FV → FV → FV
  | .nan, _ => .nan
  | _, .nan => .nan
  | .inf s, .inf t => if s = t then .inf s else .nan
  | .inf s, _ => .inf s
  | _, .inf t => .inf t
  | .fin s m e, .fin t n g =>
    let e0 := min e g
    let zs := if m = 0 ∧ n = 0 then (if s = t then s else rm == 3) else rm == 3
    ofScaled (scaleTo e0 s m e + scaleTo e0 t n g) e0 zs

def negF : FV → FV
  | .nan => .nan
  | .inf s => .inf (!s)
  | .fin s m e => .fin (!s) m e

/-- The exact sum of a list with one rounding to come; a zero is −0 when every term is −0, or under RD unless all are +0 (R56, R67). -/
def sumF (rm : Rm) (l : List FV) : FV :=
  if l.any FV.isNaN then .nan
  else
    let infs := l.filter FV.isInf
    if infs.any FV.neg? && infs.any (fun v => !v.neg?) then .nan
    else match infs with
      | v :: _ => v
      | [] =>
        let e0 := l.foldl (fun a v => match v with
          | .fin _ _ e => min a e
          | _ => a) 0
        let x := l.foldl (fun a v => match v with
          | .fin s m e => a + scaleTo e0 s m e
          | _ => a) (0 : Int)
        let allZeroNeg := l.all (fun v => match v with
          | .fin s m _ => s && m == 0
          | _ => false)
        let allZeroPos := l.all (fun v => match v with
          | .fin s m _ => !s && m == 0
          | _ => false)
        ofScaled x e0 (if allZeroNeg then true else if rm = 3 then !allZeroPos else false)

/-- Comparison of two values that are not NaN, as reals: −0 equals +0. -/
def cmpF : FV → FV → Ordering
  | .inf s, .inf t => if s = t then .eq else if s then .lt else .gt
  | .inf s, _ => if s then .lt else .gt
  | _, .inf t => if t then .gt else .lt
  | .fin s m e, .fin t n g =>
    let e0 := min e g
    let x := scaleTo e0 s m e
    let y := scaleTo e0 t n g
    if x < y then .lt else if x = y then .eq else .gt
  | _, _ => .eq

/-! ### Conversion (R57, R58) -/

/-- A finite value rounded to an integer (R58). -/
def toIntF (rm : Rm) (s : Bool) (m : Nat) (e : Int) : Int :=
  let n :=
    if e ≥ 0 then m * 2 ^ e.toNat
    else
      let d := 2 ^ (-e).toNat
      let r := m % d
      let half := if 2 * r < d then Ordering.lt else if 2 * r > d then Ordering.gt else Ordering.eq
      if roundUp rm s (m / d % 2 == 1) (r == 0) half then m / d + 1 else m / d
  if s then -(n : Int) else n

/-- The range of an integer type. -/
def intMin (c : Nat) : Int := if tySigned c then -(2 ^ (tyWidth c - 1) : Nat) else 0
def intMax (c : Nat) : Int := if tySigned c then (2 ^ (tyWidth c - 1) : Nat) - 1 else (2 ^ tyWidth c : Nat) - 1

/-- The integer that a pattern of an integer type holds. -/
def intVal (c x : Nat) : Int := if tySigned c then sgn (tyWidth c) x else ((x % 2 ^ tyWidth c : Nat) : Int)

/-- An exact value into a float type, saturating e4m3 and e5m2 where `sat` (R57, R58). -/
def toFloat (ver1 : Bool) (c : Nat) (rm : Rm) (sat : Bool) (v : FV) : Nat :=
  let f := tyFmt c
  if sat && (c == 8 || c == 9) then match v with
    | .nan => f.nan
    | .inf s => zeroPat f s + f.maxPat
    | .fin s m e => if m = 0 then zeroPat f s
      else
        let mag := roundMag f rm s m e false
        if patOver f mag then zeroPat f s + f.maxPat else zeroPat f s + mag
  else encodeV ver1 f rm v

/-- The exact value of an integer. -/
def ofInt (x : Int) : FV := .fin (decide (x < 0)) x.natAbs 0

/-- convert of an exact value into a type (R58). -/
def convertV (ver1 : Bool) (v : FV) (dst : Nat) (rm : Rm) (sat : Bool) : Nat :=
  if tyInt dst then
    wrapN (tyWidth dst) (match v with
      | .nan => 0
      | .inf s => if s then intMin dst else intMax dst
      | .fin s m e => clampI (intMin dst) (intMax dst) (toIntF rm s m e))
  else toFloat ver1 dst rm sat v

/-- convert(x, from, to, rm, sat) of R58. -/
def convert (ver1 : Bool) (x fr dst : Nat) (rm : Rm) (sat : Bool) : Nat :=
  if tyInt fr then
    let v := intVal fr x
    if tyInt dst then wrapN (tyWidth dst) (if sat then clampI (intMin dst) (intMax dst) v else v)
    else toFloat ver1 dst rm sat (ofInt v)
  else convertV ver1 (decodeF (tyFmt fr) x) dst rm sat

/-! ### Lane arithmetic (R123, R124) -/

/-- A floating-point lane operation of two decoded operands, rounded once. -/
def lane2 (ver1 : Bool) (c : Nat) (rm : Rm) (op : FV → FV → FV) (a t : Nat) : Nat :=
  let f := tyFmt c
  encodeV ver1 f rm (op (decodeF f a) (decodeF f t))

/-- An exact integer result wrapped, or clamped with SAT (R124). -/
def laneInt (c : Nat) (sat : Bool) (x : Int) : Nat :=
  wrapN (tyWidth c) (if sat then clampI (intMin c) (intMax c) x else x)

/-- A NaN pattern. -/
def isNaNPat (c x : Nat) : Bool := (decodeF (tyFmt c) x).isNaN

/-- The order of maximumNumber: reals, with −0 below +0 (R69). -/
def ltTotal (a b : FV) : Bool := match cmpF a b with
  | .lt => true
  | .gt => false
  | .eq => a.neg? && !b.neg?

/-- maximumNumber and minimumNumber on patterns (R69). -/
def maxNum (c a b : Nat) : Nat :=
  let va := decodeF (tyFmt c) a
  let vb := decodeF (tyFmt c) b
  if va.isNaN && vb.isNaN then (tyFmt c).nan
  else if va.isNaN then b else if vb.isNaN then a
  else if ltTotal va vb then b else a

def minNum (c a b : Nat) : Nat :=
  let va := decodeF (tyFmt c) a
  let vb := decodeF (tyFmt c) b
  if va.isNaN && vb.isNaN then (tyFmt c).nan
  else if va.isNaN then b else if vb.isNaN then a
  else if ltTotal vb va then b else a

/-- The maximum or minimum of two lanes of a type (R69, R124). -/
def laneMax (c a b : Nat) : Nat := if tyInt c then (if intVal c a < intVal c b then b else a) else maxNum c a b
def laneMin (c a b : Nat) : Nat := if tyInt c then (if intVal c b < intVal c a then b else a) else minNum c a b

/-- The sum of two lanes (R68, R265). -/
def laneAdd (ver1 : Bool) (c : Nat) (rm : Rm) (a b : Nat) : Nat :=
  if tyInt c then (a + b) % 2 ^ tyWidth c else lane2 ver1 c rm (addF rm) a b

/-- One level of a pairwise tree: (0,1), (2,3) and so on; an odd last value passes up (log 22). -/
def pairUp (op : Nat → Nat → Nat) : List Nat → List Nat
  | a :: b :: t => op a b :: pairUp op t
  | l => l

/-- A pairwise tree of at most `fuel` levels (R68). -/
def treeN (op : Nat → Nat → Nat) (dflt : Nat) : Nat → List Nat → Nat
  | _, [] => dflt
  | _, [x] => x
  | 0, x :: _ => x
  | n + 1, l => treeN op dflt n (pairUp op l)

/-- Identities of masked lanes (R68). -/
def idSum (c : Nat) : Nat := if tyInt c then 0 else zeroPat (tyFmt c) true
def idMax (c : Nat) : Nat := if tyInt c then wrapN (tyWidth c) (intMin c) else (tyFmt c).nan
def idMin (c : Nat) : Nat := if tyInt c then wrapN (tyWidth c) (intMax c) else (tyFmt c).nan

/-- vmaxi's order on patterns (R70): whether the later candidate beats the earlier one: NaN ranks lowest, ties stay with the lower index. -/
def beats (c a b : Nat) : Bool :=
  if tyInt c then decide (intVal c a < intVal c b)
  else
    let va := decodeF (tyFmt c) a
    let vb := decodeF (tyFmt c) b
    if vb.isNaN then false else if va.isNaN then true else cmpF va vb == .lt

/-- A (value, index) pair of fp32 and u32 (R70, R297). DESIGN CHOICE (log 100): where both indexes are 0xFFFF_FFFF the second pair is the result. -/
def pairMax (a b : Nat × Nat) : Nat × Nat :=
  if a.2 = 0xffffffff then b else if b.2 = 0xffffffff then a
  else
    let na := isNaNPat 12 a.1
    let nb := isNaNPat 12 b.1
    if na && nb then (if b.2 < a.2 then b else a)
    else if na then b else if nb then a
    else match cmpF (decodeF fmt32 a.1) (decodeF fmt32 b.1) with
      | .lt => b
      | .gt => a
      | .eq => if b.2 < a.2 then b else a

/-! ### The matrix array (R67, R74) -/

/-- beat(init, products): one rounding per beat; VER = 1 rounds after each chunk of 32 (R67, R74). Products are exact. -/
def chunks (n : Nat) : Nat → List FV → List (List FV)
  | 0, _ => []
  | k + 1, l => if l.isEmpty then [] else l.take n :: chunks n k (l.drop n)

def beat (ver1 : Bool) (init : Nat) (prods : List FV) : Nat :=
  let a := decodeF fmt32 init
  if ver1 then
    -- the special cases are decided over the whole beat (R74), then one rounding per chunk
    match sumF 0 (a :: prods) with
    | .nan => fmt32.nan
    | .inf s => encodeF fmt32 0 (.inf s)
    | _ => (chunks 32 4 prods).foldl (fun acc c => encodeF fmt32 0 (sumF 0 (decodeF fmt32 acc :: c))) init
  else encodeF fmt32 0 (sumF 0 (a :: prods))

/-! ### Block floating point and Q4G (R59 to R66) -/

/-- x · 2^k of an exact finite value rounded to an integer, ties to even. -/
def rne2 (s : Bool) (m : Nat) (e k : Int) : Int := toIntF 0 s m (e + k)

/-- An element's value M · 2^(E − 127 − (m − 2)); E = 255 is NaN (R59). -/
def bfpVal (m E : Nat) (M : Int) : FV :=
  if E = 255 then .nan else .fin (decide (M < 0)) M.natAbs ((E : Int) - 127 - ((m : Int) - 2))

/-- Encoding a block (R61): the exponent and the mantissas. -/
def bfpFits (m : Nat) (vals : List FV) (e : Nat) : Bool :=
  vals.all fun v => match v with
    | .fin s n g => let q := rne2 s n g (127 + (m : Int) - 2 - e)
      decide (-(2 ^ (m - 1) : Nat) ≤ q) && decide (q ≤ (2 ^ (m - 1) : Nat) - 1)
    | _ => false

def bfpExp (m : Nat) (vals : List FV) : Nat → Nat → Option Nat
  | _, 0 => none
  | e, n + 1 => if bfpFits m vals e then some e else bfpExp m vals (e + 1) n

def bfpEncode (m : Nat) (vals : List FV) : Nat × List Int :=
  if vals.any (fun v => v.isNaN || v.isInf) then (255, vals.map fun _ => 0)
  else
    let q := fun (e : Nat) (v : FV) => match v with
      | .fin s n g => rne2 s n g (127 + (m : Int) - 2 - e)
      | _ => 0
    match bfpExp m vals 0 255 with
    | some e => (e, vals.map (q e))
    | none => (254, vals.map fun v => clampI (-((2 ^ (m - 1) : Nat) - 1)) ((2 ^ (m - 1) : Nat) - 1) (q 254 v))

/-- The decoded value of a Q4G element (R62, R74): round_bf16((q − z) × s). -/
def q4gVal (v1 : Bool) (q z s : Nat) : Nat :=
  let v := decodeF fmtB s
  if v.isNaN then fmtB.nan
  else if q = z then (if v.isInf then fmtB.nan else 0)
  else encodeV v1 fmtB 0 (mulF (ofInt ((q : Int) - z)) v)

/-- The stored q of a value in a group of scale s and zero point z (R66). -/
def q4gEncode (x z s : Nat) : Nat :=
  let v := decodeF fmtB x
  match v, decodeF fmtB s with
  | .nan, _ => z
  | _, .nan => z
  | _, .inf _ => z
  | .inf a, .fin b n _ => if n = 0 then z else if a = b then 15 else 0
  | .fin a m e, .fin b n g =>
    if n = 0 then z
    else
      -- (m · 2^e) / (n · 2^g), nearest integer, ties to even
      let k := e - g
      let num := if k ≥ 0 then m * 2 ^ k.toNat else m
      let den := if k ≥ 0 then n else n * 2 ^ (-k).toNat
      let q := num / den
      let r := num % den
      let q' := if 2 * r > den ∨ (2 * r = den ∧ q % 2 = 1) then q + 1 else q
      let sv : Int := if a = b then (q' : Int) else -(q' : Int)
      (clampI 0 15 (sv + z)).toNat

end Sys2Proof.Machine
end

