-- ==== Sys2Proof/Machine/Operands.lean ====
section
/-! DEFINITION. Operands: renaming, register reads and writes, guards, sources, operand ports and destination codes (R17 to R32, R77 to R81). Every value travels as a row; a narrower one is zero-extended, and a destination keeps its low bits, which is what R19 and R78 lay down. -/

namespace Sys2Proof.Machine

/-! ### Renaming (R81) -/

def renS (rrb : W64) (n : BitVec 6) : BitVec 6 :=
  if n.toNat < 32 then n else BitVec.ofNat 6 (32 + (n.toNat - 32 + fld rrb 4 0) % 32)

def renV (rrb : W64) (n : BitVec 5) : BitVec 5 :=
  if n.toNat < 16 then n else BitVec.ofNat 5 (16 + (n.toNat - 16 + fld rrb 3 0) % 16)

def renP (rrb : W64) (n : BitVec 3) : BitVec 3 :=
  if n.toNat < 4 then n else BitVec.ofNat 3 (4 + (n.toNat - 4 + fld rrb 1 0) % 4)

/-- A register destination renamed (R81). -/
def renDst (rrb : W64) : RegDst → RegDst
  | .s n => .s (renS rrb n)
  | .v n => .v (renV rrb n)
  | .p n => .p (renP rrb n)
  | r => r

/-! ### Registers by physical name -/

def Regs.getS (r : Regs) (n : BitVec 6) : W64 := r.s.get n.toFin
def Regs.getV (r : Regs) (n : BitVec 5) : Row := r.v.get n.toFin
/-- p0 always reads 1 (R17). -/
def Regs.getP (r : Regs) (n : BitVec 3) : Bool := if n = 0 then true else r.p.get n.toFin
/-- m0 always reads all ones (R17). -/
def Regs.getM (r : Regs) (n : BitVec 3) : Mask := if n = 0 then BitVec.allOnes 128 else r.m.get n.toFin
def Regs.getT (r : Regs) (n : BitVec 3) : W64 := r.tcfg.get n.toFin

/-- A register's value as a row (R19). -/
def Regs.read (r : Regs) : RegDst → Row
  | .s n => (r.getS n).setWidth 1024
  | .v n => r.getV n
  | .p n => BitVec.ofNat 1024 (b2n (r.getP n))
  | .m n => (r.getM n).setWidth 1024
  | .tcfg n => (r.getT n).setWidth 1024
  | .acp => r.acp.setWidth 1024
  | .rrb => r.rrb.setWidth 1024
  | .lc => r.lc.setWidth 1024
  | .ec => r.ec.setWidth 1024
  | .mcfg => r.mcfg.setWidth 1024
  | .pcfg => r.pcfg.setWidth 1024

/-- The bits that a special register keeps; the others read 0 (R107, R151, R161 to R163). -/
def keepTcfg : W64 := 0x0fffffff
def keepAcp : W64 := 0x03ff03ff
def keepRrb : W64 := 0x1f
def keepMcfg : W64 := 0xff3f
def keepPcfg : W64 := 0xffff

/-- A register written with the low bits of a row; writes of p0 and m0 are discarded (R24). -/
def Regs.write (r : Regs) (d : RegDst) (x : Row) : Regs :=
  match d with
  | .s n => { r with s := r.s.set n.toNat (x.setWidth 64) n.isLt }
  | .v n => { r with v := r.v.set n.toNat x n.isLt }
  | .p n => if n = 0 then r else { r with p := r.p.set n.toNat (bitAt x 0) n.isLt }
  | .m n => if n = 0 then r else { r with m := r.m.set n.toNat (x.setWidth 128) n.isLt }
  | .tcfg n => { r with tcfg := r.tcfg.set n.toNat (x.setWidth 64 &&& keepTcfg) n.isLt }
  | .acp => { r with acp := x.setWidth 64 &&& keepAcp }
  | .rrb => { r with rrb := x.setWidth 64 &&& keepRrb }
  | .lc => { r with lc := x.setWidth 64 }
  | .ec => { r with ec := x.setWidth 64 }
  | .mcfg => { r with mcfg := x.setWidth 64 &&& keepMcfg }
  | .pcfg => { r with pcfg := x.setWidth 64 &&& keepPcfg }

/-- Bits of a register: an undefined value has the destination's full width (R11). -/
def regWidth : RegDst → Nat
  | .v _ => 1024 | .p _ => 1 | .m _ => 128 | _ => 64

/-- Whether a result is still on its way to a register: until its cycle has come, and until every competing write has landed, the register is undefined (R36, R37). -/
def inFlight (t : Task) (d : RegDst) : Bool := t.flights.any fun f => f.dest == .reg d

/-- The n-th undefined value at a width. -/
def freeOf (n w : Nat) : Row := BitVec.ofNat 1024 ((Config.freeRow n).toNat % 2 ^ w)

/-- A register as a bundle reads it: its value, or an undefined one while a write is in flight. p0 and m0 keep their fixed values. -/
def readReg (t : Task) (free : Nat) (d : RegDst) : Row :=
  if d = .p 0 ∨ d = .m 0 then t.regs.read d
  else if inFlight t d then freeOf free (regWidth d)
  else t.regs.read d

/-- The rrb value that a bundle renames with: rrb as it is read at the start of the bundle, an undefined one while a write of it is in flight (R36, R81). DESIGN CHOICE (log 19): a poisoned rrb renames by its data and raises nothing. -/
def rrbRead (s : State) : W64 := lo64 (readReg s.task (s.fresh + 56) .rrb)

/-- The guard's value at the start of the bundle (R22, R81). An undefined predicate gives a free bit. -/
def guardVal (s : State) (free : Nat) (g : Guard) : Bool :=
  (bitAt (readReg s.task free (.p (renP (rrbRead s) g.p))) 0) != g.inv

/-! ### Sources (R23) -/

/-- did (R363): RPL, the physical die, the die set. -/
def didVal (t : Task) : W64 :=
  let die := match t.place with
    | .onCore d _ _ | .saving _ d _ _ => d
    | _ => 0
  BitVec.ofNat 64 (2 ^ 12 * b2n t.info.rpl + 2 ^ 8 * (die % 8) + 2 ^ 4 * (t.info.setLog % 4) + t.info.copy % 8)

/-- crd (R18). -/
def crdVal (i : TaskInfo) : W64 :=
  BitVec.ofNat 64 (2 ^ 21 * (i.stg % 16) + 2 ^ 9 * (i.z % 4096) + 2 ^ 3 * (i.y % 64) + i.x % 8)

/-- The ring length of a tile: 0 means 256 (R151). -/
def tileLen (cfg : W64) : Nat := if fld cfg 23 16 = 0 then 256 else fld cfg 23 16
def tileR (cfg : W64) : Nat := fld cfg 7 0
def tileW (cfg : W64) : Nat := fld cfg 15 8
def tileTy (cfg : W64) : Nat := fld cfg 27 24

/-- The pointer after an advance (R152): (p + 1) mod L, as a plain 8-bit index. -/
def advance (cfg : W64) (p : Nat) : Nat := (p + 1) % tileLen cfg

def setTileR (cfg : W64) (p : Nat) : W64 := BitVec.ofNat 64 (cfg.toNat - tileR cfg + p % 256)
def setTileW (cfg : W64) (p : Nat) : W64 := BitVec.ofNat 64 (cfg.toNat - 256 * tileW cfg + 256 * (p % 256))

/-- The segment number at a tile's read pointer. -/
def segKey (t : Task) (k : BitVec 3) : Nat := 256 * k.toNat + tileR (t.regs.getT k)

/-- The segment at a tile's read pointer. -/
def tileSeg (t : Task) (k : BitVec 3) : Row := sget t.tiles (segKey t k)

/-- A segment that R39 has let land before its landing cycle: until then a read of it is undefined and raises nothing (R35). -/
def segEarly (t : Task) (key : Nat) : Bool := t.flights.any fun f => f.landed && f.seg == some key

/-- A segment whose poisoned data has landed, its landing cycle come (R35, R153). -/
def segPoisoned (t : Task) (key : Nat) : Bool := t.tilePoison.contains key && !segEarly t key

/-- Confirmed or first iterations are not speculative (R343). -/
def iterAt (m : Madder) (j : Nat) : Iter := nth m.iters j Iter.empty

/-- The iteration that a task's effects belong to in SPEC: CUR in batch mode, its rank in team mode (R339). -/
def iterOf (t : Task) : Nat :=
  if t.spec.team then (t.fused.idxOf? t.uid).getD 0 else t.spec.cur

/-- Whether the task's iteration is speculative (R343); a bystander counts as one (R339). -/
def speculative (t : Task) : Bool :=
  t.spec.phase == .spec && iterOf t != 0 &&
    (decide (t.spec.width ≤ iterOf t) || !(iterAt t.spec (iterOf t)).confirmed)

/-- The longest correct run (R344): the number of leading iterations that are done, correct and not past a LAST. -/
def longestRun (m : Madder) : Nat → Nat → Nat
  | 0, n => n
  | k + 1, n =>
    let it := iterAt m n
    let prev := iterAt m (n - 1)
    if n < m.width && it.done && !it.fail && (n == 0 || (prev.ok && !prev.last)) then longestRun m k (n + 1) else n

/-- Bits of a list of flags, bit j for element j. -/
def flagBits (l : List Bool) : Nat := packN 1 (l.map b2n)

def phaseCode : Phase → Nat
  | .idle => 0 | .guess => 1 | .spec => 2 | .done => 3

def insNat (a : Nat) : List Nat → List Nat
  | [] => [a]
  | b :: t => if a ≤ b then a :: b :: t else b :: insNat a t

def sortNat (l : List Nat) : List Nat := l.foldr insNat []

/-- Number of deferred-queue entries in use (R347): buffered stores do not count. -/
def isStore : MemKind → Bool
  | .st .. | .stx .. | .own .. => true
  | _ => false
def isOrder : MemKind → Bool
  | .mark | .fence _ | .gate _ => true
  | _ => false
def deferredCount (m : Madder) : Nat := (m.buf.filter fun e => !isStore e.2.kind && !isOrder e.2.kind).length

/-- Entries in use of the deferred queue of a task's round, which the members of a team round share (R347, R354). -/
def roundDq (s : State) (t : Task) : Nat :=
  if t.spec.team then (((s.task :: s.others).filter fun u => t.fused.contains u.uid).map fun u => deferredCount u.spec).sum
  else deferredCount t.spec

/-- The speculation status sst, with `dq` entries of the deferred queue in use (R347). DESIGN CHOICE (log 100): N and END, which an scmt sets, read 0 again from the next sgo on, through GUESS and after a sabt. -/
def sstVal (dq : Nat) (t : Task) : W64 :=
  let m := t.spec
  let n := match m.phase with
    | .spec => longestRun m 8 0
    | .done => m.n
    | _ => 0
  BitVec.ofNat 64 (2 ^ 44 * min dq 127 + 2 ^ 43 * b2n m.header.isNone + 2 ^ 42 * b2n m.abnd
    + 2 ^ 41 * b2n (speculative t) + 2 ^ 40 * b2n (m.phase == .done && m.fin)
    + 2 ^ 32 * flagBits (m.iters.map Iter.fail) + 2 ^ 24 * flagBits (m.iters.map Iter.done)
    + 2 ^ 16 * flagBits (m.iters.map Iter.ok) + 2 ^ 12 * (iterOf t % 16) + 2 ^ 8 * (n % 16)
    + 2 ^ 4 * (m.width % 16) + 2 ^ 3 * b2n (m.header.isSome && !m.team) + phaseCode m.phase)

/-- The row of the ingress message at the task's cursor; a zero row beyond row 31 or without a message (R395). -/
def rxRow (s : State) (t : Task) : Row :=
  match t.info.msgSlot with
  | some pa => if t.time.rxCursor < 32 then readRow s.mem (pa + 128 * t.time.rxCursor) else 0
  | none => 0

/-- The value of a source at the start of the bundle, for the slot whose free-value number is `free` (R28). -/
def srcVal (s : State) (free : Nat) (src : Src) : Row :=
  let t := s.task
  let rr := rrbRead s
  match src with
  | .s n => readReg t free (.s (renS rr n))
  | .v n => readReg t free (.v (renV rr n))
  | .p n => readReg t free (.p (renP rr n))
  | .m n => readReg t free (.m n)
  | .tcfg n => readReg t free (.tcfg n)
  | .acp => readReg t free .acp
  | .rrb => readReg t free .rrb
  | .lc => readReg t free .lc
  | .ec => readReg t free .ec
  | .mcfg => readReg t free .mcfg
  | .pcfg => readReg t free .pcfg
  | .did => row64 (didVal t)
  | .crd => row64 (crdVal t.info)
  | .tn k | .th k => if inFlight t (.tcfg k) || segEarly t (segKey t k) then freeOf free 1024 else tileSeg t k
  | .lq => match t.lq with
    | e :: _ => e.val.getD 0
    | [] => 0
  | .ftime => row64 (BitVec.ofNat 64 s.clk.ftime)
  | .cyc => row64 (BitVec.ofNat 64 t.regs.cyc)
  | .hb => row64 (BitVec.ofNat 64 s.clk.hb)
  | .rxq => rxRow s t
  | .sst => row64 (t.spec.shown.getD (sstVal (roundDq s t) t))
  | .imm9 i => row64 (i.signExtend 64)
  | .limm20 _ i => row64 (i.signExtend 64)
  | .limm40 _ i => row64 (i.signExtend 64)

/-- The register that a source reads, if it reads one. -/
def srcReg (rr : W64) : Src → Option RegDst
  | .s n => some (.s (renS rr n))
  | .v n => some (.v (renV rr n))
  | .p n => some (.p (renP rr n))
  | .m n => some (.m n)
  | .tcfg n => some (.tcfg n)
  | .acp => some .acp
  | .rrb => some .rrb
  | .lc => some .lc
  | .ec => some .ec
  | .mcfg => some .mcfg
  | .pcfg => some .pcfg
  | _ => none

/-- A read of poisoned data raises POISON once the data's landing cycle has come (R35, R153). -/
def srcPoisoned (s : State) (src : Src) : Bool :=
  let t := s.task
  match srcReg (rrbRead s) src with
  | some d => !inFlight t d && t.regs.poison.contains d
  | none => match src with
    | .tn k | .th k => segPoisoned t (segKey t k)
    | .lq => match t.lq with
      | e :: _ => e.poison
      | [] => false
    | _ => false

/-- Where the poisoned data of a source stands. -/
def srcBadAt (s : State) (src : Src) : Option BadAt :=
  match srcReg (rrbRead s) src with
  | some d => some (.reg d)
  | none => match src with
    | .tn k | .th k => some (.seg (segKey s.task k))
    | .lq => s.task.lq.head?.map fun e => .res e.seq
    | _ => none

/-! ### Operand ports (R29, R31, R77, R78) -/

def portIdx (p : Port) : Nat := p.code - 0x80

def portWidth : Port → Nat
  | .lsua | .lsub | .veca | .vecb | .vecc => 1024
  | .veck | .lgb => 128
  | .lsuy | .vecy | .vecz | .lgy => 7
  | _ => 64

/-- A value as a port stores it: its low bits (R19, R78). -/
def portTrim (p : Port) (x : Row) : Row := BitVec.ofNat 1024 (x.toNat % 2 ^ (portWidth p))

/-- A move into a port: H latches and holds; without H the next consuming trigger takes it (R31). -/
def writePort (ports : List Latch) (p : Port) (x : Row) (hold : Bool) : List Latch :=
  setNth ports (portIdx p) { val := portTrim p x, full := true, held := hold }

/-- What a trigger receives from a port: the latched value, or an undefined one (R29). -/
def portVal (ports : List Latch) (free : Nat) (p : Port) : Row :=
  let l := nth ports (portIdx p) Latch.empty
  if l.full then l.val else freeOf (free + (portIdx p)) (portWidth p)

/-- A trigger consumes the ports it reads: those not held lose their value (R29, R79). -/
def consumePort (ports : List Latch) (p : Port) : List Latch :=
  let l := nth ports (portIdx p) Latch.empty
  if l.held then ports else setNth ports (portIdx p) { l with full := false }

def consumePorts (ports : List Latch) (l : List Port) : List Latch := l.foldl consumePort ports

/-! ### Destination codes (R32) -/

/-- The destination that a d code names, renamed by `rrb` as read (`rrbRead`); `none` where R32 refuses it. -/
def destOf (rrb : W64) (x : W64) : Option Dest :=
  let c := x.toNat
  if c = 0xff then some .drop
  else if c < 0x7e then (regOfCode c).map fun r => .reg (renDst rrb r)
  else if 0xb0 ≤ c ∧ c < 0xb8 then some (.tileW (BitVec.ofNat 3 c))
  else none

/-- p0 and m0 as destinations discard (R32). -/
def Dest.norm : Dest → Dest
  | .reg (.p 0) => .drop
  | .reg (.m 0) => .drop
  | d => d

/-- Units of the context image by their bit in `dirty` (R322). -/
def unitPage (n : Nat) : Nat := n
def unitSeg (key : Nat) : Nat := 32 + key
def unitAcc (q : Nat) : Nat := 2080 + q
def unitRow (r : Nat) : Nat := 3104 + r

/-- A unit has been written. -/
def touchUnit (d k : Nat) : Nat := d ||| 2 ^ k

/-- Several units have been written. -/
def touchUnits (d : Nat) (l : List Nat) : Nat := l.foldl touchUnit d

/-- The page of the vector registers is written with any of them; the other registers lie in page 0, which is always dirty. -/
def touchReg (d : Nat) : RegDst → Nat
  | .v _ => touchUnit d (unitPage 1)
  | _ => d

/-- A register that a move or a result writes at once: flights to it that were issued earlier are settled against, and its poison mark clears (R35, R36). -/
def settle (t : Task) (d : RegDst) (seq : Nat) : Task :=
  { t with
    flights := t.flights.map fun f => if f.dest == .reg d && decide (f.seq < seq) then { f with dead := true } else f
    regs := { t.regs with poison := t.regs.poison.filter (· != d) } }

/-- A move's write of a register, issue number `seq` (R28, R36). -/
def moveReg (t : Task) (d : RegDst) (x : Row) (seq : Nat) : Task :=
  let t := settle t d seq
  { t with regs := t.regs.write d x, dirty := touchReg t.dirty d }

/-- A result on its way: later-issued than what is in flight to its register (R36). -/
def addFlight (t : Task) (f : Flight) : Task :=
  match f.dest with
  | .drop => if f.kind = .timed then { t with flights := t.flights ++ [f] } else t
  | .reg d =>
    let t := settle t d f.seq
    { t with flights := t.flights ++ [f] }
  | .tileW _ => { t with flights := t.flights ++ [f] }

/-- A fixed-latency result: lands no later than cycle `due` (R36). -/
def sendResult (t : Task) (d : Dest) (x : Row) (due seq : Nat) : Task :=
  addFlight t { dest := d.norm, kind := .fixed, val := some x, poison := false, due := due, seq := seq, dead := false, landed := false }

/-- A fixed-latency result that a poison mark goes with (R244, R285). -/
def sendMarked (t : Task) (d : Dest) (x : Row) (bad : Bool) (due seq : Nat) : Task :=
  addFlight t { dest := d.norm, kind := .fixed, val := some x, poison := bad, due := due, seq := seq, dead := false, landed := false }

/-- The poisoned data of a place came from a line. -/
def noteLine (t : Task) (h : BadAt) (line : Nat) : Task := { t with badBy := (h, line) :: t.badBy.filter fun e => e.1 != h }

/-- The line that the poisoned data of a place came from; where none is kept, that of the latest poisoned row (log 17). -/
def badLine (t : Task) (h : BadAt) : Nat := ((t.badBy.find? fun e => e.1 == h).map Prod.snd).getD t.badRow

/-- A segment written at a tile's write pointer, which then advances; a poisoned one is marked (R153). -/
def writeTile (t : Task) (k : BitVec 3) (x : Row) (poison : Bool) : Task :=
  let cfg := t.regs.getT k
  let key := 256 * k.toNat + tileW cfg
  { t with
    tiles := sset t.tiles key x
    dirty := touchUnit t.dirty (unitSeg key)
    tilePoison := if poison then (if t.tilePoison.contains key then t.tilePoison else key :: t.tilePoison)
      else t.tilePoison.filter (· != key)
    regs := { t.regs with tcfg := t.regs.tcfg.set k.toNat (setTileW cfg (advance cfg (tileW cfg))) k.isLt } }

/-- A result lands: a live one writes its destination, unless it did so early (R36, R153). -/
def landOne (t : Task) (f : Flight) : Task :=
  if f.dead || f.landed then t
  else match f.dest with
    | .drop => t
    | .reg d =>
      let t := { t with regs := (t.regs.write d (f.val.getD 0)), dirty := touchReg t.dirty d }
      if f.poison then noteLine { t with regs := { t.regs with poison := d :: t.regs.poison } } (.reg d) (badLine t (.res f.seq)) else t
    | .tileW k =>
      let u := writeTile t k (f.val.getD 0) f.poison
      if f.poison then noteLine u (.seg (256 * k.toNat + tileW (t.regs.getT k))) (badLine t (.res f.seq)) else u

/-- The segment that a tile write would take now. -/
def segOf (t : Task) (f : Flight) : Option Nat := match f.dest with
  | .tileW k => if f.dead || f.landed then none else some (256 * k.toNat + tileW (t.regs.getT k))
  | .reg _ | .drop => none

/-- A result lands before its cycle and stays listed: until then its register, or the segment that it took, is undefined (R35, R39). -/
def landMark (t : Task) (f : Flight) : Task :=
  let key := segOf t f
  let t := landOne t f
  { t with flights := t.flights.map fun g => if g.seq = f.seq ∧ g.dest = f.dest then { g with landed := true, seg := if f.landed then g.seg else key } else g }

/-- Order of landing: due cycle, then issue order (R153). -/
def flightLe (a b : Flight) : Bool := decide (a.due < b.due) || (a.due == b.due && decide (a.seq ≤ b.seq))

def insFlight (f : Flight) : List Flight → List Flight
  | [] => [f]
  | g :: t => if flightLe f g then f :: g :: t else g :: insFlight f t

def sortFlights (l : List Flight) : List Flight := l.foldr insFlight []

/-- One result of an early landing, `held` being the tiles of which an earlier write has no data yet: the tile's later writes wait behind it (R39, R153). -/
def landStep (a : Task × List (BitVec 3)) (f : Flight) : Task × List (BitVec 3) :=
  match f.dest, f.val with
  | .tileW k, none => (a.1, if f.dead || f.landed then a.2 else k :: a.2)
  | .tileW k, some _ => if a.2.contains k then a else (landMark a.1 f, a.2)
  | _, some _ => (landMark a.1 f, a.2)
  | _, none => a

/-- Every result in flight with its data lands now; until its landing cycle its register stays undefined, so it stays listed (R39, R40). -/
def landEarly (t : Task) : Task :=
  ((sortFlights (t.flights.filter fun f => f.kind != .deferred)).foldl landStep (t, [])).1

/-- Every flight whose cycle has come lands, in landing order. -/
def landDue (t : Task) (now : Nat) : Task :=
  let due := t.flights.filter fun f => f.kind != .deferred && decide (f.due ≤ now)
  let rest := t.flights.filter fun f => !(f.kind != .deferred && decide (f.due ≤ now))
  (sortFlights due).foldl landOne { t with flights := rest }

/-- A write of a tile whose landing cycle has come. -/
def tileDue (t : Task) (f : Flight) : Bool := f.kind != .deferred && decide (f.due ≤ t.regs.cyc) && (match f.dest with
  | .tileW _ => true
  | _ => false)

/-- The tile writes that are due, their data there, take their segments before an engine's row does (R153). -/
def landTiles (t : Task) : Task :=
  let now := fun (f : Flight) => tileDue t f && f.val.isSome
  (sortFlights (t.flights.filter now)).foldl landOne { t with flights := t.flights.filter fun f => !now f }

/-- Outstanding timed requests (R37). -/
def outstanding (t : Task) : Nat := (t.flights.filter fun f => f.kind == .timed).length

end Sys2Proof.Machine
end

