-- ==== Sys2Proof/Machine/Objects.lean ====
section
/-! DEFINITION. The objects that several agents share: tasks by number, partitions, records and rings, dependence counters, barriers, the clocks. -/

namespace Sys2Proof.Machine

/-! ### Numeric rules (R73) -/

/-- VER = 1: first-generation rules. -/
def nbvVer1 (nbv : W64) : Bool := fld nbv 7 0 == 1

/-- The task's numeric rules. -/
def ver1 (t : Task) : Bool := nbvVer1 t.info.nbv

/-! ### Tasks and partitions by number -/

/-- Every task of the device. -/
def allTasks (s : State) : List Task := s.task :: s.others

def findTask (s : State) (uid : Nat) : Option Task := (allTasks s).find? fun t => t.uid == uid

/-- One task changed, whether it is in focus or not. -/
def modTask (s : State) (uid : Nat) (f : Task → Task) : State :=
  if s.task.uid = uid then { s with task := f s.task }
  else { s with others := s.others.map fun t => if t.uid = uid then f t else t }

/-- Every task changed. -/
def modAllTasks (s : State) (f : Task → Task) : State :=
  { s with task := f s.task, others := s.others.map f }

def swapFocus (uid : Nat) (cur : Task) : List Task → List Task
  | [] => []
  | t :: r => if t.uid = uid then cur :: r else t :: swapFocus uid cur r

/-- The task `uid` comes into focus; the state is unchanged where there is none. -/
def focus (s : State) (uid : Nat) : State :=
  if s.task.uid = uid then s
  else match s.others.find? fun t => t.uid == uid with
    | some t => { s with task := t, others := swapFocus uid s.task s.others }
    | none => s

def getPart (s : State) (p : Nat) : Part := nth s.parts p (Part.reset p false)

/-- A partition's numeric rules. -/
def partVer1 (s : State) (p : Nat) : Bool := nbvVer1 (getPart s p).nbv

def modPart (s : State) (p : Nat) (f : Part → Part) : State :=
  { s with parts := setNth s.parts p (f (getPart s p)) }
def modPM (s : State) (p : Nat) (f : PartMem → PartMem) : State := modPart s p fun q => { q with mem := f q.mem }
def modPS (s : State) (p : Nat) (f : PartSched → PartSched) : State := modPart s p fun q => { q with sch := f q.sch }
def modPR (s : State) (p : Nat) (f : PartRes → PartRes) : State := modPart s p fun q => { q with res := f q.res }

def onCore (t : Task) : Bool := match t.place with
  | .onCore .. => true
  | _ => false

/-- The core of a task: die, cluster, core (R174). -/
def coreOf (t : Task) : Option (Nat × Nat × Nat) := match t.place with
  | .onCore d c k | .saving _ d c k => some (d, c, k)
  | _ => none

/-- The core's number, 64 · die + 8 · cluster + core (R264). -/
def coreNum (t : Task) : Nat := match coreOf t with
  | some (d, c, k) => 64 * d + 8 * c + k
  | none => 512

def dieOf (t : Task) : Nat := match coreOf t with
  | some (d, _, _) => d
  | none => 0

def findInst (s : State) (id : Nat) : Option Inst := s.sched.insts.find? fun i => i.id == id
def modInst (s : State) (id : Nat) (f : Inst → Inst) : State :=
  { s with sched := { s.sched with insts := s.sched.insts.map fun i => if i.id = id then f i else i } }
def findLaunch (s : State) (seq : Nat) : Option LaunchState := s.sched.launches.find? fun l => l.lr.seqno == seq
def modLaunch (s : State) (seq : Nat) (f : LaunchState → LaunchState) : State :=
  { s with sched := { s.sched with launches := s.sched.launches.map fun l => if l.lr.seqno = seq then f l else l } }
def findOp (s : State) (id : Nat) : Option EngOp := s.sched.ops.find? fun o => o.id == id
def modOp (s : State) (id : Nat) (f : EngOp → EngOp) : State :=
  { s with sched := { s.sched with ops := s.sched.ops.map fun o => if o.id = id then f o else o } }
def dropOp (s : State) (id : Nat) : State :=
  { s with sched := { s.sched with ops := s.sched.ops.filter fun o => o.id != id } }

/-! ### Clocks (R9, R262) -/

/-- One ck: hb ticks every 128 ck, fleet time rises by 5/3 ns. -/
def tickClock (c : Clock) : Clock :=
  { ck := c.ck + 1, hb := if (c.ck + 1) % 128 = 0 then c.hb + 1 else c.hb
    ftime := c.ftime + (c.sub + 5) / 3 + (if slewNow c = 1 then 1 else 0) - (if slewNow c = -1 then 1 else 0), sub := (c.sub + 5) % 3
    slew := c.slew - slewNow c }
where
  /-- What the servo corrects in this ck: 1 ns in every 6,000 ck, which is 100 ns in 1 ms (R391). -/
  slewNow (c : Clock) : Int := if (c.ck + 1) % 6000 = 0 then c.slew.sign else 0

/-- Time on a core counts toward wct, frozen time included (R331). -/
def chargeTime (ns : Nat) (t : Task) : Task := if onCore t then { t with time := { t.time with wctUsed := t.time.wctUsed + ns } } else t

/-- One ck of the focus task's core. -/
def tick (s : State) : State := { s with clk := tickClock s.clk, task := chargeTime ((s.clk.sub + 5) / 3) s.task }

/-! ### Records (R314 to R318) -/

def causeCode : Cause → Nat
  | .illSrc => 0x01 | .illDst => 0x02 | .illHold => 0x03 | .illLimm => 0x04 | .bundleConflict => 0x05
  | .illType => 0x06 | .illScope => 0x07 | .pageFault => 0x10 | .prot => 0x11 | .format => 0x12
  | .owner => 0x13 | .space => 0x15 | .barOverrun => 0x20 | .barBroken => 0x21 | .rngPos => 0x22
  | .lqEmpty => 0x23 | .specEffect => 0x30 | .specDepth => 0x31 | .wctExceeded => 0x40 | .killed => 0x41
  | .poison => 0x50 | .machineCheck => 0x51 | .trapInsn => 0x60 | .priv => 0x61

/-- The fields of a record, HDR aside (R315). -/
structure RecData where
  slot : Nat := 0xffff
  cause : Nat := 0
  kind : Nat := 0
  event : Nat := 0
  part : Nat := 0
  lane : Nat := 0
  loc : Nat := 0
  crd : Nat := 0
  recAddr : Nat := 0
  seqno : Nat := 0
  /-- When it was raised, where that is not now. -/
  ftime : Option Nat := none
  addr : Nat := 0
  info1 : Nat := 0
  info2 : Nat := 0
  deriving DecidableEq, Repr

/-- The 64 B of a record, its PHASE bit still 0 (R315). -/
def recWords (r : RecData) : BitVec 512 :=
  BitVec.ofNat 512 (2 ^ 16 * (r.slot % 2 ^ 16) + 2 ^ 32 * (r.cause % 2 ^ 8) + 2 ^ 40 * (r.kind % 2 ^ 8)
    + 2 ^ 48 * (r.event % 2 ^ 16) + 2 ^ 64 * (r.part % 2 ^ 6) + 2 ^ 72 * (r.lane % 2 ^ 5) + 2 ^ 80 * (r.loc % 2 ^ 16)
    + 2 ^ 96 * (r.crd % 2 ^ 25) + 2 ^ 128 * (r.recAddr % 2 ^ 64) + 2 ^ 192 * (r.seqno % 2 ^ 64)
    + 2 ^ 256 * (r.ftime.getD 0 % 2 ^ 64) + 2 ^ 320 * (r.addr % 2 ^ 64) + 2 ^ 384 * (r.info1 % 2 ^ 64) + 2 ^ 448 * (r.info2 % 2 ^ 64))

/-- The ring of a record (R314): the VF ring under VFR for a partition that is a VF, else ring 0 for retryable records and ring 1 for the others. -/
def ringOf (s : State) (part : Nat) (retry : Bool) : Nat :=
  if part ≠ 0 ∧ bitAt (getPart s part).sch.fltcfg 0 then part + 1 else if retry then 0 else 1

def modRing (s : State) (r : Nat) (f : Ring → Ring) : State :=
  { s with rings := setNth s.rings r (f (nth s.rings r (Ring.reset r))) }

/-- A record joins its ring's waiting list; a record that is not retryable is dropped beyond 64 (R318). -/
def enqueueRec (s : State) (r : Nat) (words : BitVec 512) (retry : Bool) : State :=
  modRing s r fun g =>
    if !retry && decide (64 ≤ (g.waiting.filter fun w => !w.retry).length) then { g with drop := g.drop + 1 }
    else { g with waiting := g.waiting ++ [{ words := words, retry := retry, at_ := s.clk.ftime, warned := false }] }

/-- A record is raised now (R315). -/
def raiseRec (s : State) (r : RecData) (retry : Bool) : State :=
  enqueueRec s (ringOf s r.part retry) (recWords { r with ftime := some (r.ftime.getD s.clk.ftime) }) retry

/-- The record fields that a task gives (R315). -/
def taskRec (t : Task) : RecData :=
  { part := t.info.part, crd := (crdVal t.info).toNat, recAddr := t.info.recAddr, seqno := t.info.seqno
    slot := t.frame.slot.getD 0xffff }

/-- A timing or counter event of a partition (R316). -/
def raiseEvent (s : State) (part code kind info1 : Nat) (recAddr seqno : Nat) : State :=
  raiseRec s { part := part, event := code, kind := kind, info1 := info1, recAddr := recAddr, seqno := seqno } false

/-- An error charge (R332): the owner's ring, with a copy to ring 1 under VFR (R314). -/
def raiseCharge (s : State) (part lines pa : Nat) : State :=
  let r : RecData := { part := part, kind := 5, info1 := lines, info2 := pa }
  let s := raiseRec s r false
  if ringOf s part false ≠ 1 then enqueueRec s 1 (recWords { r with ftime := some s.clk.ftime }) false else s

/-- An interrupt to a function (R184, R317). -/
def interruptFn (s : State) (fn : Nat) : State := { s with boot := { s.boot with interrupts := s.boot.interrupts ++ [fn] } }

/-! ### Dependence counters (R201, R202) -/

/-- The counter's launch, if one is bound, may be released. -/
def openGate (s : State) (p ctr : Nat) : State :=
  match (getPart s p).sch.bound.find? fun b => b.1 == ctr with
  | some (_, seq) =>
    let s := modLaunch s seq fun l => { l with gateOpen := true }
    modPS s p fun q => { q with bound := q.bound.filter fun b => b.1 != ctr }
  | none => s

/-- One decrement: at 0 a counter event is written; reaching 0 releases the bound launch. -/
def decCounter (s : State) (p ctr : Nat) : State :=
  let c := sget (w := 32) (getPart s p).sch.counters ctr
  let s :=
    if c = 0 then raiseEvent s p 0x0010 3 ctr 0 0
    else modPS s p fun q => { q with counters := sset (w := 32) q.counters ctr (c - 1) }
  if sget (w := 32) (getPart s p).sch.counters ctr = 0 then openGate s p ctr else s

/-- A partition without power tokens for general work, or waiting for its turn at the pool: classes S and B and their engines stand still; class F only where the pool is spent too and no token is left (R382). -/
def powerFrozen (s : State) (t : Task) : Bool :=
  let q := (getPart s t.info.part).res
  if t.info.cls = 0 then q.frozen && fld q.pwrStat 19 0 == 0 else q.frozen || s.boot.poolWait.contains t.info.part

/-- A task on a die that has fallen silent: it issues nothing more and its engines stand (R369, R370, log 81). -/
def onMute (s : State) (t : Task) : Bool := (coreOf t).elim false fun c => s.mir.mute.contains c.1

/-! ### Barriers (R300 to R304) -/

def Barrier.zero : Barrier := { pend := 0, phase := false, posted := false, broken := false }

def isSet (t : TaskInfo) (b : BarSet) : Bool :=
  b.inst == t.inst && b.y == t.y && b.z == t.z && b.stg == t.stg && b.copy == t.copy

/-- A barrier of the task's team (R300); every object starts at zero. -/
def getBar (s : State) (i : TaskInfo) (n : Nat) : Barrier :=
  match s.sched.barSets.find? (isSet i) with
  | some b => nth b.bars n Barrier.zero
  | none => Barrier.zero

def setBar (s : State) (i : TaskInfo) (n : Nat) (x : Barrier) : State :=
  let sets := if s.sched.barSets.any (isSet i) then s.sched.barSets
    else s.sched.barSets ++ [{ inst := i.inst, y := i.y, z := i.z, stg := i.stg, copy := i.copy, bars := List.replicate 64 Barrier.zero }]
  { s with sched := { s.sched with barSets := sets.map fun b => if isSet i b then { b with bars := setNth b.bars n x } else b } }

/-- A phase completes when posted with nothing pending (R300). -/
def Barrier.check (b : Barrier) : Barrier :=
  if b.posted && b.pend == 0 then { b with phase := !b.phase, posted := false } else b

/-- A delivery of n bytes with a tag (R301): the barrier after it, and whether it overran. -/
def deliver (b : Barrier) (n : Nat) (tag : Bool) : Barrier × Bool :=
  if b.broken then (b, false)
  else if tag != b.phase then (if n = 0 then (b, false) else ({ b with broken := true }, true))
  else
    let q : Int := b.pend - n
    if (b.posted && decide (q < 0)) || decide (q < -(2 ^ 31 : Nat)) then ({ b with broken := true }, true)
    else if n = 0 then (b, false)
    else ((Barrier.check { b with pend := q }), false)

/-- bpost (R302). -/
def post (b : Barrier) (n : Nat) : Barrier :=
  if b.broken then b
  else
    let q : Int := b.pend + n
    if q > 2 ^ 31 - 1 then { b with broken := true }
    else
      let b := { b with pend := q, posted := true }
      if b.pend < 0 then { b with broken := true } else Barrier.check b

/-- The team mates of a task that hold the same barriers. -/
def sameTeam (a b : TaskInfo) : Bool :=
  a.inst == b.inst && a.y == b.y && a.z == b.z && a.stg == b.stg && a.copy == b.copy

/-- bwaits that end: the phase awaited has passed; a broken barrier raises BAR_BROKEN at the boundary (R303). -/
def thawBwait (s : State) (t : Task) : Task :=
  t.freeze.foldl (fun (t : Task) f => match f with
    | .bwait n par loc =>
      let b := getBar s t.info n
      if b.broken then
        { t with freeze := t.freeze.filter (· != f), pending := t.pending ++ [{ cause := .barBroken, loc := some loc }] }
      else if b.phase != par then { t with freeze := t.freeze.filter (· != f) } else t
    | _ => t) t

/-- A cause that ends or suspends the task at its next bundle boundary; every cause stays until it is taken (R285, R304, R333). -/
def pend (t : Task) (c : Trap) : Task := if t.pending.contains c then t else { t with pending := t.pending ++ [c] }

end Sys2Proof.Machine
end

