-- ==== Sys2Proof/Machine/Access.lean ====
section
/-! DEFINITION. Address windows, translation, the checks of a page, and reads and writes of device memory with what they do to replicas, private lines, stash rows, mirrors and the dirty log (R208 to R244). -/

namespace Sys2Proof.Machine

/-! ### Ownership (R209, R210) -/

/-- A device address: PA[51:39] zero. -/
def isDevice (pa : Nat) : Bool := decide (pa < 2 ^ 39)

/-- The partition owns the block of a device address and may address it: shadow blocks have no address (R366). -/
def ownsPa (q : Part) (pa : Nat) : Bool :=
  q.res.blocks.contains (pa / 2 ^ 31) && !(q.res.pairs.any fun b => b.2 == pa / 2 ^ 31)

/-- An I/O frame inside the partition's range (R385). -/
def inIoRange (q : Part) (pa : Nat) : Bool :=
  let f := pa % 2 ^ 51 / 4096
  decide (fld q.mem.iorange 50 12 ≤ f) && decide (f < fld q.mem.iolim 50 12)

/-- A frame that a translation may yield (R210). -/
def frameOk (q : Part) (pa : Nat) : Bool :=
  if pa / 2 ^ 51 = 0 then isDevice pa && ownsPa q pa else inIoRange q pa

/-- The partition that owns a device address, for charges (R332). -/
def ownerOf (s : State) (pa : Nat) : Option Nat :=
  (s.parts.find? fun q => q.res.blocks.contains (pa / 2 ^ 31)).map Part.id

/-! ### Kinds of access (R217) -/

structure Acc where
  rd : Bool
  wr : Bool
  atom : Bool := false
  /-- A task's own access: step 7 of R217 applies. -/
  task : Bool := true
  /-- rinv: checks 1 to 5 only, and no permission beyond a load's (R279). -/
  region : Bool := false
  /-- The device's own read of a code image or a fragment table: EX takes RD's place (R215, log 45). -/
  ex : Bool := false
  deriving DecidableEq, Repr

def accLoad : Acc := { rd := true, wr := false }
def accStore : Acc := { rd := false, wr := true }
def accAmo : Acc := { rd := true, wr := true, atom := true }
/-- nra forms need WR (R217), and as atomics RD and WR by R267 and step 5 (log 13). -/
def accNra : Acc := { rd := true, wr := true, atom := true }
def accEngRead : Acc := { rd := true, wr := false, task := false }
def accEngWrite : Acc := { rd := false, wr := true, task := false }
def accRinv : Acc := { rd := true, wr := false, region := true }
/-- The device reads a record, a declaration, a schedule or a map. -/
def accData : Acc := { rd := true, wr := false, task := false }
/-- The device reads a code image or a fragment table. -/
def accCode : Acc := { rd := false, wr := false, task := false, ex := true }

/-! ### Page formats (R63, R64) -/

/-- A packed format: mantissa bits and block size of BFP, or the group of Q4G. -/
inductive Packed where
  | bfp (m block : Nat)
  | q4g (group : Nat)
  deriving DecidableEq, Repr

def packedOf (fmt : Nat) : Option Packed :=
  if 8 ≤ fmt ∧ fmt ≤ 14 then some (.bfp (fmt - 6) 32)
  else if 16 ≤ fmt ∧ fmt ≤ 22 then some (.bfp (fmt - 14) 16)
  else if fmt = 24 then some (.q4g 32) else if fmt = 25 then some (.q4g 64) else if fmt = 26 then some (.q4g 128)
  else none

def fmtReserved (fmt : Nat) : Bool := decide (fmt = 6 ∨ fmt = 7 ∨ fmt = 15 ∨ fmt = 23 ∨ 27 ≤ fmt)

/-- Rows that a stripe of 4,096 elements occupies (R60, R62). -/
def stripeRows : Packed → Nat
  | .bfp m b => 4 * m + (if b = 32 then 1 else 2)
  | .q4g g => 16 + (if g = 32 then 3 else if g = 64 then 2 else 1)

/-! ### Packed rows (R59 to R66) -/

/-- Byte k of a stripe from its first byte's address. -/
def byteAt (m : List Host.Cell) (a : Nat) : Nat := (sget (w := 8) m a).toNat

/-- Where logical row `lrow` of a page of a packed format stands: the stripe's first byte and the first element in it. -/
def stripeOf (k : Packed) (base lrow : Nat) : Nat × Nat :=
  (base + lrow / 64 * (stripeRows k) * 128, lrow % 64 * 64)

/-- Mantissa bits of element i of a stripe (R60). -/
def bfpMant (m : List Host.Cell) (sa mb i : Nat) : Int :=
  let g := i / 1024
  let j := i % 1024
  sgn mb (packN 1 ((List.range mb).map fun b => byteAt m (sa + (g * mb + b) * 128 + j / 8) / 2 ^ (j % 8)))

def bfpExpAt (m : List Host.Cell) (sa mb block i : Nat) : Nat := byteAt m (sa + 4 * mb * 128 + i / block)

/-- Element i of a stripe as bf16, flushed under VER = 1 (R59, R62, R74). -/
def packedElem (v1 : Bool) (m : List Host.Cell) (k : Packed) (sa i : Nat) : Nat := match k with
  | .bfp mb block => encodeV v1 fmtB 0 (bfpVal mb (bfpExpAt m sa mb block i) (bfpMant m sa mb i))
  | .q4g g =>
    let b := byteAt m (sa + i / 256 * 128 + i % 256 / 2)
    let q := if i % 2 = 0 then b % 16 else b / 16
    let ma := sa + 2048 + 3 * (i / g)
    q4gVal v1 q (byteAt m (ma + 2) % 16) (byteAt m ma + 256 * byteAt m (ma + 1))

/-- A logical row of 64 bf16 values (R64). -/
def packedRow (v1 : Bool) (m : List Host.Cell) (k : Packed) (base lrow : Nat) : Row :=
  let (sa, e0) := stripeOf k base lrow
  packRow 16 ((List.range 64).map fun i => packedElem v1 m k sa (e0 + i))

/-- One bit of a byte of memory. -/
def setMemBit (m : List Host.Cell) (a n : Nat) (x : Bool) : List Host.Cell :=
  let b := byteAt m a
  let b' := if b / 2 ^ n % 2 = b2n x then b else if x then b + 2 ^ n else b - 2 ^ n
  sset (w := 8) m a (BitVec.ofNat 8 b')

/-- The mantissa of element i, bit by bit. -/
def putMant (m : List Host.Cell) (sa mb i : Nat) (v : Nat) : List Host.Cell :=
  (List.range mb).foldl (fun m b => setMemBit m (sa + (i / 1024 * mb + b) * 128 + i % 1024 / 8) (i % 8) (v / 2 ^ b % 2 == 1)) m

/-- A block re-encoded with new values at some of its elements (R61, R65): `put` gives the new bf16 pattern of element e0 + j; the others are encoded again from what they decode to. -/
def putBlock (v1 : Bool) (m : List Host.Cell) (mb block sa e0 : Nat) (put : Nat → Option Nat) : List Host.Cell :=
  if (List.range block).any (fun j => (put j).isSome) then
    let vals := (List.range block).map fun j => decodeF fmtB ((put j).getD (packedElem v1 m (.bfp mb block) sa (e0 + j)))
    let (E, ms) := bfpEncode mb vals
    let m := sset (w := 8) m (sa + 4 * mb * 128 + e0 / block) (BitVec.ofNat 8 E)
    ((List.range block).zip ms).foldl (fun m jm => putMant m sa mb (e0 + jm.1) (wrapN mb jm.2)) m
  else m

/-- A store to a logical row: `put j` is the new value of its element j, if the store covers it (R65, R66). -/
def putPacked (v1 : Bool) (m : List Host.Cell) (k : Packed) (base lrow : Nat) (put : Nat → Option Nat) : List Host.Cell :=
  let (sa, e0) := stripeOf k base lrow
  match k with
  | .bfp mb block =>
    (List.range (64 / block)).foldl (fun m b => putBlock v1 m mb block sa (e0 + b * block) fun j => put (b * block + j)) m
  | .q4g g =>
    (List.range 64).foldl (fun m j => match put j with
      | none => m
      | some x =>
        let i := e0 + j
        let ma := sa + 2048 + 3 * (i / g)
        let q := q4gEncode x (byteAt m (ma + 2) % 16) (byteAt m ma + 256 * byteAt m (ma + 1))
        let a := sa + i / 256 * 128 + i % 256 / 2
        let b := byteAt m a
        sset (w := 8) m a (BitVec.ofNat 8 (if i % 2 = 0 then b / 16 * 16 + q else b % 16 + 16 * q))) m

/-- The stored rows of a packed logical row: those of its stripe (R65). -/
def packedRows (k : Packed) (base lrow : Nat) : List Nat :=
  let (sa, _) := stripeOf k base lrow
  (List.range (stripeRows k)).map fun r => sa / 128 + r

/-- The stored rows that hold a logical row's own bits: its mantissa planes and exponents, or its nibbles and metadata (R60, R62). -/
def touchRows (k : Packed) (base lrow : Nat) : List Nat :=
  let (sa, e0) := stripeOf k base lrow
  match k with
  | .bfp mb block => ((List.range mb).map fun b => sa / 128 + e0 / 1024 * mb + b) ++ [sa / 128 + 4 * mb + e0 / block / 128]
  | .q4g g => (sa / 128 + e0 / 256) :: (((List.range 64).map fun j => sa / 128 + 16 + 3 * ((e0 + j) / g) / 128)
      ++ (List.range 64).map fun j => sa / 128 + 16 + (3 * ((e0 + j) / g) + 2) / 128).eraseDups

/-! ### Regions, directory (R220, R233 to R238) -/

def regionOf (s : State) (n : Nat) : RegionState :=
  (s.side.regions.find? fun r => r.num == n).getD
    { num := n, home := n / 32768, deg := 0, ppin := false, dpin := false, hits := 0, missr := 0, coll := 0
      accDie := List.replicate 9 0, epochs := 4 }

def modRegion (s : State) (n : Nat) (f : RegionState → RegionState) : State :=
  let r := f (regionOf s n)
  { s with side := { s.side with regions := r :: s.side.regions.filter fun x => x.num != n } }

def homeDie (s : State) (pa : Nat) : Nat := (regionOf s (pa / 2 ^ 21)).home

/-- The dies that may hold a replica, besides the home (R233). -/
def inDegree (deg home d : Nat) : Bool :=
  d != home && (match deg with
    | 0 => false
    | 1 => d / 2 == home / 2
    | 2 => d / 4 == home / 4
    | _ => true)

def dieBit (d : Nat) : BitVec 8 := BitVec.ofNat 8 (2 ^ (d % 8))

def dirOf (s : State) (row : Nat) : DirEntry :=
  (s.side.dir.find? fun e => e.row == row).getD { row := row, dies := 0, owner := none }

def setDir (s : State) (e : DirEntry) : State :=
  { s with side := { s.side with dir :=
    (if e.dies = 0 ∧ e.owner = none then [] else [e]) ++ s.side.dir.filter fun x => x.row != e.row } }

/-- The directory names a die as holding a copy (R220). -/
def nameDie (s : State) (row die : Nat) : State := setDir s { dirOf s row with dies := (dirOf s row).dies ||| dieBit die }

def bump (x : W64) : W64 := x + 1

/-- A row access of a region, from a die or, as die 8, from none (R239). -/
def noteAcc (s : State) (die pa : Nat) : State :=
  modRegion s (pa / 2 ^ 21) fun r => { r with accDie := setNth r.accDie (min die 8) (nth r.accDie (min die 8) 0 + 1) }

/-! ### Slices (R229 to R232) -/

/-- The row of the slice index: PA[20:7] ⊕ (PA[30:27] << 10) (R230). -/
def sliceRow (pa : Nat) : Nat := (pa / 2 ^ 7 % 2 ^ 14) ^^^ (pa / 2 ^ 27 % 16 * 2 ^ 10)

/-- The bank: PA[38:21] mod 3 (R230). -/
def sliceBank (pa : Nat) : Nat := pa / 2 ^ 21 % 2 ^ 18 % 3

/-- The set of a line in every slice (R230). -/
def sliceSet (pa : Nat) : Nat := 16384 * sliceBank pa + sliceRow pa

/-- A frame's colour: row[13:10] (R231). -/
def colour (pa : Nat) : Nat := sliceRow pa / 2 ^ 10

/-- Who asks for a line: its partition, its class, its die, or the I/O die by which it comes, 8 for X0 and 9 for X1, and the core whose L1 it looks in, 512 for none. -/
structure Rq where
  part : Nat
  cls : Nat
  die : Nat
  core : Nat := 512
  deriving DecidableEq, Repr

def rqOf (t : Task) : Rq := { part := t.info.part, cls := t.info.cls, die := dieOf t, core := coreNum t }

/-- The PF, a host or a peer, a controller: on no compute die, of no class F. -/
def rqDevice (part : Nat) : Rq := { part := part, cls := 2, die := 8 }

/-- Byte w of a die's way map. -/
def wayOf (s : State) (die w : Nat) : Nat := bitsOf (nth s.side.ways die 0) (8 * w) 8

/-- The ways that the requesting work may fill (R232). -/
def waysFor (s : State) (q : Rq) (die : Nat) : List Nat :=
  (List.range 16).filter fun w =>
    let b := wayOf s die w
    if q.cls = 0 then b / 128 % 2 == 1 && b % 64 == q.part else b / 128 % 2 == 0

/-- A slice holds a line: a lookup hits in any way (R232). -/
def sliceHolds (s : State) (die row : Nat) : Bool := s.side.slices.any fun l => l.die == die && l.row == row

/-- A line enters a slice, in a way that the request may use; a line that stood there leaves. Where every such way is taken, which of them gives way is not stated: a free choice (log 10). False where the request may use no way. -/
def fillSlice (s : State) (q : Rq) (die row : Nat) : State × Bool :=
  let here := s.side.slices.filter fun l => l.die == die && sliceSet (l.row * 128) == sliceSet (row * 128)
  let ways := waysFor s q die
  match ways.find? fun w => !(here.any fun l => l.way == w), ways with
  | some w, _ => ({ s with side := { s.side with slices := { die := die, row := row, way := w } :: s.side.slices } }, true)
  | none, [] => (s, false)
  | none, _ =>
    let w := nth ways ((Config.freeRow s.fresh).toNat % ways.length) 0
    let rest := s.side.slices.filter fun l => !(l.die == die && l.way == w && sliceSet (l.row * 128) == sliceSet (row * 128))
    ({ s with side := { s.side with slices := { die := die, row := row, way := w } :: rest }, fresh := s.fresh + 1 }, true)

/-! ### The stacks (R240, R242) -/

/-- A row that only its home stack holds for the requester: neither its own slice nor the home's has it (R229). -/
def onStack (s : State) (q : Rq) (row : Nat) : Bool :=
  !sliceHolds s (homeDie s (row * 128)) row && !sliceHolds s q.die row

/-- Rows that a stack has served in the slot that runs now. -/
def slotRows (s : State) (stack : Nat) : Nat := if s.side.hbmSlot = s.clk.ftime / 20 then nth s.side.hbmRows stack 0 else 0

/-- The slot that runs now is reserved to the requester (R241). -/
def slotIsOf (s : State) (q : Rq) (stack : Nat) : Bool :=
  let b := nth (nth s.side.hbmActive stack []) (s.clk.ftime % 1280 / 20) 0
  bitAt b 7 && fld b 5 0 == q.part && bitAt b 6 == (q.cls == 0)

def bewWeight (q : Part) : Nat := fld q.mem.bew 7 0
def bewCap (q : Part) : Nat := 64 * fld q.mem.bew 23 8

/-- One row of a stack is served (R242). -/
def useStack (s : State) (q : Rq) (stack : Nat) : State :=
  let now := s.clk.ftime / 20
  let own := slotIsOf s q stack
  let rows := if s.side.hbmSlot = now then s.side.hbmRows else List.replicate 8 0
  let s := { s with side := { s.side with hbmSlot := now, hbmRows := setNth rows stack (nth rows stack 0 + 1) } }
  if own then s
  else
    let s := if (getPart s q.part).mem.beTurn < bewWeight (getPart s q.part) then s
      else { s with parts := s.parts.map fun p => { p with mem := { p.mem with beTurn := 0 } } }
    modPM s q.part fun m => { m with beRows := m.beRows + 1, beTurn := m.beTurn + 1 }

/-! ### The link ports (R373, R374)

A route is a list of hops, and a hop the ports that lead over it: two of them to the mirror partner, whose ports are bonded. Ports are numbered as LNK_VCW numbers them. -/

/-- Hops along the ring of one parity from die a to die b: +2 leaves by port 2, -2 by port 3 (R373). -/
def ringHops (a b : Nat) : List (List Nat) := match (b + 8 - a) % 8 / 2 with
  | 0 => []
  | 1 => [[4 * a + 2]]
  | 2 => [[4 * a + 2], [4 * ((a + 2) % 8) + 2]]
  | _ => [[4 * a + 3]]

/-- The attached die of I/O die x, 0 or 1, that is nearest to die b on b's ring (R373). -/
def entryDie (x b : Nat) : Nat :=
  let at_ := match x, b / 2 with
    | 0, 0 | 0, 3 => 0
    | 0, _ => 1
    | _, 0 | _, 3 => 3
    | _, _ => 2
  2 * at_ + b % 2

/-- The way of a flit between two dies, 8 and 9 for X0 and X1: first to the partner where the parities differ; from an I/O die, or to one, by the attached die next to the other end (R373, log 7). -/
def route (a b : Nat) : List (List Nat) :=
  if 8 ≤ a ∧ 8 ≤ b then []
  else if 8 ≤ a then [32 + entryDie (a - 8) b] :: ringHops (entryDie (a - 8) b) b
  else if 8 ≤ b then ringHops a (entryDie (b - 8) a) ++ [[32 + entryDie (b - 8) a]]
  else if a % 2 = b % 2 then ringHops a b
  else [4 * a, 4 * a + 1] :: ringHops (a + 1 - 2 * (a % 2)) b

/-- The way between a die and the I/O die of an I/O address (R209, R373). -/
def ioRoute (die pa : Nat) : List (List Nat) := route die (8 + pa / 2 ^ 50 % 2)

/-- The way of a row from its home die to a requester that has no copy of it on its own die. -/
def rowRoute (s : State) (q : Rq) (row : Nat) : List (List Nat) :=
  let home := homeDie s (row * 128)
  if q.die = home ∨ sliceHolds s q.die row then [] else route home q.die

/-- The way of a written row to its home die. -/
def outRoute (s : State) (q : Rq) (row : Nat) : List (List Nat) :=
  let home := homeDie s (row * 128)
  if q.die = home then [] else route q.die home

/-- A row's two flits still go by the partition's F channel of a port. -/
def lnkFree (r : PartRes) (n : Nat) : Bool :=
  let v := nth r.lnk n 0
  fld v 7 0 != 0 && decide (nth r.lnkF n 0 + 2 ≤ fld v 47 32)

/-- A port serves a partition: its F channel within FCAP, else its general channel (R374, log 7). -/
def portServes (s : State) (q : Rq) (n : Nat) : Bool :=
  let r := (getPart s q.part).res
  (q.cls == 0 && lnkFree r n) || fld (nth r.lnk n 0) 15 8 != 0

/-- Every hop of a way has a port with service. -/
def wayOpen (s : State) (q : Rq) (way : List (List Nat)) : Bool := way.all fun h => h.any (portServes s q)

/-- The flits of a row, charged to the F channels that carry them. -/
def useLinks (s : State) (q : Rq) (way : List (List Nat)) : State :=
  if q.cls = 0 then
    way.foldl (fun s h => modPR s q.part fun r => match h.find? (lnkFree r) with
      | some n => { r with lnkF := setNth r.lnkF n (nth r.lnkF n 0 + 2) }
      | none => r) s
  else s

/-- A row written from a die: an access of its region, charged to the links on its way and, where the home slice does not hold the row, to its stack (R239, R242, R374, log 7). -/
def noteWrite (s : State) (q : Rq) (row : Nat) : State :=
  let home := homeDie s (row * 128)
  let s := useLinks (noteAcc s q.die (row * 128)) q (outRoute s q row)
  if sliceHolds s home row then s else useStack s q home

/-- A core's ownership of a line ends with another requester's read of it: the line stays as a clean copy (R220). -/
def shareLine (s : State) (row : Nat) : State :=
  if (dirOf s row).owner.isSome then
    setDir { s with side := { s.side with l1 := s.side.l1.map fun l => if l.row = row ∧ l.coh ≠ 0 then { l with dirty := false, own := false } else l } }
      { dirOf s row with owner := none }
  else s

/-- A row fetched by a requester past its L1 (R221, R229): its own die's slice, the home slice, the home stack; the slices fill as class and degree allow; the epoch counts and the partition's counters move (R233, R236, R238). -/
def fetchRow (s : State) (q : Rq) (coh row : Nat) : State :=
  let pa := row * 128
  let home := homeDie s pa
  let s := noteAcc (if coh = 0 then s else shareLine s row) q.die pa
  if q.die ≠ home ∧ sliceHolds s q.die row then
    let s := modRegion s (pa / 2 ^ 21) fun r => { r with hits := r.hits + 1 }
    modPM s q.part fun m => { m with replHit := bump m.replHit }
  else
    let s := useLinks s q (rowRoute s q row)
    let s := if sliceHolds s home row then s else (fillSlice (useStack s q home) q home row).1
    if q.die = home ∨ 8 ≤ q.die then s
    else if inDegree (regionOf s (pa / 2 ^ 21)).deg home q.die then
      if coh = 0 then s
      else match fillSlice s q q.die row with
        | (s, true) => modPM (nameDie s row q.die) q.part fun m => { m with replFill := bump m.replFill }
        | (s, false) => s
    else modRegion s (pa / 2 ^ 21) fun r => { r with missr := r.missr + 1 }

/-! ### Writes of device memory -/

def poisonedRow (s : State) (row : Nat) : Bool :=
  s.side.poison.contains row || (s.side.lost.contains (row / 2 ^ 14) && !s.side.healed.contains row)

/-- Rows marked poisoned. -/
def addPoison (s : State) (rows : List Nat) : State :=
  { s with side := { s.side with
    poison := (rows.filter fun r => !poisonedRow s r).eraseDups ++ s.side.poison } }

/-- Marks cleared by whole-row writes. -/
def clearPoison (s : State) (rows : List Nat) : State :=
  { s with side := { s.side with
    poison := s.side.poison.filter fun r => !rows.contains r
    healed := (rows.filter fun r => s.side.lost.contains (r / 2 ^ 14) && !s.side.healed.contains r).eraseDups ++ s.side.healed } }


/-- No task: the writer of an update that belongs to no core. -/
def noUid : Nat := 2 ^ 64

/-- The dirty log of the owner notes the frames of n bytes from an address (R337). -/
def logSpan (s : State) (pa n : Nat) : State :=
  match ownerOf s pa with
  | some p =>
    if bitAt (getPart s p).sch.dlog 0 then
      let frames := (List.range ((pa + n - 1) / 4096 + 1 - pa / 4096)).map fun k => pa / 4096 + k
      modPS s p fun q => { q with dirtyFrames := (frames.filter fun f => !q.dirtyFrames.contains f) ++ q.dirtyFrames }
    else s
  | none => s

/-- The shadow block of a mirrored block (R366). -/
def shadowBlock (s : State) (blk : Nat) : Option Nat :=
  s.parts.findSome? fun q => (q.res.pairs.find? fun b => b.1 == blk).map Prod.snd

/-- A row of a mirrored block copied to its shadow block. -/
def copyShadow (s : State) (sb row : Nat) : State :=
  let pa := sb * 2 ^ 31 + row % 2 ^ 24 * 128
  logSpan { s with mem := writeRow s.mem pa (readRow s.mem (row * 128)) } pa 128

/-- After a write of a mirrored row (R368): a class F writer's rows wait for its mirror point, at most 65,536 of them; another agent's write reaches the shadow at once. -/
def mirrorRow (s : State) (writer : Option Nat) (sb row : Nat) : State :=
  match writer.bind (findTask s) with
  | some t =>
    if t.info.cls = 0 then
      if s.mir.written.contains (t.uid, row) then s
      else if (s.mir.written.filter fun w => w.1 == t.uid).length < 65536 then
        { s with mir := { s.mir with written := (t.uid, row) :: s.mir.written } }
      else modInst (copyShadow s sb row) t.info.inst fun i => { i with unreplayable := true }
    else copyShadow s sb row
  | none => copyShadow s sb row

/-- The heap's bounds in force (R211). -/
def heapLo (q : Part) : Nat := fld q.mem.hbase 56 21 * 2 ^ 21
def heapHi (q : Part) : Nat := fld q.mem.hlim 56 21 * 2 ^ 21

/-- PA := (VA + OFF · 2^21) mod 2^52 (R213). -/
def heapPa (q : Part) (va : Nat) : Nat := (va + fld q.mem.hoff 63 21 * 2 ^ 21) % 2 ^ 52

/-- The key slot under which a partition reaches a row now: its heap's, that of a page it has translated, its inbound aperture's; 0 for none (R401, log 37). -/
def keySlot (s : State) (p row : Nat) : Nat :=
  let q := getPart s p
  let a := row * 128
  if heapLo q < heapHi q ∧ heapPa q (heapLo q) ≤ a ∧ a < heapPa q (heapLo q) + (heapHi q - heapLo q) then fld q.mem.hattr 21 15
  else match s.side.tlb.find? fun e => e.part == p && decide (e.pbase ≤ a) && decide (a < e.pbase + e.size) with
    | some e => fld e.ent 103 97
    | none => if fld q.mem.inbase 36 18 * 2 ^ 21 ≤ a ∧ a < fld q.mem.inbase 36 18 * 2 ^ 21 + 2 ^ 36 then fld q.mem.inbase 6 0 else 0

/-- A write under a key slot leaves its mark on the rows. -/
def noteKey (s : State) (pa n : Nat) : State :=
  let lo := pa / 128
  let c := (pa + n - 1) / 128 + 1 - lo
  let k := (ownerOf s pa).elim 0 fun p => keySlot s p lo
  if k = 0 ∧ s.side.keyed = [] then s
  else { s with side := { s.side with keyed := (lo, c, k) :: s.side.keyed.filter fun e => !(decide (lo ≤ e.1) && decide (e.1 + e.2.1 ≤ lo + c)) } }

/-- What follows from a write of n bytes of device memory: its key's mark, the dirty log, the shadow of every row. -/
def afterWrite (s : State) (writer : Option Nat) (pa n : Nat) : State :=
  let s := logSpan (noteKey s pa n) pa n
  match shadowBlock s (pa / 2 ^ 31) with
  | none => s
  | some sb => ((List.range ((pa + n - 1) / 128 + 1 - pa / 128)).map fun k => pa / 128 + k).foldl (fun s r => mirrorRow s writer sb r) s

/-- A write of n bytes of device memory by an agent: the bytes, then what follows from them. `wr` is the change of memory. -/
def writeDev (s : State) (writer : Option Nat) (pa n : Nat) (wr : List Host.Cell → List Host.Cell) : State :=
  afterWrite { s with mem := wr s.mem } writer pa n

/-- A write of several stored rows at once. -/
def writeRows (s : State) (writer : Option Nat) (rows : List Nat) (wr : List Host.Cell → List Host.Cell) : State :=
  rows.foldl (fun s r => afterWrite s writer (r * 128) 128) { s with mem := wr s.mem }

/-! ### Bound rows of shared pages (R227) -/

/-- A physical row that a target stands for, the first of its stripe for a packed page. -/
def physRow : Target → Nat
  | .glob _ pa _ fmt base _ => match packedOf fmt with
    | some k => (stripeOf k base (pa / 128)).1 / 128
    | none => pa / 128
  | _ => 0

/-- The stored rows that a target's row lies in. -/
def rowsOf : Target → List Nat
  | .glob _ pa _ fmt base _ => match packedOf fmt with
    | some k => touchRows k base (pa / 128)
    | none => [pa / 128]
  | _ => []

/-- Whether a bound row of a read-shared or coherent page stands for a physical row (R227). -/
def stashHit (r : StashRow) (row : Nat) : Bool := match r.src with
  | .glob va pa coh fmt base bad => coh != 0 && (rowsOf (.glob va pa coh fmt base bad)).contains row
  | _ => false

/-- A row's identity: local plate, physical row, logical row of a packed page, I/O row. -/
abbrev RowKey := Nat × Nat × Nat

def keysOf : Target → List RowKey
  | .plate r => [(0, 0, r)]
  | .glob _ pa _ fmt base _ => if (packedOf fmt).isSome then [(2, base, pa / 128)] else [(1, 0, pa / 128)]
  | .io .. => [(3, 0, 0)]
  | .stash _ r src => (0, 0, r) :: keysOf src

/-- The bound rows that stay at a write: by task and row. -/
abbrev Keep := Nat → StashRow → Bool

def keepNone : Keep := fun _ _ => false

/-- At a write by a task of one bound row of its: that row. -/
def keepRow (uid : Nat) (row : Option Nat) : Keep := fun u r => u == uid && row == some r.row

/-- At a task's own write through a bound row of its: that row, and its rows of the same stripe that are other logical rows (R65, R227). -/
def keepOwn (uid : Nat) (row : Option Nat) (tgt : Target) : Keep := fun u r =>
  u == uid && (row == some r.row || !((keysOf r.src).any fun k => (keysOf tgt).contains k))

/-- A bound row's data put into memory; a packed page re-encodes it. -/
def putBound (m : List Host.Cell) (src : Target) (x : Row) : List Host.Cell := match src with
  | .glob _ pa _ fmt base _ => match packedOf fmt with
    | some k => putPacked false m k base (pa / 128) fun j => some (laneN x 16 j)
    | none => writeRow m pa x
  | _ => m

/-- Dirty bound rows that stand for a row, with their data and their tasks, but for those that stay. -/
def dirtyBound (s : State) (row : Nat) (keep : Keep) : List (Nat × StashRow × Row) :=
  (allTasks s).flatMap fun t =>
    (t.stashRows.filter fun r => r.dirty && stashHit r row && !keep t.uid r).map fun r => (t.uid, r, sget t.plates r.row)

/-- Memory as coherent readers see a row: a dirty bound row of a coherent page is where its data stands (R227). -/
def cohMem (s : State) (row : Nat) : List Host.Cell :=
  (dirtyBound s row keepNone).foldl (fun m e => putBound m e.2.1.src e.2.2) s.mem

/-- The row of an operation that a task's plates hold: a plate row, bound or not. -/
def localRow : Target → Option Nat
  | .plate r => some r
  | .stash _ r _ => some r
  | _ => none

/-- n bytes of one row, read coherently. -/
def readCoh (s : State) (pa n : Nat) : Nat := readN (cohMem s (pa / 128)) pa n

/-! ### Stash lookups (R225 to R227) -/

/-- The stash entry that binds a plate. -/
def stashOfPlate (t : Task) (p : Nat) : Option Nat :=
  (List.range 16).find? fun e =>
    let x := nth t.stash e StashEntry.empty
    x.valid && decide (x.first ≤ p) && decide (p < x.first + x.count)

/-- Bound rows become EMPTY: their plate rows, while an entry still binds them, read as zero when next unbound (R227, R275). -/
def emptyRows (t : Task) (gone : StashRow → Bool) : Task :=
  { t with
    stashRows := t.stashRows.filter fun r => !gone r
    dirty := touchUnits t.dirty ((t.stashRows.filter gone).map fun r => unitRow r.row)
    plates := ((t.stashRows.filter gone).filter fun r => (stashOfPlate t (r.row / 128)).isSome).foldl (fun m r => sset m r.row 0) t.plates
    platePoison := t.platePoison.filter fun k => !((t.stashRows.filter gone).any fun r => r.row == k && (stashOfPlate t (r.row / 128)).isSome) }

/-- Bound rows that a write takes away (R227): written back where dirty, then EMPTY. -/
def evictStash (s : State) (row : Nat) (keep : Keep) : State :=
  let s := (dirtyBound s row keep).foldl (fun s e => writeRows s (some e.1) (rowsOf e.2.1.src) fun m => putBound m e.2.1.src e.2.2) s
  modAllTasks s fun t =>
    let gone := fun r => stashHit r row && !keep t.uid r
    if t.stashRows.any gone then emptyRows t gone else t

/-! ### Collapse (R234) -/

/-- A copy of a row on a die other than the writer's: a replica, an L1's, a bound row's. -/
def copyElsewhere (s : State) (die row : Nat) : Bool :=
  (s.side.slices.any fun l => l.row == row && l.die != homeDie s (row * 128) && l.die != die)
    || (s.side.l1.any fun l => l.row == row && l.coh != 0 && l.core / 64 != die)
    || (allTasks s).any fun t => dieOf t != die && t.stashRows.any fun r => stashHit r row

/-- Replicas of a row go. -/
def dropReplica (s : State) (row : Nat) : State :=
  { s with side := { s.side with slices := s.side.slices.filter fun l => !(l.row == row && l.die != homeDie s (row * 128)) } }

/-- Collapse of a row before a write by `die` (R234): every copy beside the home goes, a dirty bound row written back first, and the counters move (R236, R238). `keep` names the bound rows that stay, with their owner. -/
def collapse (s : State) (p : Nat) (die : Nat) (row : Nat) (keep : Keep) : State :=
  let far := copyElsewhere s die row
  let s := dropReplica (evictStash s row keep) row
  let s := { s with side := { s.side with l1 := s.side.l1.filter fun l => !(l.row == row && l.coh != 0) } }
  let s := modRegion s (row / 2 ^ 14) fun r => { r with coll := r.coll + 1 }
  let s := if far then modPM s p fun q => { q with replColl := bump q.replColl } else s
  setDir s { row := row, dies := 0, owner := none }

/-- Rows collapsed for the write of an agent that is on no compute die; each is a row access (R239). -/
def collapseFor (s : State) (q : Rq) (rows : List Nat) : State :=
  rows.foldl (fun s r => collapse (noteWrite s q r) q.part (homeDie s (r * 128)) r keepNone) s

/-- n bytes written by the device at a physical address of device memory, visible at device scope: copies collapse first. -/
def devicePut (s : State) (part pa n x : Nat) : State :=
  let rows := (List.range ((pa + n - 1) / 128 + 1 - pa / 128)).map fun k => pa / 128 + k
  writeDev (collapseFor s (rqDevice part) rows) none pa n fun m => writeN m pa n x

/-! ### The page walk (R214 to R218) -/

/-- Step 3 of R217 on one entry at a level: a reserved field, a leaf out of place, a size or class out of range, a misaligned frame. -/
def entryBad (lvl : Nat) (ent : BitVec 128) (va : Nat) : Bool :=
  let leaf := bitAt ent 1
  let sz := fld ent 94 92
  let frame := fld ent 51 12
  if !leaf then
    lvl == 0 || fld ent 63 52 != 0 || fld ent 11 2 != 0 || bitAt ent 12
  else
    fld ent 127 116 != 0 || fld ent 85 52 != 0 || fld ent 11 2 != 0 || fld ent 96 95 == 3
      || (match lvl with
          | 2 => !(sz == 3 || sz == 4)
          | 1 => !(sz == 2)
          | 0 => !(sz == 0 || sz == 1)
          | _ => true)
      || (match sz with
          | 1 => (frame + 16 - va / 2 ^ 12 % 16) % 16 != 0
          | 2 => frame % 2 ^ 9 != 0
          | 3 => frame % 2 ^ 18 != 0
          | 4 => frame % 2 ^ 18 != 0 || (frame / 2 ^ 18 + 32 - va / 2 ^ 30 % 32) % 32 != 0
          | _ => false)

/-- Bytes of a page by its size code (R215). -/
def pageBytes (sz : Nat) : Nat := match sz with
  | 0 => 2 ^ 12 | 1 => 2 ^ 16 | 2 => 2 ^ 21 | 3 => 2 ^ 30 | _ => 2 ^ 35

/-- The walk from a table at `lvl` down: the first failing entry's cause, or the leaf entry and its address. Entries are read coherently. Tables lie in the partition's own blocks (log 14). -/
def walk (s : State) (q : Part) (va : Nat) : Nat → Nat → Except Cause (BitVec 128 × Nat)
  | lvl, table =>
    let a := table + va / 2 ^ (12 + 9 * lvl) % 512 * 16
    let ent := BitVec.ofNat 128 (readCoh s a 16)
    if !(isDevice a && ownsPa q a) then .error .prot
    else if !bitAt ent 0 then .error .pageFault
    else if entryBad lvl ent va then .error .prot
    else if bitAt ent 1 then .ok (ent, a)
    else match lvl with
      | 0 => .error .prot
      | l + 1 => walk s q va l (fld ent 51 13 * 2 ^ 13)

/-- What an entry maps, from the address that it was read for: the base frame, the virtual base, the size (R216). -/
def pageOf (ent : BitVec 128) (va : Nat) : Nat × Nat × Nat :=
  let n := pageBytes (fld ent 94 92)
  let piece := match fld ent 94 92 with
    | 1 => va / 2 ^ 12 % 16 * 2 ^ 12
    | 4 => va / 2 ^ 30 % 32 * 2 ^ 30
    | _ => 0
  (fld ent 51 12 * 4096 - piece, va / n * n, n)

/-- The stored rows of a packed page's logical row lie where the partition may reach them (R64, R210). -/
def storedOk (q : Part) (fmt base off : Nat) : Bool :=
  (packedOf fmt).all fun k => (touchRows k base (off / 128)).all fun r => frameOk q (r * 128)

/-- Steps 4 to 7 of R217 on a leaf entry, for byte `off` of the page at `base`. -/
def leafCheck (q : Part) (a : Acc) (ent : BitVec 128) (base off : Nat) : Option Cause :=
  let pa := base + off
  let key := fld ent 103 97
  let coh := fld ent 96 95
  let fmt := fld ent 115 110
  let io := pa / 2 ^ 51 = 1
  if fld ent 109 104 != q.id || !frameOk q pa || (!io && !storedOk q fmt base off)
      || (!io && (key == 0 || !q.res.keys.contains key))
      || (io && (key != 0 || coh != 0 || fmt != 0 || a.atom)) then some .prot
  else if (a.rd && !bitAt ent 86) || (a.wr && !bitAt ent 87) || (a.ex && !bitAt ent 88) then some .prot
  else if a.region then none
  else if fmtReserved fmt || ((packedOf fmt).isSome && fld ent 94 92 == 0) then some .format
  else if a.task && a.wr && coh == 1 then some .prot
  else none

/-- The target of a checked access. Of a packed page `pa` is the byte offset in the logical view and `base` the frame (R64). -/
def targetOf (va pa coh fmt base off : Nat) (poisoned : Bool) : Target :=
  if pa / 2 ^ 51 = 1 then .io va pa
  else if (packedOf fmt).isSome then .glob va off coh fmt base poisoned
  else .glob va pa coh fmt base poisoned

def tlbHit (s : State) (p va : Nat) : Option TlbEntry :=
  s.side.tlb.find? fun e => e.part == p && decide (e.vbase ≤ va) && decide (va < e.vbase + e.size)

/-- The entry as the device updates it: A at the fill, D before the first write (R218). -/
def adBits (ent : BitVec 128) (wr : Bool) : BitVec 128 :=
  ent ||| BitVec.ofNat 128 (2 ^ 89) ||| (if wr then BitVec.ofNat 128 (2 ^ 90) else 0)

/-- The device's update of an entry, an atomic one at device scope (R218). -/
def putEntry (s : State) (q : Part) (entPa : Nat) (ent : BitVec 128) : State := devicePut s q.id entPa 16 ent.toNat

/-- A paged translation through the TLB; a fill only when every check passes (log 9). The entry in memory is updated only where it still holds what was read; otherwise the access walks again. -/
def translatePaged (s : State) (q : Part) (a : Acc) (va : Nat) : Except Cause (State × Target) :=
  if !bitAt q.mem.ptroot 0 then .error .prot
  else
    let wr := a.wr && !a.region
    let cached := (tlbHit s q.id va).filter fun e => !(wr && !bitAt e.ent 90 && decide (readCoh s e.entPa 16 ≠ e.ent.toNat))
    let found : Except Cause TlbEntry := match cached with
      | some e => .ok e
      | none => match walk s q va 4 (fld q.mem.ptroot 51 13 * 2 ^ 13) with
        | .error c => .error c
        | .ok (ent, entPa) =>
          let (base, vbase, size) := pageOf ent va
          .ok { part := q.id, vbase := vbase, size := size, pbase := base, ent := ent, entPa := entPa }
    match found with
    | .error c => .error c
    | .ok e =>
      let off := va - e.vbase
      match leafCheck q a e.ent e.pbase off with
      | some c => .error c
      | none =>
        let ent := adBits e.ent wr
        let s := if ent = e.ent then s else putEntry s q e.entPa ent
        let s := if ent = e.ent ∧ cached.isSome then s
          else { s with side := { s.side with tlb :=
            { e with ent := ent } :: s.side.tlb.filter fun x => !(x.part == q.id && x.vbase == e.vbase) } }
        .ok (s, targetOf va (e.pbase + off) (fld e.ent 96 95) (fld e.ent 115 110) e.pbase off (bitAt e.ent 91))

def translateHeap (s : State) (q : Part) (a : Acc) (va : Nat) : Except Cause (State × Target) :=
  let at_ := q.mem.hattr
  let pa := heapPa q va
  let coh := fld at_ 14 13
  if !frameOk q pa then .error .prot
  else if ((a.rd || a.ex) && !bitAt at_ 0) || (a.wr && !bitAt at_ 1) then .error .prot
  else if !a.region && a.task && a.wr && coh == 1 then .error .prot
  else .ok (s, targetOf va pa coh (fld at_ 12 7) pa 0 false)

/-- A global address of a partition (R208): heap, else paged. -/
def translate (s : State) (p : Nat) (a : Acc) (va : Nat) : Except Cause (State × Target) :=
  let q := getPart s p
  let va := va % 2 ^ 57
  if heapLo q ≤ va ∧ va < heapHi q then translateHeap s q a va else translatePaged s q a va

/-- The local window: bits [56:21] all ones (R111). -/
def isLocal (va : Nat) : Bool := va % 2 ^ 57 / 2 ^ 21 == 2 ^ 36 - 1

/-- The plate row that holds a virtual row, if one is bound. -/
def stashOfVa (t : Task) (va : Nat) : Option (Nat × Nat) :=
  (List.range 16).findSome? fun e =>
    let x := nth t.stash e StashEntry.empty
    if x.valid && decide (x.vbase ≤ va) && decide (va < x.vbase + x.count * 16384) then
      some (e, x.first * 128 + (va - x.vbase) / 128)
    else none

/-- The virtual row bound to a plate row (R225). -/
def stashVa (x : StashEntry) (row : Nat) : Nat := x.vbase + (row - x.first * 128) * 128

/-- The plates from `first`, `count` of them, as bits. -/
def plateBits (first count : Nat) : BitVec 128 := BitVec.ofNat 128 ((2 ^ count - 1) * 2 ^ first)

/-- Owner bits with a pending own in effect. -/
def ownedBy (o : BitVec 128) : MemKind → BitVec 128
  | .own true f c => o ||| plateBits f c
  | .own false f c => o &&& ~~~ plateBits f c
  | _ => o

/-- The owners that a trigger meets: an own triggered earlier counts although it has not issued (R277). -/
def ownersAt (t : Task) : BitVec 128 :=
  let o := t.memq.foldl (fun o e => ownedBy o e.kind) t.owners
  (t.spec.buf.filter fun e => e.1 == iterOf t).foldl (fun o e => ownedBy o e.2.kind) o

/-- The address that a fault of an access names: through a bound row's local address, the virtual row (R227). -/
def faultVa (t : Task) (va : Nat) : Nat :=
  let va := va % 2 ^ 57
  if isLocal va then
    let row := va % 2 ^ 21 / 128
    match stashOfPlate t (row / 128) with
    | some e => stashVa (nth t.stash e StashEntry.empty) row
    | none => va
  else va

/-- The virtual row of a target, 0 for one that has none. -/
def srcVa : Target → Nat
  | .glob va _ _ _ _ _ => va
  | .stash _ _ src => srcVa src
  | .io va _ => va
  | .plate _ => 0

/-- What a plate row holds for its binding: nothing yet where an earlier binding's row has still to be written back. -/
def boundTo (t : Task) (x : StashEntry) (row : Nat) : Option StashRow :=
  t.stashRows.find? fun r => r.row == row && srcVa r.src / 128 == stashVa x row / 128

/-- The check that a bound row's access makes (R217, R227, log 13): EMPTY rows are checked as the global access that will fill them, and a store to a row that is not DIRTY yet as a store, which sets the page's D (R218). -/
def bindCheck (s : State) (a : Acc) (e row : Nat) : Except Cause (State × Target) :=
  let x := nth s.task.stash e StashEntry.empty
  if a.wr && !x.wb then .error .prot
  else
    let go := fun (src : Option Target) => match translate s s.task.info.part { a with atom := false, rd := true } (stashVa x row) with
      | .error c => .error c
      | .ok (s, t) => .ok (s, Target.stash e row (src.getD t))
    match boundTo s.task x row with
    | some r => if a.wr && !r.dirty then go (some r.src) else .ok (s, .stash e row r.src)
    | none => go none

/-- A task's access to one address (R111, R112, R227): local rows, bound rows, global rows. -/
def resolve (s : State) (a : Acc) (va0 : Nat) : Except Cause (State × Target) :=
  let t := s.task
  let va := va0 % 2 ^ 57
  if isLocal va then
    let row := va % 2 ^ 21 / 128
    if bitAt (ownersAt t) (row / 128) then .error .owner
    else match stashOfPlate t (row / 128) with
      | some e => bindCheck s a e row
      | none => .ok (s, .plate row)
  else match stashOfVa t va with
    | some (e, row) => bindCheck s a e row
    | none => translate s t.info.part a va

/-! ### The L1 (R220 to R222) -/

/-- The line a row has in an L1. -/
def l1Find (s : State) (core row : Nat) : Option L1Line := s.side.l1.find? fun l => l.core == core && l.row == row

/-- The set of a row in an L1 of 512 sets (log 10). -/
def l1Set (row : Nat) : Nat := row % 512

/-- The tree bits after a use of a way: each node on its path points away from it (R221, log 10). -/
def plruTouch (b : BitVec 7) (w : Nat) : BitVec 7 :=
  let put := fun (x n : Nat) (v : Bool) => x - x / 2 ^ n % 2 * 2 ^ n + b2n v * 2 ^ n
  BitVec.ofNat 7 (put (put (put b.toNat 0 (decide (w < 4))) (1 + w / 4) (decide (w % 4 < 2))) (3 + w / 2) (w % 2 == 0))

/-- The way that the tree bits point at. -/
def plruVictim (b : BitVec 7) : Nat :=
  let x := b2n (bitAt b 0)
  let y := b2n (bitAt b (1 + x))
  4 * x + 2 * y + b2n (bitAt b (3 + 2 * x + y))

/-- A use of a line. -/
def l1Touch (s : State) (l : L1Line) : State :=
  let k := 512 * l.core + l1Set l.row
  { s with side := { s.side with plru := sset s.side.plru k (plruTouch (sget s.side.plru k) l.way) } }

/-- A dirty line goes home: a private one's data is written there, which clears the home's poison mark; a coherent one's stands there already (R221, R222, R244). -/
def writeBack (s : State) (l : L1Line) (writer : Option Nat) : State :=
  if l.dirty ∧ l.coh = 0 then
    let q := { part := (writer.bind (findTask s)).elim 0 fun t => t.info.part, cls := (writer.bind (findTask s)).elim 2 fun t => t.info.cls, die := l.core / 64 : Rq }
    writeDev (clearPoison (noteWrite s q l.row) [l.row]) writer (l.row * 128) 128 fun m => writeRow m (l.row * 128) l.data
  else s

/-- A line leaves its L1: its data goes home, its ownership with it (R221). -/
def l1Evict (s : State) (l : L1Line) (writer : Option Nat) : State :=
  let s := { s with side := { s.side with l1 := s.side.l1.filter fun x => !(x.core == l.core && x.row == l.row) } }
  let s := if l.own then setDir s { dirOf s l.row with owner := none } else s
  writeBack s l writer

/-- A line enters the L1 in its row's set: over its former self, in a free way, or in the way that pseudo-LRU gives up (R221). -/
def l1Put (s : State) (l : L1Line) (writer : Option Nat) : State :=
  let rest := s.side.l1.filter fun x => !(x.core == l.core && x.row == l.row)
  let mine := rest.filter fun x => x.core == l.core && l1Set x.row == l1Set l.row
  let way := match l1Find s l.core l.row, (List.range 8).find? fun w => !(mine.any fun x => x.way == w) with
    | some x, _ => x.way
    | none, some w => w
    | none, none => plruVictim (sget s.side.plru (512 * l.core + l1Set l.row))
  let s := match mine.find? fun x => x.way == way with
    | some x => l1Evict s x writer
    | none => s
  let l := { l with way := way }
  l1Touch { s with side := { s.side with l1 := l :: s.side.l1.filter fun x => !(x.core == l.core && x.row == l.row) } } l

/-- Release at team scope or wider: every dirty private line of a core goes home (R222). -/
def l1Release (s : State) (core : Nat) (writer : Option Nat) : State :=
  let s := (s.side.l1.filter fun l => l.core == core).foldl (fun s l => writeBack s l writer) s
  { s with side := { s.side with l1 := s.side.l1.map fun l => if l.core = core ∧ l.coh = 0 then { l with dirty := false } else l } }

/-- Acquire at team scope or wider: every private line of the core's L1 goes (R222). -/
def l1Acquire (s : State) (core : Nat) : State :=
  { s with side := { s.side with l1 := s.side.l1.filter fun l => !(l.core == core && l.coh == 0) } }

/-- A read of the I/O window (R223): the answer comes from outside; bit 0 of the second block says whether it was a completion error, which lands poisoned. -/
def ioAnswer (s : State) : State × Row × Bool :=
  let n := s.side.ioReads
  ({ s with side := { s.side with ioReads := n + 1 } }, Config.ioRead (2 * n), bitAt (Config.ioRead (2 * n + 1)) 0)

/-- A posted write that leaves the I/O die: address, bytes, data (R223). -/
def ioPost (s : State) (pa n x : Nat) : State := { s with side := { s.side with ioOut := s.side.ioOut ++ [(pa, n, x)] } }

/-- Bytes of a row replaced: lane writes (offset, bytes, value) in ascending order (R118, R250). -/
def patch (d : Row) (ws : List (Nat × Nat × Nat)) : Row :=
  ws.foldl (fun d w =>
    let sh := 8 * w.1
    let n := 8 * w.2.1
    BitVec.ofNat 1024 (d.toNat - d.toNat / 2 ^ sh % 2 ^ n * 2 ^ sh + w.2.2 % 2 ^ n * 2 ^ sh)) d

/-- A row enters the core's L1 by a fetch, unless its line is there (R221). -/
def ensureLine (s : State) (t : Task) (coh row : Nat) : State := match l1Find s (coreNum t) row with
  | some l => l1Touch s l
  | none =>
    let s := fetchRow s (rqOf t) coh row
    let s := l1Put s { core := coreNum t, row := row, way := 0, coh := coh, data := readRow (if coh = 0 then s.mem else cohMem s row) (row * 128)
                       dirty := false, own := false, bad := poisonedRow s row } (some t.uid)
    if coh = 0 then s else nameDie s row (dieOf t)

/-- The row's poison mark as the core finds it: a private line carries the mark of its fill (R244). -/
def coreBad (s : State) (t : Task) (row : Nat) : Bool := match l1Find s (coreNum t) row with
  | some l => if l.coh = 0 then l.bad else poisonedRow s row
  | none => poisonedRow s row

/-- Memory as a core sees some rows: private ones in its L1, others coherently (R222, R248). -/
def coreMem (s : State) (t : Task) (coh : Nat) (rows : List Nat) : List Host.Cell :=
  if coh = 0 then rows.foldl (fun m r => match l1Find s (coreNum t) r with
    | some l => writeRow m (r * 128) l.data
    | none => m) s.mem
  else cohMem s (rows.headD 0)

/-- A row as a core sees it. -/
def coreRow (s : State) (t : Task) (coh row : Nat) : Row :=
  if coh = 0 then (l1Find s (coreNum t) row).elim (readRow s.mem (row * 128)) L1Line.data else readRow (cohMem s row) (row * 128)

/-- A whole row of device memory as the task's core reads it, and whether it is poisoned (R221, R244, R249). -/
def readGlob (s : State) (t : Task) (pa coh fmt base : Nat) (bad : Bool) : State × Row × Bool :=
  match packedOf fmt with
  | some k =>
    let rows := touchRows k base (pa / 128)
    let s := rows.foldl (fun s r => ensureLine s t coh r) s
    (s, packedRow (ver1 t) (coreMem s t coh rows) k base (pa / 128), bad || (packedRows k base (pa / 128)).any (coreBad s t))
  | none =>
    let s := ensureLine s t coh (pa / 128)
    (s, coreRow s t coh (pa / 128), bad || coreBad s t (pa / 128))

/-- Exclusive ownership of a coherent line for a core: held already, where only bound rows at other addresses go; or gained by a collapse, which fetches the line only where part of it is kept and the core does not hold it (R221, R227, R234). -/
def gainLine (s : State) (t : Task) (row : Nat) (whole : Bool) (keep : Keep) : State :=
  if (dirOf s row).owner = some (coreNum t) then evictStash s row keep
  else
    let s := if (l1Find s (coreNum t) row).isSome then s
      else if whole then noteWrite s (rqOf t) row
      else fetchRow s (rqOf t) 0 row
    let s := collapse s t.info.part (dieOf t) row keep
    setDir s { row := row, dies := dieBit (dieOf t), owner := some (coreNum t) }

/-- A line that the core has written: dirty, and its own (R221). -/
def ownLine (s : State) (t : Task) (coh row : Nat) (data : Row) : State :=
  l1Put s { core := coreNum t, row := row, way := 0, coh := coh, data := data, dirty := true, own := true, bad := false } (some t.uid)

/-- The elements of a packed row that a list of writes covers. -/
def putOf (ws : List (Nat × Nat × Nat)) (j : Nat) : Option Nat :=
  if ws.any fun w => decide (w.1 ≤ 2 * j) && decide (2 * j < w.1 + w.2.1) then some (laneN (patch 0 ws) 16 j) else none

/-- A write of some or all bytes of a global row by a task (R221, R234, R244, R250). `whole` marks an st of the whole row, which clears a poison mark; a partial write of a poisoned row writes nothing. `bound` is the task's bound row that goes home by it. -/
def writeGlob (s : State) (t : Task) (pa coh fmt base : Nat) (bad whole : Bool) (ws : List (Nat × Nat × Nat)) (bound : Option Nat) : State :=
  match packedOf fmt with
  | some k =>
    let lrow := pa / 128
    let rows := touchRows k base lrow
    if !whole && (bad || (packedRows k base lrow).any (coreBad s t)) then s
    else
      let s := if coh = 0 then rows.foldl (fun s r => ensureLine s t 0 r) s
        else rows.foldl (fun s r => gainLine s t r false (keepOwn t.uid bound (.glob 0 pa coh fmt base bad))) s
      let s := if whole then clearPoison s (packedRows k base lrow) else s
      let m := putPacked (ver1 t) (coreMem s t coh rows) k base lrow (putOf ws)
      let s := if coh = 0 then s else writeRows s (some t.uid) rows fun m => putPacked (ver1 t) m k base lrow (putOf ws)
      rows.foldl (fun s r => ownLine s t coh r (readRow m (r * 128))) s
  | none =>
    let row := pa / 128
    if !whole && (bad || coreBad s t row) then s
    else if coh = 0 then
      let s := if whole || (l1Find s (coreNum t) row).isSome then s else fetchRow s (rqOf t) 0 row
      ownLine s t 0 row (patch (coreRow s t 0 row) ws)
    else
      let s := gainLine s t row whole (keepRow t.uid bound)
      let d := patch (readRow s.mem (row * 128)) ws
      let s := if whole && !bad then clearPoison s [row] else s
      let s := writeDev s (some t.uid) (row * 128) 128 fun m => writeRow m (row * 128) d
      ownLine s t coh row d

/-- Many bytes of device memory through a partition's translation, row by row, for the device's own readers (R178, R270): the bytes as a number, or the address whose read failed. Poisoned data fails too. -/
def readVirt (s : State) (p : Nat) (a : Acc) : Nat → Nat → Except Nat Nat
  | _, 0 => .ok 0
  | va, n + 1 =>
    match translate s p a va with
    | .error _ => .error va
    | .ok (_, .glob _ pa _ fmt base bad) =>
      match packedOf fmt with
      | some k => if bad || (packedRows k base (pa / 128)).any (poisonedRow s) then .error va
        else match readVirt s p a (va + 1) n with
          | .error e => .error e
          | .ok x => .ok (laneN (packedRow (partVer1 s p) (cohMem s ((touchRows k base (pa / 128)).headD 0)) k base (pa / 128)) 8 (pa % 128) + 256 * x)
      | none =>
        if bad || poisonedRow s (pa / 128) then .error va
        else match readVirt s p a (va + 1) n with
          | .error e => .error e
          | .ok x => .ok (byteAt (cohMem s (pa / 128)) pa + 256 * x)
    | .ok _ => .error va

/-- A word of device memory that the device writes, visible at device scope (R180, R298): n bytes of one row at a virtual address, which a packed page re-encodes (R65, R66); an address that does not translate is left alone. -/
def writeVirt (s : State) (p va n x : Nat) : State :=
  match translate s p { rd := false, wr := true, task := false } va with
  | .ok (s, .glob va pa coh fmt base bad) =>
    match packedOf fmt with
    | some k =>
      let rows := rowsOf (.glob va pa coh fmt base bad)
      let s := if coh = 0 then s else collapseFor s (rqDevice p) rows
      writeRows s none rows fun m => putPacked (partVer1 s p) m k base (pa / 128) fun j =>
        if pa % 128 < 2 * j + 2 ∧ 2 * j < pa % 128 + n then
          some (laneN (patch (packedRow (partVer1 s p) m k base (pa / 128)) [(pa % 128, n, x)]) 16 j) else none
    | none => if coh = 0 then writeDev s none pa n fun m => writeN m pa n x else devicePut s p pa n x
  | .ok (s, .io _ pa) => ioPost s pa n x
  | _ => s

/-- A die of a mirror pair whose next heartbeat, due every 10 µs, has not come (R369, R370). -/
def silentDie (s : State) (d : Nat) : Bool :=
  let p := nth s.mir.pairs (d / 2) Pair.reset
  (p.state == 0 || p.state == 2) && (s.mir.mute.contains d || decide (nth p.hbAt (d % 2) 0 + 10000 < s.clk.ftime))

/-- An access from a die, 8 for none, to a region that is being exchanged, or to a line homed on another die that is silent, or lost and not taken over, or being reset, waits (R239, R336, R370). -/
def rowWaits (s : State) (die pa : Nat) : Bool :=
  let n := pa / 2 ^ 21
  (s.parts.any fun q => q.mem.exchange.elim false fun x => x.1 == n || x.2.1 == n)
    || (let d := (regionOf s n).home
        let p := nth s.mir.pairs (d / 2) Pair.reset
        (!p.taken && p.isolated == some d) || (d != die && silentDie s d)
          || (fld s.sched.dierst 5 4 == 2 && fld s.sched.dierst 2 0 == d && p.isolated != some d))

/-- n bytes at a physical address that the device, a host or a peer cannot have now. -/
def physWaits (s : State) (pa n : Nat) : Bool :=
  isDevice pa && (List.range ((pa + n - 1) / 128 + 1 - pa / 128)).any fun k => rowWaits s 8 ((pa / 128 + k) * 128)

/-- n bytes at a virtual address that the device cannot have now. -/
def virtWaits (s : State) (p : Nat) (a : Acc) (va n : Nat) : Bool :=
  (List.range ((va + n - 1) / 128 + 1 - va / 128)).any fun k => match translate s p a ((va / 128 + k) * 128) with
    | .ok (_, .glob va pa coh fmt base bad) => (rowsOf (.glob va pa coh fmt base bad)).any fun r => rowWaits s 8 (r * 128)
    | _ => false

/-- n bytes that the device writes at a physical address, visible at device scope: device memory, or the I/O window. -/
def writePhys (s : State) (part pa n x : Nat) : State :=
  if pa / 2 ^ 51 = 1 then ioPost s pa n x
  else if isDevice pa then devicePut s part pa n x
  else s

/-! ### Barriers that end a wait -/

/-- An acquire at team scope or wider by a task on its core: its dirty private lines go home, and every private line of the L1 goes (R222, R253). -/
def acquireCore (s : State) (t : Task) : State := l1Acquire (l1Release s (coreNum t) (some t.uid)) (coreNum t)

/-- After a change of barriers: waits that end, each of them an acquire (R259, R303). -/
def thawBwaits (s : State) : State :=
  let woken := (allTasks s).filter fun t => onCore t && thawBwait s t != t
  woken.foldl acquireCore (modAllTasks s (thawBwait s))

/-- A delivery to a task's team; the waiting tasks thaw. -/
def deliverTo (s : State) (i : TaskInfo) (n bytes : Nat) (tag : Bool) : State × Bool :=
  let (b, past) := deliver (getBar s i n) bytes tag
  (thawBwaits (setBar s i n b), past)

end Sys2Proof.Machine
end

