-- ==== Sys2Proof/Machine/Flags.lean ====
section
/-! DEFINITION. Status words and flags: the generator status, the skipping decision, the control registers as csrr reads them, the launch status word, the spawn status word. -/

namespace Sys2Proof.Machine

/-! ### nbv (R73) -/

def nbvExact (nbv : W64) : Bool := bitAt nbv 8

/-- A privileged write takes only VER 1 or 2 with every reserved bit 0; any other leaves nbv as it is. -/
def nbvWrite (old x : W64) : W64 :=
  if fld x 63 9 = 0 ∧ (fld x 7 0 = 1 ∨ fld x 7 0 = 2) then x else old

/-! ### askp (R170) -/

/-- Skipping is decided at the task's start: level L1 or L2 of class S, or the record's askip bit, and native rules without exact mode. -/
def askpOf (cls level : Nat) (askip : Bool) (athr : BitVec 32) (nbv : W64) : W64 :=
  let lvl := if cls = 1 then level % 4 else 0
  let on := ((cls == 1 && (level == 1 || level == 2)) || askip) && !nbvExact nbv && fld nbv 7 0 == 2
  BitVec.ofNat 64 (2 ^ 33 * lvl + 2 ^ 32 * b2n on + athr.toNat)

def askpOn (a : W64) : Bool := bitAt a 32
def askpDelta (a : W64) : Nat := fld a 31 0
def askpLevel (a : W64) : Nat := fld a 34 33

/-! ### Control registers (R313) -/

/-- uist: [24] OVF, [20:16] queued interrupts, [1] in-handler, [0] EN (R305). -/
def uistVal (u : UInt) : W64 :=
  BitVec.ofNat 64 (2 ^ 24 * b2n u.ovf + 2 ^ 16 * (u.queue.length % 32) + 2 * b2n u.inHandler + b2n u.en)

/-- wctr: what remains of wct, 0 at the least. -/
def wctrVal (t : Task) : W64 := BitVec.ofNat 64 (t.info.wct - t.time.wctUsed)

/-- The value that csrr lands for a register number. -/
def csrVal (t : Task) (n : Nat) : W64 := match n with
  | 0 => t.info.nbv
  | 1 => t.time.rngs
  | 2 => t.info.askp
  | 3 => uistVal t.uint
  | 4 => wctrVal t
  | 5 => BitVec.ofNat 64 t.time.nleft
  | 6 => t.time.sysr
  | _ => 0

/-- A write of rngs can only clear RNGSAT (R143). DESIGN CHOICE (log 83): a write with bit 0 = 1 leaves RNGSAT as it is; the rule says what a write of 0 does and no more. -/
def rngsWrite (old x : W64) : W64 := if bitAt x 0 then old else 0

/-- Privileged tasks: vf = 0 (R310). -/
def privileged (i : TaskInfo) : Bool := i.vf == 0

/-! ### Status words -/

/-- Status codes of R203. -/
def stQuota : Nat := 0x01
def stBadrec : Nat := 0x02
def stNoadmit : Nat := 0x03
def stBusy : Nat := 0x04
def stClassf : Nat := 0x05
def stDone : Nat := 0x10
def stFailed : Nat := 0x11

/-- The status word that spawn and spawnd write (R203). -/
def spawnStatus (seq st : Nat) : W64 := BitVec.ofNat 64 (seq % 2 ^ 48 * 2 ^ 16 + st % 256)

/-- An instance status word (R180). -/
def statusWord (donek reason state : Nat) : Nat := donek % 2 ^ 32 * 2 ^ 32 + reason % 256 * 256 + state % 256

end Sys2Proof.Machine
end

