-- ==== Sys2Proof/Machine/Launch.lean ====
section
/-! DEFINITION. Launch records: how the device reads, checks, refuses and admits them, and what a submission leaves (R173 to R205, R269, R270, R286, R287, R326). -/

namespace Sys2Proof.Machine

/-! ### Fields (R177) -/

/-- n bytes at byte offset `off` of a block that was read as one number. -/
def rf (raw off n : Nat) : Nat := raw / 2 ^ (8 * off) % 2 ^ (8 * n)

/-- The first n w-bit digits of a number. -/
def digits (w n x : Nat) : List Nat := (List.range n).map fun i => x / 2 ^ (w * i) % 2 ^ w

def parseLaunch (recAddr raw : Nat) : Launch :=
  let opt := fun (f vbit : Nat) (keep : Nat) => if f / 2 ^ vbit % 2 = 1 then some (f % 2 ^ keep) else none
  { seqno := 0, recAddr := recAddr, part := rf raw 0x64 1 % 64, vf := rf raw 0x65 1 % 64, cls := rf raw 0x5C 1 % 4
    code := rf raw 0x00 8, ftabA := rf raw 0x08 8, data := rf raw 0x10 8, csched := rf raw 0x18 8
    lmapA := rf raw 0x20 8, rgrp := rf raw 0x28 8, release := rf raw 0x30 8, deadline := rf raw 0x38 8
    period := rf raw 0x40 8, wct := rf raw 0x48 4, athr := BitVec.ofNat 32 (rf raw 0x4C 4)
    codelen := rf raw 0x50 2, extX := rf raw 0x52 1, extY := rf raw 0x53 1, extZ := rf raw 0x54 2
    extS := rf raw 0x56 1, bcast := rf raw 0x57 1, ents := (List.range 4).map fun i => rf raw (0x58 + i) 1
    askip := rf raw 0x5C 1 / 4 % 2 == 1, irq := rf raw 0x5C 1 / 8 % 2 == 1
    chanFirst := rf raw 0x5E 1, chanCount := rf raw 0x5F 1
    sess := opt (rf raw 0x60 2) 15 14, dwait := opt (rf raw 0x62 2) 15 12, dnext := opt (rf raw 0x6C 2) 15 12
    qcls := rf raw 0x66 1 % 16, hbmd := rf raw 0x67 1
    arg0 := BitVec.ofNat 64 (rf raw 0x70 8), arg1 := BitVec.ofNat 64 (rf raw 0x78 8) }

/-- The initial count of the dwait counter. -/
def dinitOf (raw : Nat) : Nat := rf raw 0x68 4

/-- Reserved bytes and bits of a record. -/
def reservedSet (raw : Nat) : Bool :=
  rf raw 0x80 112 != 0 || rf raw 0x6E 2 != 0 || rf raw 0x6C 2 / 2 ^ 12 % 8 != 0 || rf raw 0x62 2 / 2 ^ 12 % 8 != 0
    || rf raw 0x66 1 / 16 != 0 || rf raw 0x65 1 / 64 != 0 || rf raw 0x64 1 / 64 != 0 || rf raw 0x60 2 / 2 ^ 14 % 2 != 0
    || rf raw 0x5C 2 / 16 != 0

/-- Why a record is refused: the address whose read failed, and the detail of INFO1 (R178, R287). -/
structure Bad where
  addr : Nat
  info1 : Nat
  deriving DecidableEq, Repr

/-- What a submission reads beside the record. -/
structure Images where
  image : List Bundle
  ftab : List (BitVec 16)
  sched : List (BitVec 512)
  lmap : List (BitVec 256)
  groups : List RedGroup
  deriving DecidableEq, Repr

def bad (info1 : Nat) : Bad := { addr := 0, info1 := info1 }

/-- A read of an image at submission: the first failing address refuses the record. The code and its fragment table are read as code is, from pages with EX = 1 (R215). -/
def readImg (s : State) (p a n : Nat) (acc : Acc := accData) : Except Bad Nat :=
  match readVirt s p acc (a % 2 ^ 57) n with
  | .ok x => .ok x
  | .error e => .error { addr := e, info1 := 0 }

/-- A fragment-table entry that names a bundle (R181). -/
def fragOf (ftab : List (BitVec 16)) (e : Nat) : Option Nat :=
  let x := nth ftab e 0xffff
  if fld x 15 13 = 0 then some (fld x 12 0) else none

/-! ### Copy schedules (R286, R287) -/

def entSpace (e : BitVec 512) (off : Nat) : Nat := fld e (8 * off + 63) (8 * off + 61)

/-- A schedule entry's refusal: its reserved fields, a space code of 5 to 7, BREM without space 2. -/
def entryRefusal (e : BitVec 512) : Option Nat :=
  if bitsOf e (8 * 0x3A) 48 ≠ 0 ∨ bitsOf e (8 * 0x16) 16 ≠ 0 ∨ bitsOf e (8 * 0x39 + 2) 6 ≠ 0 then some 0
  else if 5 ≤ entSpace e 0 ∨ 5 ≤ entSpace e 8 then some 0x15
  else if bitAt e (8 * 0x39 + 1) ∧ entSpace e 8 ≠ 2 then some 0
  else none

/-- The first refused entry: its detail and its number. -/
def schedRefusal (l : List (BitVec 512)) : Option Nat :=
  (List.range l.length).findSome? fun i => (entryRefusal (nth l i 0)).map fun d => d + 2 ^ 16 * (i % 256)

/-- A copy schedule, read and checked (R286). DESIGN CHOICE (log 100): an address that is not a multiple of 64 is read as it is, since R286 gives it no refusal. -/
def readSched (s : State) (p a : Nat) : Except Bad (List (BitVec 512)) :=
  if a = 0 then .ok []
  else match readImg s p a 64 with
    | .error b => .error b
    | .ok h =>
      let n := h % 2 ^ 16
      if n = 0 ∨ 256 < n ∨ h / 2 ^ 16 ≠ 0 then .error (bad 0)
      else match readImg s p (a + 64) (64 * n) with
        | .error b => .error b
        | .ok x =>
          let l := (digits 512 n x).map (BitVec.ofNat 512)
          match schedRefusal l with
          | some d => .error (bad d)
          | none => .ok l

/-! ### Safe-point maps (R326) -/

def lmapBad (e : BitVec 256) : Bool :=
  bitsOf e (8 * 0x14) 96 != 0 || bitsOf e (8 * 0x12 + 13) 3 != 0 || bitsOf e (8 * 0x10) 16 != 0 || bitsOf e (8 * 0x0F + 4) 4 != 0

/-- A map that is not aligned to 16 B refuses the record. -/
def readLmap (s : State) (p a : Nat) : Except Bad (List (BitVec 256)) :=
  if a = 0 then .ok []
  else if a % 16 ≠ 0 then .error (bad 0)
  else match readImg s p a 16 with
    | .error b => .error b
    | .ok h =>
      let n := h % 2 ^ 16
      if 4096 < n ∨ h / 2 ^ 16 ≠ 0 then .error (bad 0)
      else match readImg s p (a + 16) (32 * n) with
        | .error b => .error b
        | .ok x =>
          let l := (digits 256 n x).map (BitVec.ofNat 256)
          if l.any lmapBad then .error (bad 0) else .ok l

/-! ### Reduction groups (R269, R270) -/

def redOpOf (c : Nat) : RedOp := match c with
  | 0 => .add | 1 => .fadd | _ => .fmax

/-- Types that a red form accepts (R268). -/
def redTypeOk (op : RedOp) (ty : Nat) : Bool := match op with
  | .add => decide (ty ≤ 7)
  | _ => decide (10 ≤ ty ∧ ty ≤ 12)

def groupOf (e : Nat) : RedGroup :=
  { addr := rf e 0 8, op := redOpOf (rf e 8 1 / 16 % 4), ty := rf e 8 1 % 16, xmask := rf e 9 1
    yFirst := rf e 0x0A 1, yCount := rf e 0x0B 1, zFirst := rf e 0x0C 2, zCount := rf e 0x0E 2, stg := rf e 0x10 1 % 16 }

def groupBad (lr : Launch) (e : Nat) : Bool :=
  let g := groupOf e
  rf e 0x11 15 != 0 || rf e 0x10 1 / 16 != 0 || rf e 8 1 / 64 != 0 || rf e 8 1 / 16 % 4 == 3 || !redTypeOk g.op g.ty
    || decide (2 ^ 57 ≤ g.addr) || g.addr % (tyWidth g.ty / 8) != 0
    || g.xmask == 0 || g.xmask / 2 ^ lr.extX != 0
    || g.yCount == 0 || decide (64 < g.yCount) || decide (lr.extY < g.yFirst + g.yCount)
    || g.zCount == 0 || decide (4096 < g.zCount) || decide (lr.extZ < g.zFirst + g.zCount)
    || decide (lr.extS ≤ g.stg)

def distinct : List Nat → Bool
  | [] => true
  | a :: t => !t.contains a && distinct t

/-- A launch's reduction-group declaration, read and checked (R269, R270). DESIGN CHOICE (log 100): a pointer that is not aligned to 16 B is read as it is, since R270 lists no such refusal. -/
def readGroups (s : State) (p : Nat) (lr : Launch) : Except Bad (List RedGroup) :=
  if lr.rgrp = 0 then .ok []
  else match readImg s p lr.rgrp 16 with
    | .error b => .error b
    | .ok h =>
      let n := h % 2 ^ 16
      if n = 0 ∨ 256 < n ∨ h / 2 ^ 16 ≠ 0 then .error (bad 0)
      else match readImg s p (lr.rgrp + 16) (32 * n) with
        | .error b => .error b
        | .ok x =>
          let l := digits 256 n x
          if l.any (groupBad lr) || !distinct (l.map fun e => (groupOf e).addr) then .error (bad 0) else .ok (l.map groupOf)

/-! ### The check of a record (R178) -/

/-- A compute die that no release has reached, before phase 2 (R402). -/
def unreleased (s : State) (d : Nat) : Bool := fld s.boot.boot 1 0 != 2 && !bitAt s.boot.boot (12 + d)

/-- Die sets that a broadcast gang may name (R364). One that is not released yet is no bad field but a matter of admission (R402). -/
def diesetOk (s : State) (q : Part) (m : Nat) : Bool :=
  [0x03, 0x0C, 0x30, 0xC0, 0x0F, 0xF0, 0xFF].contains m &&
    (List.range 8).all fun d => m / 2 ^ d % 2 == 0 || unreleased s d || q.res.genClusters.any fun c => c.1 == d

/-- The refusals that the record's own fields give, for a record that function `fn` submits. Only the PF submits for a partition that is not its own: a VF's record names that VF in vf (log 73). -/
def fieldsBad (s : State) (fn : Nat) (lr : Launch) (raw : Nat) : Bool :=
  let rel := if lr.release = 0 then s.clk.ftime else lr.release
  !(decide (1 ≤ lr.extX ∧ lr.extX ≤ 8 ∧ 1 ≤ lr.extY ∧ lr.extY ≤ 64 ∧ 1 ≤ lr.extZ ∧ lr.extZ ≤ 4096 ∧ 1 ≤ lr.extS ∧ lr.extS ≤ 16))
    || decide (lr.codelen = 0 ∨ 8192 < lr.codelen) || lr.wct == 0 || lr.cls == 3 || reservedSet raw
    || (decide (lr.cls ≤ 1) && lr.deadline == 0)
    || (lr.period != 0 && (match lr.sess with
        | some _ => decide (lr.period < lr.deadline)
        | none => decide (rel + lr.period < lr.deadline)))
    || (lr.vf != 0 && lr.part != lr.vf) || (fn != 0 && lr.vf != fn) || !(getPart s lr.part).live
    || decide (128 < lr.chanFirst + lr.chanCount)
    || (lr.bcast != 0 && (lr.cls == 0 || !diesetOk s (getPart s lr.part) lr.bcast))

/-- The images of a record, read in the order fragment table, code, schedule, map, groups, all in the space of the record's partition, which is not the record's own where the PF submits for another partition (log 73). -/
def readImages (s : State) (lr : Launch) : Except Bad Images :=
  match readImg s lr.part lr.ftabA 512 accCode with
  | .error b => .error b
  | .ok ft =>
    let ftab := (digits 16 256 ft).map (BitVec.ofNat 16)
    let used := if lr.cls = 1 then lr.ents else lr.ents.take 1
    if used.any (fun e => e == 255 || (fragOf ftab e).isNone) then .error (bad 0)
    else match readImg s lr.part lr.code (24 * lr.codelen) accCode with
      | .error b => .error b
      | .ok c =>
        match readSched s lr.part lr.csched with
        | .error b => .error b
        | .ok sched =>
          match readLmap s lr.part lr.lmapA with
          | .error b => .error b
          | .ok lmap =>
            match readGroups s lr.part lr with
            | .error b => .error b
            | .ok groups => .ok { image := (digits 192 lr.codelen c).map (BitVec.ofNat 192), ftab := ftab, sched := sched, lmap := lmap, groups := groups }

/-! ### Reads that must wait (R239, R370) -/

/-- A table that waits: its head, and the entries that the head counts. -/
def tableWaits (s : State) (p a head ent : Nat) : Bool :=
  a != 0 && (virtWaits s p accData a head || match readVirt s p accData a head with
    | .ok h => virtWaits s p accData (a + head) (ent * (h % 2 ^ 16))
    | .error _ => false)

/-- Something that a submission reads is where the device cannot read it now: the record in partition `p`, an image in `ip`, which the record names where none is given. The submission waits. -/
def recordWaits (s : State) (p recAddr : Nat) (ip : Option Nat) : Bool :=
  virtWaits s p accData recAddr 256 || match readVirt s p accData recAddr 256 with
    | .ok raw =>
      let lr := parseLaunch recAddr raw
      let q := ip.getD lr.part
      virtWaits s q accCode lr.ftabA 512 || virtWaits s q accCode lr.code (24 * lr.codelen)
        || tableWaits s q lr.csched 64 64 || tableWaits s q lr.lmapA 16 32 || tableWaits s q lr.rgrp 16 32
    | .error _ => false

/-! ### Admission of class F (R194) -/

def ceilDiv (a b : Nat) : Nat := (a + b - 1) / b

/-- D of a launch admitted at `now`: min(d_0 − r_0, period), the period infinite when 0. -/
def launchD (lr : Launch) (now : Nat) : Nat :=
  let d := match lr.sess with
    | some _ => lr.deadline
    | none => lr.deadline - (if lr.release = 0 then now else lr.release)
  if lr.period = 0 then d else min d lr.period

/-- The primary cluster of an F cluster pair: on the even die at grant, on the survivor after a fail-over (R366, R372). -/
def isPrimary (q : Part) (c : Nat × Nat) : Bool :=
  q.res.fPairs.contains (c.1 / 2, c.2) && q.res.fOdd.contains (c.1 / 2, c.2) == (c.1 % 2 == 1)

/-- The clusters reserved to class F of a partition, primary sides, ascending. -/
def fClusters (q : Part) : List (Nat × Nat) := ((List.range 64).map fun n => (n / 8, n % 8)).filter (isPrimary q)

/-- wct, D, codelen and sequence number of each class F team on a cluster. -/
def teamsOn (s : State) (p : Nat) (c : Nat × Nat) : List (Nat × Nat × Nat × Nat) :=
  (s.sched.launches.filter fun l => l.lr.cls == 0 && l.lr.part == p).flatMap fun l =>
    (l.clusters.filter (· == c)).map fun _ => (l.lr.wct, launchD l.lr l.admitted, l.lr.codelen, l.lr.seqno)

/-- Code of the distinct launches of a list of teams. -/
def codeTotal : List (Nat × Nat × Nat × Nat) → Nat
  | [] => 0
  | t :: r => (if r.any (fun u => u.2.2.2 == t.2.2.2) then 0 else t.2.2.1) + codeTotal r

/-- The inequality of R194 on one cluster, each term rounded up to a multiple of 2^−16. -/
def clusterAccepts (blim : Nat) (teams : List (Nat × Nat × Nat × Nat)) : Bool :=
  let sum := (teams.map fun t => ceilDiv ((t.1 + 4000) * 65536) t.2.1).sum
  let dmin := (teams.map fun t => t.2.1).foldl min (teams.headD (0, 0, 0, 0)).2.1
  teams.all (fun t => t.2.1 != 0) && decide (sum + ceilDiv (blim * 65536) dmin ≤ 65536)

/-- The cluster g places further in the package's cluster ring: index order, from one die to the next (R174). -/
def ringNext (c : Nat × Nat) (g : Nat) : Nat × Nat := let n := (8 * c.1 + c.2 + g) % 64; (n / 8, n % 8)

/-- What R174 asks of the next team's cluster, `done` being the clusters of the teams before it in coordinate order: a stage pipeline runs on neighbours of the ring, a gang on one die. A first stage goes only where the later ones have F-reserved neighbours (log 74). -/
def placeOk (lr : Launch) (cl done : List (Nat × Nat)) (c : Nat × Nat) : Bool :=
  let zy := lr.extZ * lr.extY
  let i := done.length
  if zy ≤ i then c == ringNext (nth done (i - zy) (8, 8)) 1
  else (List.range lr.extS).all fun g => cl.contains (ringNext c g)
    && (i % lr.extY == 0 || (ringNext c g).1 == (ringNext (nth done (i - i % lr.extY) (8, 8)) g).1)

/-- First fit, team by team in coordinate order, clusters in index order. -/
def assignTeams (base : Nat × Nat → List (Nat × Nat × Nat × Nat)) (cl : List (Nat × Nat)) (blim : Nat) (lr : Launch)
    (me : Nat × Nat × Nat × Nat) : Nat → List (Nat × Nat) → Option (List (Nat × Nat))
  | 0, acc => some acc.reverse
  | n + 1, acc =>
    match cl.find? fun c => placeOk lr cl acc.reverse c
        && clusterAccepts blim (me :: (base c ++ (acc.filter (· == c)).map fun _ => me)) with
    | some c => assignTeams base cl blim lr me n (c :: acc)
    | none => none

def teamCount (lr : Launch) : Nat := lr.extY * lr.extZ * lr.extS

/-- Class F slots of a partition on a stack (R241). -/
def fSlots (s : State) (stack p : Nat) : Nat :=
  ((nth s.side.hbmActive stack []).filter fun b => fld b 7 6 == 3 && fld b 5 0 == p).length

/-- The hbmd test on every stack that holds a block of the partition. -/
def hbmFits (s : State) (lr : Launch) : Bool :=
  let used := ((s.sched.launches.filter fun l => l.lr.cls == 0 && l.lr.part == lr.part).map fun l => l.lr.hbmd * teamCount l.lr).sum
  lr.hbmd == 0 || (List.range 8).all fun st =>
    !((getPart s lr.part).res.blocks.any fun b => b / 32 == st) || decide (used + lr.hbmd * teamCount lr ≤ fSlots s st lr.part)

/-- The code images of the class F launches on each cluster, this one's with them, fit (R194). -/
def codeFits (s : State) (lr : Launch) (cl : List (Nat × Nat)) : Bool :=
  cl.all fun c => decide (lr.codelen + codeTotal (teamsOn s lr.part c) ≤ 8192)

def admitF (s : State) (lr : Launch) : Option (List (Nat × Nat)) :=
  let q := getPart s lr.part
  if !hbmFits s lr then none
  else (assignTeams (teamsOn s lr.part) (fClusters q) (fld q.sch.blim 31 0) lr
    (lr.wct, launchD lr s.clk.ftime, lr.codelen, 0) (teamCount lr) []).filter (codeFits s lr)

/-- Dies that a launch names and that no release has reached (R402). -/
def namesUnreleased (s : State) (lr : Launch) : Bool :=
  (List.range 8).any fun d => lr.bcast / 2 ^ d % 2 == 1 && unreleased s d

/-! ### Quota (R200) -/

def unitFree (s : State) (p qcls : Nat) : Bool :=
  let q := (getPart s p).sch
  decide (nth q.unitsHeld qcls 0 < fld (nth q.quota qcls 0) 15 0)

def takeUnit (s : State) (p qcls : Nat) : State :=
  modPS s p fun q => { q with unitsHeld := setNth q.unitsHeld qcls (nth q.unitsHeld qcls 0 + 1) }

def freeUnit (s : State) (p qcls : Nat) : State :=
  modPS s p fun q => { q with unitsHeld := setNth q.unitsHeld qcls (nth q.unitsHeld qcls 0 - 1) }

/-- The unit of a launch returns: to its quota class, or to the launch that lent it (R200, R205). -/
def returnUnit (s : State) (l : LaunchState) : State :=
  match l.donor with
  | some d => modLaunch s d fun x => { x with unitLent := false }
  | none => if l.unitHeld then freeUnit s l.lr.part l.lr.qcls else s

/-- No further instance will be released: a one-shot launch after its release, any launch after a cancellation (R190). -/
def noneLeft (l : LaunchState) : Bool := l.cancelled || (l.lr.period == 0 && l.lr.sess.isNone && decide (1 ≤ l.nextK))

/-- The launch ends with its last instance: its unit returns (R184, R200). A launch whose spawnd parent still waits stays until the parent has its status. -/
def retire (s : State) (seq : Nat) : State :=
  match findLaunch s seq with
  | some l =>
    if noneLeft l && l.parent.isNone && (s.sched.insts.all fun i => i.seqno != seq || i.closed) then
      let s := returnUnit s l
      { s with sched := { s.sched with
          launches := s.sched.launches.filter fun l => l.lr.seqno != seq
          insts := s.sched.insts.filter fun i => i.seqno != seq } }
    else s
  | none => s

/-! ### Judging and submitting -/

/-- What becomes of a record that could be read: a status code with its detail, or what admission found. -/
inductive Verdict where
  | refuse (st : Nat) (b : Bad)
  | takes (img : Images) (clusters : List (Nat × Nat))
  deriving DecidableEq, Repr

/-- The checks of R204's order on a record that function `fn` submits, quota aside: BADREC, BUSY, NOADMIT. -/
def judge (s : State) (fn : Nat) (lr : Launch) (raw : Nat) : Verdict :=
  if fieldsBad s fn lr raw then .refuse stBadrec (bad 0)
  else match readImages s lr with
    | .error b => .refuse stBadrec b
    | .ok img =>
      let bound := match lr.dwait with
        | some c => (getPart s lr.part).sch.bound.any fun b => b.1 == c
        | none => false
      if bound then .refuse stBusy (bad 0)
      else if (decide (lr.cls ≤ 1) && !bitAt s.ept.tstat 1) || namesUnreleased s lr then .refuse stNoadmit (bad 0)
      else if lr.cls = 0 then match admitF s lr with
        | some c => .takes img c
        | none => .refuse stNoadmit (bad 0)
      else .takes img []

/-- The status word of a record (R180): 8 bytes at 0xF8. -/
def writeStatus (s : State) (p recAddr donek reason st : Nat) : State :=
  writeVirt s p (recAddr + 0xF8) 8 (statusWord donek reason st)

/-- A refused record: STATE 4 and REASON; a queued one also a terminal-ring record (R178, R287). -/
def refuse (s : State) (p recAddr st : Nat) (b : Bad) (ring : Bool) : State :=
  let s := writeStatus s p recAddr 0 st 4
  if ring then raiseRec s { part := p, kind := 4, cause := st, recAddr := recAddr, addr := b.addr, info1 := b.info1 } false else s

/-- How a launch gets its quota unit (R183, R200, R205). -/
inductive UnitBy where
  | none | own | lent (donor : Nat)
  deriving DecidableEq, Repr

/-- A launch as it is submitted, read in the space of partition `rp`. -/
def newLaunch (s : State) (rp : Nat) (lr : Launch) (img : Images) (clusters : List (Nat × Nat)) : LaunchState :=
  { lr := lr, admitted := s.clk.ftime, level := 0, inEffect := 0, lastChange := none, fromL3 := false
    unitHeld := false, unitLent := false, donor := none
    parent := none, parentDl := none, nextK := 0, lastRelease := 0, cancelled := false, gateOpen := lr.dwait.isNone
    image := img.image, ftab := img.ftab, sched := img.sched, lmap := img.lmap, groups := img.groups
    clusters := clusters, nbv := (getPart s lr.part).nbv, msgs := [], doneK := 0, recPart := rp, missK := 0 }

/-- What a submission does at once (R180, R201): the status word is 0, and the dependence counter is bound to the submission, under its number, with its initial count. A count of 0 unbinds it: the gate is open. -/
def submitRec (s : State) (l : LaunchState) (raw who : Nat) : State :=
  let s := writeStatus s l.recPart l.lr.recAddr 0 0 0
  match l.lr.dwait with
  | some c => modPS s l.lr.part fun q => { q with
      counters := sset (w := 32) q.counters c (BitVec.ofNat 32 (dinitOf raw))
      bound := if dinitOf raw = 0 then q.bound else (c, who) :: q.bound }
  | none => s

/-- Admission (R73, R179, R180, R200): the sequence number, the VER and EXACT of the moment, the unit, seqno and then STATE 1. The counter that the submission bound is the launch's from now on. -/
def admitLaunch (s : State) (l : LaunchState) (who : Nat) (unit : UnitBy) : State × Nat :=
  let seq := s.sched.seq + 1
  let p := l.lr.part
  let waits := (getPart s p).sch.bound.any fun b => b.2 == who
  let l := { l with
    lr := { l.lr with seqno := seq }, admitted := s.clk.ftime, gateOpen := !waits, nbv := (getPart s p).nbv
    unitHeld := unit == .own, donor := match unit with | .lent d => some d | _ => none }
  let s := { s with sched := { s.sched with seq := seq, launches := s.sched.launches ++ [l] } }
  let s := match unit with
    | .own => takeUnit s p l.lr.qcls
    | .lent d => modLaunch s d fun x => { x with unitLent := true }
    | .none => s
  let s := writeStatus (writeVirt s l.recPart (l.lr.recAddr + 0xF0) 8 seq) l.recPart l.lr.recAddr 0 0 1
  (modPS s p fun q => { q with bound := q.bound.map fun b => if b.2 = who then (b.1, seq) else b }, seq)

/-- The number under which a launch queue's head binds its counter until it has a sequence number: no launch has it. -/
def headMark (p n : Nat) : Nat := 2 ^ 64 + 4 * p + n

/-- What a submitted record that holds its counter already needs to be admitted from a queue: a unit, but for class F (R183, R200). -/
def admitHead (s : State) (p n : Nat) (l : LaunchState) : Option State :=
  if l.lr.cls = 0 then some (admitLaunch s l (headMark p n) .none).1
  else if unitFree s l.lr.part l.lr.qcls then some (admitLaunch s l (headMark p n) .own).1
  else none

/-- The head entry of queue `n` of function `p`: read, checked, refused or admitted, and the queue then goes on. Where its quota class has no free unit it has been read and submitted and stays at the head (R178, R183): what the record held at that moment is kept, and its counter counts (log 75). -/
def submitQueued (s : State) (p n recAddr : Nat) : State × Option LaunchState :=
  match readImg s p recAddr 256 with
  | .error b => (refuse (writeStatus s p recAddr 0 0 0) p recAddr stBadrec b true, none)
  | .ok raw =>
    let lr := parseLaunch recAddr raw
    match judge s p lr raw with
    | .refuse st b => (refuse (writeStatus s p recAddr 0 0 0) p recAddr st b true, none)
    | .takes img c =>
      let l := newLaunch s p lr img c
      let s := submitRec s l raw (headMark p n)
      match admitHead s p n l with
      | some s => (s, none)
      | none => (s, some l)

/-- A launch from device code (R204, R205): the state after it, the status code, and the child's number. -/
def submitSpawn (s : State) (i : TaskInfo) (recAddr : Nat) (arg : W64) (donate : Bool) : State × Nat × Nat :=
  let no := fun (st : Nat) => (refuse (writeStatus s i.part recAddr 0 0 0) i.part recAddr st (bad 0) false, st, 0)
  if donate ∧ i.cls = 0 then no stClassf
  else match readImg s i.part recAddr 256 with
    | .error _ => no stBadrec
    | .ok raw =>
      let lr := { parseLaunch recAddr raw with part := i.part, vf := i.vf, arg0 := arg }
      if donate ∧ (lr.period ≠ 0 ∨ lr.sess.isSome) then no stBadrec
      else match judge s i.vf lr raw with
        | .refuse st _ => no st
        | .takes img c =>
          let go := fun (u : UnitBy) =>
            let l := newLaunch s i.part lr img c
            let who := headMark 64 0
            let (s, seq) := admitLaunch (submitRec s l raw who) l who u
            (s, 0, seq)
          if lr.cls = 0 then go .none
          else if unitFree s lr.part lr.qcls then go .own
          else match donate, findLaunch s i.seqno with
            | true, some own => if (own.unitHeld || own.donor.isSome) && !own.unitLent then go (.lent i.seqno) else no stQuota
            | _, _ => no stQuota

end Sys2Proof.Machine
end

