-- ==== Sys2Proof/Machine/Memq.lean ====
section
/-! DEFINITION. Memory operations that have been triggered: how each one performs or issues, and in which order (R111 to R119, R221 to R228, R244 to R279). -/

namespace Sys2Proof.Machine

/-! ### Atomic updates (R265, R266) -/

/-- The new value of an element. -/
def amoNew (v1 : Bool) (op : AmoOp) (ty old v cmp : Nat) : Nat :=
  let w := tyWidth ty
  match op with
  | .add => (old + v) % 2 ^ w
  | .fadd => laneAdd v1 ty 0 old v
  | .max => if sgn w old < sgn w v then v else old
  | .min => if sgn w v < sgn w old then v else old
  | .maxu => Nat.max old v
  | .minu => Nat.min old v
  | .fmax => maxNum ty old v
  | .fmin => minNum ty old v
  | .and => old &&& v
  | .or => old ||| v
  | .xor => old ^^^ v
  | .swp => v
  | .cas => if old = cmp then v else old

/-- One lane on a row as the lanes before it leave it: the row, the writes, the old values. -/
def amoLane (v1 : Bool) (op : AmoOp) (ty : Nat) (a : Row × List (Nat × Nat × Nat) × List (Nat × Nat)) (l : Lane) :
    Row × List (Nat × Nat × Nat) × List (Nat × Nat) :=
  let w := tyWidth ty
  let old := a.1.toNat / 2 ^ (8 * l.off) % 2 ^ w
  let wr := (l.off, w / 8, amoNew v1 op ty old (l.val % 2 ^ w) (l.cmp % 2 ^ w))
  (patch a.1 [wr], a.2.1 ++ [wr], a.2.2 ++ [(l.i, old)])

/-! ### Pending stores as a later load sees them (R113, R116) -/

/-- Plate rows of a range. -/
def inPlates (first count row : Nat) : Bool := decide (first ≤ row / 128) && decide (row / 128 < first + count)

/-- The page of a target is marked lost (R244). -/
def tgtBad : Target → Bool
  | .glob _ _ _ _ _ bad => bad
  | .stash _ _ src => tgtBad src
  | _ => false

/-- A local row as a pending operation will leave it. -/
def fwdOne (v1 : Bool) (r : Nat) (a : Row × Bool) (k : MemKind) : Row × Bool := match k with
  | .st t x => if localRow t = some r then (x, tgtBad t) else a
  | .smap f c => if inPlates f c r then (0, false) else a
  | .stx w l => if a.2 then a else (patch a.1 ((l.filter fun x => localRow x.tgt == some r).map fun x => (x.off, w / 8, x.val)), false)
  | .amo op ty _ l => if a.2 then a else (((l.filter fun x => localRow x.tgt == some r).foldl (amoLane v1 op ty) (a.1, [], [])).1, false)
  | _ => a

/-- A local row as the operations `before` will leave it, from what it holds. -/
def fwdRow (v1 : Bool) (before : List MemOp) (r : Nat) (a : Row × Bool) : Row × Bool := before.foldl (fun a e => fwdOne v1 r a e.kind) a

/-! ### One row, read and written at its target -/

/-- A line leaves the core's L1, written back when dirty: a bound row has no L1 copy (R227). -/
def l1Drop (s : State) (core row : Nat) (writer : Option Nat) : State :=
  match l1Find s core row with
  | some l => l1Evict s l writer
  | none => s

/-- The global read that fills a bound row (R227). -/
def fillRead (s : State) (tgt : Target) : State × Row × Bool :=
  let t := s.task
  match tgt with
  | .glob va pa coh fmt base bad =>
    let rows := rowsOf (.glob va pa coh fmt base bad)
    let s := rows.foldl (fun s r =>
      let s := fetchRow (l1Drop s (coreNum t) r (some t.uid)) (rqOf t) coh r
      if coh = 0 then s else nameDie s r (dieOf t)) s
    match packedOf fmt with
    | some k => (s, packedRow (ver1 t) (cohMem s (rows.headD 0)) k base (pa / 128), bad || (packedRows k base (pa / 128)).any (poisonedRow s))
    | none => (s, readRow (cohMem s (pa / 128)) pa, bad || poisonedRow s (pa / 128))
  | .io _ pa => ioAnswer (useLinks s (rqOf t) (ioRoute (dieOf t) pa))
  | .plate r => (s, sget t.plates r, t.platePoison.contains r)
  | .stash _ r _ => (s, sget t.plates r, t.platePoison.contains r)

/-- A plate row of a task replaced, with or without a poison mark. -/
def putPlate (t : Task) (r : Nat) (x : Row) (poison : Bool) : Task :=
  { t with
    plates := sset t.plates r x
    dirty := touchUnit t.dirty (unitRow r)
    platePoison := if poison then (if t.platePoison.contains r then t.platePoison else r :: t.platePoison)
      else t.platePoison.filter (· != r) }

/-- A bound row after a fill: CLEAN unless `dirty`. -/
def bindRow (t : Task) (r : Nat) (src : Target) (dirty : Bool) : Task :=
  { t with stashRows := { row := r, dirty := dirty, src := src } :: t.stashRows.filter fun x => x.row != r }

/-- A bound row, filled if it is EMPTY. -/
def fillStash (s : State) (r : Nat) (src : Target) : State :=
  if s.task.stashRows.any fun x => x.row == r then s
  else
    let (s, d, p) := fillRead s src
    { s with task := bindRow (putPlate s.task r d p) r src false }

/-- The row a task's load returns, and whether it is poisoned. -/
def readTgt (s : State) (tgt : Target) : State × Row × Bool :=
  match tgt with
  | .plate r => (s, sget s.task.plates r, s.task.platePoison.contains r)
  | .stash _ r src =>
    let s := fillStash s r src
    (s, sget s.task.plates r, s.task.platePoison.contains r || tgtBad src)
  | .glob _ pa coh fmt base bad => readGlob s s.task pa coh fmt base bad
  | .io _ pa => ioAnswer (useLinks s (rqOf s.task) (ioRoute (dieOf s.task) pa))

/-- The line of a target: its physical row, or, of a plate, a number that no row has. -/
def lineOf (tgt : Target) : Nat := match tgt with
  | .plate r => 2 ^ 60 + r
  | .stash _ _ src => physRow src
  | _ => physRow tgt

/-- The line that a poisoned row of a target came from: of a plate row, the line that was written there. -/
def lineFrom (t : Task) (tgt : Target) : Nat := match tgt with
  | .plate r => ((t.badBy.find? fun e => e.1 == .row r).map Prod.snd).getD (lineOf tgt)
  | _ => lineOf tgt

/-- The row a task's load returns while the operations `before` wait: of a local row, as they will leave it (R113, R116). A poisoned one leaves its line behind (R335). -/
def loadTgt (before : List MemOp) (s : State) (tgt : Target) : State × Row × Bool :=
  let (s, d, p) := readTgt s tgt
  let (d, p) := match localRow tgt with
    | some r => fwdRow (ver1 s.task) before r (d, p)
    | none => (d, p)
  (if p then { s with task := { s.task with badRow := lineFrom s.task tgt } } else s, d, p)

def sumOffs (pa : Nat) (ws : List (Nat × Nat × Nat)) (s : State) : State :=
  ws.foldl (fun s w => ioPost s (pa / 128 * 128 + w.1) w.2.1 w.2.2) s

/-- Exclusive ownership of a bound row of a coherent page, by a collapse that leaves the bound row where it is (R227). -/
def gainBound (s : State) (r : Nat) (src : Target) : State := match src with
  | .glob va pa coh fmt base bad =>
    if coh = 0 then s
    else (rowsOf (.glob va pa coh fmt base bad)).foldl (fun s k => gainLine s s.task k true (keepOwn s.task.uid (some r) src)) s
  | _ => s

/-- Bytes of a row written at its target: writes (offset, bytes, value); `whole` for an st (R116, R118, R227, R244). -/
def writeTgt (s : State) (tgt : Target) (whole : Bool) (ws : List (Nat × Nat × Nat)) : State :=
  match tgt with
  | .plate r =>
    if !whole && s.task.platePoison.contains r then s
    else { s with task := putPlate s.task r (patch (sget s.task.plates r) ws) false }
  | .stash _ r src =>
    let s := fillStash s r src
    if !whole && (s.task.platePoison.contains r || tgtBad src) then s
    else
      let s := gainBound s r src
      { s with task := bindRow (putPlate s.task r (patch (sget s.task.plates r) ws) false) r src true }
  | .glob _ pa coh fmt base bad => writeGlob s s.task pa coh fmt base bad whole ws none
  | .io _ pa => sumOffs pa ws (useLinks s (rqOf s.task) (ioRoute (dieOf s.task) pa))

/-- A dirty bound row goes home by the row captured at its fill (R228). -/
def writeHome (s : State) (b : StashRow) : State :=
  let data := sget s.task.plates b.row
  let poison := s.task.platePoison.contains b.row
  match b.src with
  | .glob _ pa coh fmt base bad =>
    let s := writeGlob s s.task pa coh fmt base bad true [(0, 128, data.toNat)] (some b.row)
    let s := (rowsOf (.glob 0 pa coh fmt base bad)).foldl (fun s r => l1Drop s (coreNum s.task) r (some s.task.uid)) s
    if poison && (packedOf fmt).isNone then addPoison s [pa / 128] else s
  | .io _ pa => ioPost (useLinks s (rqOf s.task) (ioRoute (dieOf s.task) pa)) (pa / 128 * 128) 128 data.toNat
  | _ => s

/-! ### Atomic updates, row by row (R266, R267) -/

/-- The lanes of one row: one atomic update of it (R266, R267). -/
def amoRow (op : AmoOp) (ty : Nat) (a : State × List (Nat × Nat) × Bool) (g : Target × List Lane) : State × List (Nat × Nat) × Bool :=
  let (s, d, p) := readTgt a.1 g.1
  let (_, ws, olds) := g.2.foldl (amoLane (ver1 s.task) op ty) (d, [], [])
  (if p then s else writeTgt s g.1 false ws, a.2.1 ++ olds, a.2.2 || p)

/-- A group whose lanes touch a row of another target. -/
def meetsRow (a b : Target) : Bool := (keysOf a).any fun k => (keysOf b).contains k

/-- Two targets reach the same row in the same way, whatever page of it they name. -/
def sameWay : Target → Target → Bool
  | .glob _ pa coh fmt base bad, .glob _ pa' coh' fmt' base' bad' => pa == pa' && coh == coh' && fmt == fmt' && base == base' && bad == bad'
  | .io .., _ => false
  | a, b => a == b

/-- A lane joins the latest group of its row, where it reaches the row in the same way; else it begins one. I/O lanes go one by one (R118, R223, R250). -/
def addLane (gs : List (Target × List Lane)) (l : Lane) : List (Target × List Lane) :=
  match (List.range gs.length).reverse.find? fun n => (gs[n]?).any fun g => meetsRow g.1 l.tgt with
  | some n => if (gs[n]?).any fun g => sameWay g.1 l.tgt then gs.modify n fun g => (g.1, g.2 ++ [l]) else gs ++ [(l.tgt, [l])]
  | none => gs ++ [(l.tgt, [l])]

/-- Lanes by row, in ascending order of the groups' first lanes. -/
def groupLanes (l : List Lane) : List (Target × List Lane) := l.foldl addLane []

/-- Elements at their lanes, inactive lanes 0. -/
def lanesRow (w : Nat) (l : List (Nat × Nat)) : Row := l.foldl (fun r e => setLane r w e.1 e.2) 0

/-! ### Reductions (R268 to R273) -/

/-- The operation of a tree node. -/
def redNode (v1 : Bool) (op : RedOp) (ty a b : Nat) : Nat := match op with
  | .add => (a + b) % 2 ^ tyWidth ty
  | .fadd => laneAdd v1 ty 0 a b
  | .fmax => maxNum ty a b

def redId (op : RedOp) (ty : Nat) : Nat := match op with
  | .add => 0
  | .fadd => idSum ty
  | .fmax => idMax ty

/-- A declared tree level of 2^k positions, combined pairwise (R68, R271). -/
def redTree (v1 : Bool) (op : RedOp) (ty k : Nat) (l : List Nat) : Nat := treeN (redNode v1 op ty) (redId op ty) k l

/-- The lane level. -/
def laneTree (v1 : Bool) (op : RedOp) (ty : Nat) (vals : List (Option Nat)) : Nat :=
  redTree v1 op ty 5 (vals.map fun v => v.getD (redId op ty))

/-- The tree's root applied at the target's home as one update; a poisoned target takes no write and is charged (R268). -/
def applyRed (s : State) (v1 : Bool) (part die : Nat) (op : RedOp) (ty : Nat) (tgt : Target) (off x : Nat) : State :=
  match tgt with
  | .glob _ pa _ _ _ bad =>
    let row := pa / 128
    if bad || poisonedRow s row then raiseCharge s ((ownerOf s pa).getD part) 1 (row * 128)
    else
      let s := collapse (noteWrite s { part := part, cls := 2, die := die } row) part die row keepNone
      let w := tyWidth ty
      let old := (readRow s.mem pa).toNat / 2 ^ (8 * off) % 2 ^ w
      writeDev s none (row * 128) 128 fun m => writeRow m (row * 128) (patch (readRow m (row * 128)) [(off, w / 8, redNode v1 op ty old x)])
  | _ => s

/-- The group of a launch that a red belongs to: same target, form and type, the task among its contributors (R272). -/
def groupFor (l : LaunchState) (i : TaskInfo) (op : RedOp) (ty va : Nat) : Option Nat :=
  (List.range l.groups.length).find? fun n =>
    match l.groups[n]? with
    | some g => g.addr == va && g.op == op && g.ty == ty && g.stg == i.stg && g.xmask / 2 ^ i.x % 2 == 1
        && decide (g.yFirst ≤ i.y ∧ i.y < g.yFirst + g.yCount) && decide (g.zFirst ≤ i.z ∧ i.z < g.zFirst + g.zCount)
    | none => false

/-- Passes of a group that have been applied. -/
def passesDone (s : State) (inst g : Nat) : Nat := (s.sched.passes.find? fun p => p.1 == inst && p.2.1 == g).elim 0 (·.2.2)

def isFrom (i : TaskInfo) (g : Nat) (c : Contrib) : Bool :=
  c.inst == i.inst && c.group == g && c.x == i.x && c.y == i.y && c.z == i.z && c.copy == i.copy

/-- A contribution is accepted (R273): into its pass, or applied alone. -/
def acceptRed (s : State) (op : RedOp) (ty : Nat) (tgt : Target) (off : Nat) (vals : List (Option Nat)) : State :=
  let t := s.task
  let x := laneTree (ver1 t) op ty vals
  let va := match tgt with
    | .glob va _ _ _ _ _ => va
    | _ => 0
  match (findLaunch s t.info.seqno).bind fun l => groupFor l t.info op ty va with
  | some g =>
    let k := passesDone s t.info.inst g + (s.sched.contribs.filter (isFrom t.info g)).length
    { s with sched := { s.sched with contribs := s.sched.contribs ++
        [{ inst := t.info.inst, group := g, pass := k, copy := t.info.copy, x := t.info.x, y := t.info.y, z := t.info.z
           val := x, tgt := tgt, off := off }] } }
  | none => applyRed s (ver1 t) t.info.part (dieOf t) op ty tgt off x

/-! ### Engine operations: how they start (R280 to R291) -/

/-- The completion word's fields (R282). -/
def cwBar (cw : W64) : Bool := bitAt cw 30
def cwBidx (cw : W64) : Nat := fld cw 29 24

/-- The group header of a collective, where it can be read: identity plus 1, and ranks (R296). -/
def collGroup (s : State) (part : Nat) (op : EngOp) : Nat × Nat :=
  match readVirt s part accData (bitsOf op.desc 128 57) 8 with
  | .ok h => if op.kind = .coll then (h / 2 ^ 32 + 1, h % 2 ^ 32) else (0, 0)
  | .error _ => (0, 0)

/-- The task of the next stage with the same coordinate, in the same copy of the gang (R175, R281). -/
def nextStage (s : State) (i : TaskInfo) : Option Task :=
  (allTasks s).find? fun t => t.info.inst == i.inst && t.info.x == i.x && t.info.y == i.y && t.info.z == i.z
    && t.info.stg == i.stg + 1 && t.info.copy == i.copy

/-- BREM: the barrier bytes of an entry go to the next stage's team (R286). -/
def opBrem (op : EngOp) : Bool := match op.kind with
  | .copy _ => bitAt op.desc (8 * 0x39 + 1)
  | _ => false

/-- The team whose barrier an operation's bytes go to. -/
def barTeam (s : State) (i : TaskInfo) (op : EngOp) : TaskInfo :=
  if opBrem op then (nextStage s i).elim i Task.info else i

/-- An operation is released: it takes the next number, and the phase tag of its barrier (R282). -/
def releaseOp (s : State) (op : EngOp) : State :=
  let i := s.task.info
  let tag := cwBar op.cw && (getBar s (barTeam s i op) (cwBidx op.cw)).phase
  let (g, n) := collGroup s i.part op
  { s with sched := { s.sched with
      nextOp := s.sched.nextOp + 1
      ops := s.sched.ops ++ [{ op with
        id := s.sched.nextOp, owner := s.task.uid, tag := tag, after := g, ranks := n, die := dieOf s.task
        trigger := if op.kind = .coll then op.trigger else s.clk.ftime }] } }

/-- 0 acts as 1. -/
def atLeast1 (n : Nat) : Nat := Nat.max n 1

/-- Rows of a schedule entry (R286, R288). -/
def entryRows (e : BitVec 512) : Nat := bitsOf e 128 16 * (atLeast1 (bitsOf e 144 16) * atLeast1 (bitsOf e 160 16))

/-- A schedule entry as an operation. -/
def copyOp (e : BitVec 512) (n : Nat) : EngOp :=
  { id := 0, owner := 0, kind := .copy n, desc := e.setWidth 1024, start := 0, row := 0, total := entryRows e
    cw := BitVec.ofNat 64 (bitsOf e (8 * 0x30) 64), tag := false, status := 0, trigger := 0, buf := [], bad := [], stopped := false, steps := 0, after := 0, ranks := 0 }

def entryStage (e : BitVec 512) : Nat := bitsOf e (8 * 0x38) 8

/-- Release of one entry. -/
def releaseEntry (s : State) (e : Nat) : State :=
  let s := { s with task := { s.task with released := s.task.released ++ [e] } }
  releaseOp s (copyOp (nth s.task.info.sched e 0) e)

/-- Every entry whose stage has been reached, ascending. -/
def releaseReached (s : State) : State :=
  ((List.range s.task.info.sched.length).filter fun e =>
      decide (entryStage (nth s.task.info.sched e 0) ≤ s.task.sc) && !s.task.released.contains e).foldl releaseEntry s

/-- cstage's counter (R290). -/
def stageNext (sc t : Nat) : Nat :=
  if t / 256 % 2 = 1 then Nat.max sc (t % 256) else Nat.min 255 (sc + atLeast1 (t % 256))

/-- An own-local side with TILE = 0: lowest and highest plate row, if the operation has any (R289, R299). -/
structure Side where
  lo : Nat
  hi : Nat
  wr : Bool
  tile : Option Nat
  acc : Bool
  deriving DecidableEq, Repr

/-- Signed 32-bit field of a schedule entry. -/
def sfld (d : BitVec 1024) (off : Nat) : Int := sgn 32 (bitsOf d (8 * off) 32)

/-- lin of R288. -/
def linOf (i : TaskInfo) : Nat := i.x + i.extX * (i.y + i.extY * (i.z + i.extZ * i.stg))

/-- The address of row n of a copy side: base, coordinate stride, strides, not yet wrapped (R288). -/
def copyAddr (d : BitVec 1024) (i : TaskInfo) (srcSide : Bool) (n : Nat) : Int :=
  let base := bitsOf d (if srcSide then 0 else 64) 61
  let n0 := bitsOf d 128 16
  let n1 := atLeast1 (bitsOf d 144 16)
  let c := if srcSide then sfld d 0x28 else sfld d 0x2C
  let s1 := if srcSide then sfld d 0x18 else sfld d 0x20
  let s2 := if srcSide then sfld d 0x1C else sfld d 0x24
  (base : Int) + linOf i * c + (n / (atLeast1 n0 * n1) : Nat) * s2 + (n / atLeast1 n0 % n1 : Nat) * s1 + (n % atLeast1 n0 * 128 : Nat)

/-- A local offset wraps modulo 2^21 (R288). -/
def localOff (a : Int) : Nat := (a % (2 ^ 21 : Nat)).toNat

/-- Lowest and highest of a list of rows. -/
def rangeOf (l : List Nat) : Option (Nat × Nat) := match l with
  | [] => none
  | a :: r => some (r.foldl Nat.min a, r.foldl Nat.max a)

/-- Rows of DST that a collective writes for a rank (R297), in a group of `ranks`. DESIGN CHOICE (log 100): an OP of 5 to 7, which ends with BADCMD and has no shape in R297, counts as a reduce-scatter. -/
def collRows (d : BitVec 1024) (ranks : Nat) : Nat :=
  let n := bitsOf d (8 * 0x20) 32
  match bitsOf d (8 * 0x28) 3 with
  | 0 => (4 * n + 127) / 128
  | 1 => (8 * n + 127) / 128
  | 2 => n * ranks
  | 3 => n
  | _ => (4 * (n / ranks) + 127) / 128

/-- Bytes and rows of SRC that a rank contributes. -/
def collBytes (d : BitVec 1024) : Nat :=
  bitsOf d (8 * 0x20) 32 * (match bitsOf d (8 * 0x28) 3 with
    | 1 => 8
    | 2 | 3 => 128
    | _ => 4)
def collSrcRows (d : BitVec 1024) : Nat := (collBytes d + 127) / 128

/-- The local ranges of an operation (R299): own-local plates and tiles, the accumulator, a gather's index list. -/
def sidesOf (i : TaskInfo) (op : EngOp) : List Side :=
  let d := op.desc
  match op.kind with
  | .copy _ =>
    let side := fun (isSrc : Bool) =>
      let a := bitsOf d (if isSrc then 0 else 64) 64
      let sp := a / 2 ^ 61
      if sp = 1 ∧ a / 2 ^ 21 % 2 = 1 then [{ lo := 0, hi := 255, wr := !isSrc, tile := some (a / 2 ^ 22 % 8), acc := false : Side }]
      else if sp = 1 ∨ sp = 3 then
        match rangeOf ((List.range op.total).map fun n =>
            if sp = 3 then ((copyAddr d i isSrc n) % (2 ^ 19 : Nat)).toNat / 128 else localOff (copyAddr d i isSrc n) / 128) with
        | some (lo, hi) => [{ lo := lo, hi := hi, wr := !isSrc, tile := none, acc := sp == 3 }]
        | none => []
      else []
    side true ++ side false
  | .gather =>
    let loc := bitsOf d 64 64
    let idx := bitsOf d 128 64
    let scatter := bitAt d (8 * 0x26 + 1)
    let conv := bitAt d (8 * 0x26)
    let locSide :=
      if loc / 2 ^ 61 ≠ 1 then []
      else if loc / 2 ^ 21 % 2 = 1 then [{ lo := 0, hi := 255, wr := !scatter, tile := some (loc / 2 ^ 22 % 8), acc := false : Side }]
      else match rangeOf ((List.range op.total).map fun n => (loc % 2 ^ 21 + n * 128) % 2 ^ 21 / 128) with
        | some (lo, hi) => [{ lo := lo, hi := hi, wr := !scatter, tile := none, acc := false }]
        | none => []
    let count := bitsOf d (8 * 0x18) 32
    let idxSide :=
      if conv || idx / 2 ^ 61 != 1 then []
      else match rangeOf ((List.range count).map fun n => (idx + 4 * (op.start + n)) % 2 ^ 21 / 128) with
        | some (lo, hi) => [{ lo := lo, hi := hi, wr := false, tile := none, acc := false : Side }]
        | none => []
    locSide ++ idxSide
  | .coll =>
    let side := fun (isSrc : Bool) =>
      let a := bitsOf d (if isSrc then 0 else 64) 64
      let rows := if isSrc then collSrcRows d else if op.ranks = 0 then (if bitsOf d (8 * 0x28) 3 = 2 then 16384 else collRows d 2) else collRows d op.ranks
      if a / 2 ^ 61 = 1 ∧ a / 2 ^ 21 % 2 = 1 then [{ lo := 0, hi := 255, wr := !isSrc, tile := some (a / 2 ^ 22 % 8), acc := false : Side }]
      else if a / 2 ^ 61 = 1 then
        match rangeOf ((List.range rows).map fun n => (a % 2 ^ 21 + n * 128) % 2 ^ 21 / 128) with
        | some (lo, hi) => [{ lo := lo, hi := hi, wr := !isSrc, tile := none, acc := false : Side }]
        | none => []
      else []
    side true ++ side false
  | .compact => []

/-- A command names a plate by an own-local side with TILE = 0 that covers it (R277). -/
def namesPlate (i : TaskInfo) (op : EngOp) (p : Nat) : Bool :=
  (sidesOf i op).any fun x => x.tile.isNone && !x.acc && decide (x.lo / 128 ≤ p) && decide (p ≤ x.hi / 128)

/-- Operations of a task that have not completed. -/
def opsOf (s : State) (uid : Nat) : List EngOp := s.sched.ops.filter fun o => o.owner == uid

/-! ### Which rows an operation touches -/

/-- Has a place in the load queue order (R245, R274). -/
def isLoad : MemKind → Bool
  | .ld _ | .ldx .. | .smap .. | .ldIter .. | .ldxIter .. => true
  | .amo _ _ ret _ => ret
  | _ => false

/-- Takes an entry of the 32-entry store queue (R245). -/
def takesEntry : MemKind → Bool
  | .ld _ | .ldx .. | .ldIter .. | .ldxIter .. | .mark | .fence _ | .smap .. | .flush _ | .gate _ | .wipe .. | .compact _ => false
  | _ => true

/-- Has a place in the store queue. -/
def inStoreQ : MemKind → Bool
  | .smap .. | .flush _ | .wipe .. | .compact _ => true
  | k => takesEntry k

/-- Orders against plain stores only by rows: the accesses themselves. The other kinds wait for the head. -/
def plainStore : MemKind → Bool
  | .st .. | .stx .. | .amo .. | .red .. => true
  | _ => false

def storeEntries (t : Task) : Nat := (t.memq.filter fun e => takesEntry e.kind).length

/-! ### What may go ahead of what (R112, R113, R116, R252 to R254, R277) -/

/-- Targets of an operation's rows; the rows that an unbinding or a flush writes back. -/
def opTargets (t : Task) : MemKind → List Target
  | .ld x | .st x _ | .ldIter _ x => [x]
  | .ldx _ l | .ldxIter _ _ l | .stx _ l | .amo _ _ _ l => l.map Lane.tgt
  | .red _ _ x _ _ => [x]
  | .unbind f c => (t.stashRows.filter fun r => r.dirty && inPlates f c r.row).map StashRow.src
  | .flush l => l.flatMap fun p => (t.stashRows.filter fun r => r.dirty && inPlates p.1 p.2 r.row).map StashRow.src
  | _ => []

/-- The plates that pending owns to thread have still to hand back, of those that another owner has when each of them comes (R277). -/
def flipMask (t : Task) (before : List MemOp) : BitVec 128 :=
  (before.foldl (fun a e => (ownedBy a.1 e.kind, match e.kind with
    | .own false f c => a.2 ||| (a.1 &&& plateBits f c)
    | _ => a.2)) (t.owners, (0 : BitVec 128))).2

/-- A pending operation fills a bound row first, which its plate row then shows: a later read of that row waits for it. -/
def fillsRow (t : Task) (r : Nat) (k : MemKind) : Bool := (opTargets t k).any fun
  | .stash _ x _ => x == r && !(t.stashRows.any fun y => y.row == r)
  | _ => false

/-- A load of plate rows only, whose data the stores before it fix (R112, R113). -/
def plainLoad : MemKind → Bool
  | .ld (.plate _) => true
  | .ldx _ l => l.all fun x => match x.tgt with
    | .plate _ => true
    | _ => false
  | _ => false

/-- Whether a plain plate row can be read while `before` waits: no plate comes back first and no bound row is filled first. -/
def plateFree (t : Task) (before : List MemOp) (r : Nat) : Bool :=
  !bitAt (flipMask t before) (r / 128) && !(before.any fun e => fillsRow t r e.kind)

/-- Rows of one operation that another touches too. A pending store to a local row does not hold back a load of it, unless it must fill a bound row first. -/
def meets (t : Task) (load : Bool) (e : MemKind) (a b : Target) : Bool :=
  meetsRow a b
    && !(load && !isLoad e && localRow a == localRow b && (localRow a).isSome
        && (match b with
          | .stash _ r _ => t.stashRows.any fun x => x.row == r
          | _ => true))

/-- Whether an operation may go ahead of the earlier operations `before` (R112, R116, R252 to R254): loads in order, store-queue operations in order, no passing of a mark or a fence, no passing of an access to the same row but for a local load, which sees the stores before it. A load of plain plate rows waits for nothing but its plates: no other agent reaches them, so its value is fixed at its trigger (R112, log 76). -/
def mayPass (t : Task) (before : List MemOp) (k : MemKind) : Bool :=
  if plainLoad k then (opTargets t k).all fun q => (localRow q).all (plateFree t before)
  else
    (before.all fun e =>
      (match e.kind with
        | .mark | .fence _ | .gate _ => false
        | _ => true)
      && !(isLoad k && isLoad e.kind) && !(inStoreQ k && inStoreQ e.kind)
      && !((opTargets t k).any fun a => (opTargets t e.kind).any fun b => meets t (!inStoreQ k) e.kind a b))
    && ((opTargets t k).all fun q => (localRow q).all fun r => !bitAt (flipMask t before) (r / 128))
    && (isLoad k || plainStore k)

/-! A compaction's description (R351): base, rows per logical row, n, old TAIL, ROW[1] to ROW[7], HI. -/

def compBase (d : BitVec 1024) : Nat := bitsOf d 0 57
def compRb (d : BitVec 1024) : Nat := bitsOf d 64 16
def compN (d : BitVec 1024) : Nat := bitsOf d 80 16
def compTail (d : BitVec 1024) : Nat := bitsOf d 96 32
def compRowOf (d : BitVec 1024) (j : Nat) : Nat := bitsOf d (128 + 16 * j) 16
def compHi (d : BitVec 1024) : Option Nat := if bitAt d 256 then some (bitsOf d 257 40) else none

/-- A virtual row at or above the old TAIL of a region that is still being compacted (R352). -/
def compBlocks (o : EngOp) (va : Nat) : Bool :=
  o.kind == .compact && decide (compBase o.desc + compTail o.desc * compRb o.desc * 128 ≤ va)

def vasOf : Target → List Nat
  | .glob va _ _ _ _ _ | .io va _ => [va]
  | .stash _ _ src => vasOf src
  | _ => []

def opVas : MemKind → List Nat
  | .ld t | .st t _ => vasOf t
  | .ldx _ l | .stx _ l | .amo _ _ _ l => l.flatMap fun x => vasOf x.tgt
  | .red _ _ t _ _ | .ldIter _ t => vasOf t
  | .ldxIter _ _ l => l.flatMap fun x => vasOf x.tgt
  | .rinv va _ => [va]
  | _ => []

/-- Compactions that have been released, or wait for the drains before them. -/
def compactions (s : State) (before : List MemOp) : List EngOp :=
  opsOf s s.task.uid ++ before.filterMap fun e => match e.kind with
    | .compact o => some o
    | _ => none

/-- The compactions of the scmts so far let an access pass: its rows lie below the old TAIL, or they are complete (R352). -/
def compClear (s : State) (before : List MemOp) (k : MemKind) : Bool :=
  (compactions s before).all fun o => !((opVas k).any (compBlocks o))

/-- A plate that is the thread's, or that no engine operation names: it can be the thread's (R277). -/
def plateIdle (s : State) (p : Nat) : Bool :=
  !bitAt s.task.owners p || (opsOf s s.task.uid).all fun o => !namesPlate s.task.info o p

/-- Whether the machine can do it now (R277, R291, R295, R396): an own to thread waits for the engine, a chunk and an engine command for room. -/
def ready (s : State) (e : MemOp) : Bool := match e.kind with
  | .own false f c => (List.range c).all fun j => plateIdle s (f + j)
  | .esend .. => decide (s.task.egress.length < 8)
  | .spawn rec _ _ => !recordWaits s s.task.info.part rec (some s.task.info.part)
  | .gate ids => ids.all fun p => (findTask s p.1).all fun t => !(t.memq.any fun e => takesEntry e.kind && e.seq == p.2)
  | .engine op => match op.kind with
    | .gather => decide (((opsOf s s.task.uid).filter fun o => o.kind == .gather).length < 16)
    | .coll => decide (((opsOf s s.task.uid).filter fun o => o.kind == .coll).length < 8)
    | _ => true
  | _ => true

/-! ### What a requester has to wait for (R239, R242, R370, R374) -/

/-- The link hops of an access to the I/O window: by the I/O die of its port (R209, R373). -/
def ioHeld (s : State) (q : Rq) (pa : Nat) : Bool := !wayOpen s q (ioRoute q.die pa)

/-- A request for a row of a stack has come to it: the head of a task's queue, where nothing but the stack keeps it. -/
def taskAsks (s : State) (t : Task) (stack : Nat) : Bool :=
  let s := { s with task := t }
  onCore t && t.memq.head?.any fun e => ready s e && compClear s [] e.kind && (opTargets t e.kind).any fun x =>
    (rowsOf x).any fun r => homeDie s (r * 128) == stack && onStack s (rqOf t) r && !rowWaits s (dieOf t) (r * 128) && (l1Find s (coreNum t) r).isNone

/-- The rows that a copy operation moves next. -/
def copyNext (s : State) (t : Task) (o : EngOp) : List Nat := match o.kind with
  | .copy _ => if o.stopped then [] else [true, false].flatMap fun isSrc =>
      if bitsOf o.desc (if isSrc then 0 else 64) 64 / 2 ^ 61 != 0 then []
      else match translate s t.info.part (if isSrc then accEngRead else accEngWrite) ((copyAddr o.desc t.info isSrc o.row) % (2 ^ 57 : Nat)).toNat with
        | .ok (_, tgt) => rowsOf tgt
        | .error _ => []
  | _ => []

/-- Who waits at a stack: partition, and whether of class F (R242). -/
def askers (s : State) (stack : Nat) : List (Nat × Bool) :=
  ((allTasks s).filter fun t => taskAsks s t stack).map (fun t => (t.info.part, t.info.cls == 0))
    ++ s.sched.ops.filterMap fun o => (findTask s o.owner).bind fun t =>
      if (copyNext s t o).any fun r => homeDie s (r * 128) == stack && onStack s { rqOf t with die := o.die } r then some (t.info.part, t.info.cls == 0) else none

/-- The stack serves the requester in this slot: the slot's owner first, then best effort in turns of WEIGHT rows, within the partition's cap (R242). -/
def stackServes (s : State) (q : Rq) (stack : Nat) : Bool :=
  let p := getPart s q.part
  let l := askers s stack
  decide (slotRows s stack < 750)
    && (slotIsOf s q stack
      || (bewWeight p != 0 && (bewCap p == 0 || decide (p.mem.beRows < bewCap p))
        && !(l.any fun x => slotIsOf s { q with part := x.1, cls := if x.2 then 0 else 2 } stack)
        && (decide (p.mem.beTurn < bewWeight p)
          || !(l.any fun x => x.1 != q.part && decide ((getPart s x.1).mem.beTurn < bewWeight (getPart s x.1))))))

/-- A row that the requester cannot have now: its region moves, its die is lost, its stack or a link on its way has no service for it (R239, R242, R370, R374). -/
def heldRow (s : State) (q : Rq) (row : Nat) : Bool :=
  rowWaits s q.die (row * 128)
    || ((l1Find s q.core row).isNone
      && ((onStack s q row && !stackServes s q (homeDie s (row * 128))) || !wayOpen s q (rowRoute s q row)))

/-- A target that has to wait. -/
def tgtWaits (s : State) (q : Rq) : Target → Bool
  | .glob va pa coh fmt base bad => (rowsOf (.glob va pa coh fmt base bad)).any (heldRow s q)
  | .stash _ _ src => tgtWaits s q src
  | .io _ pa => ioHeld s q pa
  | .plate _ => false

/-- A write leaves its die by links with service. -/
def storeWaits (s : State) (q : Rq) (k : MemKind) (x : Target) : Bool :=
  !isLoad k && (rowsOf x).any fun r => !wayOpen s q (outRoute s q r)

/-- An operation's rows are there to be had. -/
def rowsThere (s : State) (k : MemKind) : Bool :=
  (opTargets s.task k).all fun x => !tgtWaits s (rqOf s.task) x && !storeWaits s (rqOf s.task) k x

/-! ### What a speculative iteration loads (R356) -/

/-- The snapshot of RUN: memory, plates, the bound rows that held data, the poison marks. -/
structure Shadow where
  mem : List Host.Cell
  plates : Sparse 1024
  rows : List Nat
  bad : List Nat
  lost : List Nat
  healed : List Nat
  plateBad : List Nat
  deriving DecidableEq, Repr

def Shadow.rowBad (sh : Shadow) (row : Nat) : Bool :=
  sh.bad.contains row || (sh.lost.contains (row / 2 ^ 14) && !sh.healed.contains row)

/-- A row of the snapshot and its poison mark. -/
def shadowRead (v1 : Bool) (sh : Shadow) : Target → Row × Bool
  | .plate r => (sget sh.plates r, sh.plateBad.contains r)
  | .glob _ pa _ fmt base bad => match packedOf fmt with
    | some k => (packedRow v1 sh.mem k base (pa / 128), bad || (packedRows k base (pa / 128)).any sh.rowBad)
    | none => (readRow sh.mem pa, bad || sh.rowBad (pa / 128))
  | .stash _ r src => if sh.rows.contains r then (sget sh.plates r, sh.plateBad.contains r) else shadowRead v1 sh src
  | .io .. => (0, false)

/-- Rows of the snapshot whose poison a whole write clears. -/
def Shadow.heal (sh : Shadow) (rows : List Nat) : Shadow :=
  { sh with bad := sh.bad.filter fun r => !rows.contains r, healed := rows ++ sh.healed }

/-- A write of the snapshot: a whole one clears the row's poison, and a poisoned row takes no other (R244). -/
def shadowWrite (v1 : Bool) (sh : Shadow) (whole : Bool) (tgt : Target) (ws : List (Nat × Nat × Nat)) : Shadow :=
  let old := shadowRead v1 sh tgt
  if !whole && old.2 then sh
  else match tgt with
  | .plate r => { sh with plates := sset sh.plates r (patch old.1 ws), plateBad := sh.plateBad.filter (· != r) }
  | .glob _ pa _ fmt base _ => match packedOf fmt with
    | some k => { sh.heal (if whole then packedRows k base (pa / 128) else []) with mem := putPacked v1 sh.mem k base (pa / 128) (putOf ws) }
    | none => { sh.heal (if whole then [pa / 128] else []) with mem := writeRow sh.mem pa (patch old.1 ws) }
  | .stash _ r _ => { sh with plates := sset sh.plates r (patch old.1 ws), plateBad := sh.plateBad.filter (· != r), rows := r :: sh.rows }
  | .io .. => sh

/-- One operation of the task's own: a store, or an atomic that had still to perform when RUN was triggered. -/
def shadowStore (v1 : Bool) (sh : Shadow) (e : MemOp) : Shadow := match e.kind with
  | .st t x => shadowWrite v1 sh true t [(0, 128, x.toNat)]
  | .stx w l => (groupLanes l).foldl (fun sh g => shadowWrite v1 sh false g.1 (g.2.map fun x => (x.off, w / 8, x.val))) sh
  | .amo op ty _ l => (groupLanes l).foldl (fun sh g =>
      shadowWrite v1 sh false g.1 (g.2.foldl (amoLane v1 op ty) ((shadowRead v1 sh g.1).1, [], [])).2.1) sh
  | _ => sh

/-- Numbers ascending. -/
def sortedSeqs (l : List MemOp) : List Nat := sortNat (l.map MemOp.seq)

/-- Stores of iteration j in trigger order, of those with numbers below `lim`. -/
def ownStores (m : Madder) (j lim : Nat) : List MemOp :=
  let l := ((m.buf ++ m.tent).filter fun e => e.1 == j && isStore e.2.kind && decide (e.2.seq < lim)).map Prod.snd
  (sortedSeqs l).filterMap fun q => l.find? fun e => e.seq == q

/-- What iteration j sees: the snapshot with its own stores of numbers below `lim`. -/
def shadowOf (v1 : Bool) (m : Madder) (j lim : Nat) : Shadow :=
  (ownStores m j lim).foldl (shadowStore v1) { mem := m.snapMem, plates := m.snapPlates, rows := m.snapStash, bad := m.snapBad, lost := m.snapLost,
                                               healed := m.snapHealed, plateBad := m.snapPlateBad }

/-- A row for a speculative iteration; an I/O read is answered from outside. -/
def specRead (s : State) (sh : Shadow) (tgt : Target) : State × Row × Bool := match tgt with
  | .io .. => ioAnswer s
  | _ => let x := shadowRead (ver1 s.task) sh tgt; (s, x.1, x.2)

/-- The snapshot of the focus task's iteration. -/
def mySnap (t : Task) (lim : Nat) : Shadow := shadowOf (ver1 t) t.spec (iterOf t) lim

/-- A load of iteration j that has waited (R352, R356): the snapshot with the stores that the iteration triggered before it, or memory where the round has ended or the iteration been confirmed meanwhile. -/
def iterLoad (before : List MemOp) (s : State) (j seq : Nat) (tgt : Target) : State × Row × Bool :=
  if s.task.spec.phase == .spec && !(iterAt s.task.spec j).confirmed then specRead s (shadowOf (ver1 s.task) s.task.spec j seq) tgt
  else loadTgt before s tgt

/-! ### What an operation does when it performs or issues -/

/-- Data for the result with number `seq`: a flight or a load-queue entry. A result of a deferred operation lands at once (R354). -/
def fillResult (t : Task) (seq : Nat) (x : Row) (poison : Bool) : Task :=
  let t : Task := { t with
    lq := t.lq.map fun (e : LqEntry) => if e.seq = seq then { e with val := some x, poison := poison } else e
    dirty := if t.lq.any fun e => e.seq == seq then touchUnit t.dirty (unitPage 2) else t.dirty }
  match t.flights.find? fun f => f.seq == seq with
  | some f =>
    if f.kind = .deferred then landOne { t with flights := t.flights.filter fun g => g.seq != seq } { f with val := some x, poison := poison }
    else { t with flights := t.flights.map fun (g : Flight) => if g.seq = seq then { g with val := some x, poison := poison } else g }
  | none => t

def setResult (s : State) (seq : Nat) (x : Row) (poison : Bool) : State :=
  { s with task := fillResult (if poison then noteLine s.task (.res seq) s.task.badRow else s.task) seq x poison }

/-- Release of a core's own writes at device scope: private lines go home (R222, R257). -/
def publish (s : State) : State := l1Release s (coreNum s.task) (some s.task.uid)

/-- The lanes of an indexed store to one row: one update of it (R118, R250); I/O lanes go out one by one (R223). -/
def stxRow (w : Nat) (s : State) (g : Target × List Lane) : State :=
  writeTgt s g.1 false (g.2.map fun x => (x.off, w / 8, x.val))

/-- One lane of an indexed load, its row read by `f`. -/
def ldxLane (f : State → Target → State × Row × Bool) (w : Nat) (a : State × List (Nat × Nat) × Bool) (l : Lane) : State × List (Nat × Nat) × Bool :=
  let (s, d, p) := f a.1 l.tgt
  let x := match l.tgt with
    | .io .. => d.toNat % 2 ^ w
    | _ => d.toNat / 2 ^ (8 * l.off) % 2 ^ w
  (s, a.2.1 ++ [(l.i, x)], a.2.2 || p)

/-- Lines of a region dropped (R279): every line of the 2 MiB region that has a copy collapses. DESIGN CHOICE (log 100): no die writes here, and the region's home counts as the writer in what R234 counts. -/
def collapseRegion (s : State) (p : Nat) (region : Nat) : State :=
  let bound := (allTasks s).flatMap fun t => t.stashRows.flatMap fun r => rowsOf r.src
  let lines := (s.side.l1.filter fun l => l.coh != 0).map L1Line.row
  let rows := (s.side.dir.map DirEntry.row ++ lines ++ s.side.slices.map SliceLine.row ++ bound).filter fun r => r / 2 ^ 14 == region
  rows.eraseDups.foldl (fun s r => collapse s p (regionOf s region).home r keepNone) s

/-- A session that is bound to a partition (R396). -/
def sessionOf (s : State) (num part : Nat) : Option Session :=
  s.ept.sessions.find? fun x => x.num == num && x.part == part && bitAt x.image 0

/-- esend's status and post (R396). -/
def postChunk (s : State) (sess seq deadline : Nat) (row : Row) (bad : Bool) : State × Nat :=
  if (sessionOf s sess s.task.info.part).isNone then (s, 1)
  else if bad then (s, 2)
  else ({ s with task := { s.task with egress := s.task.egress ++ [(sess, seq, deadline, row)] } }, 0)

/-- The dirty bound rows of a range go home (R275, R276, R228). -/
def homeRows (s : State) (first count : Nat) : State :=
  (s.task.stashRows.filter fun r => r.dirty && inPlates first count r.row).foldl
    writeHome s

/-- Bound rows of a range that have been written back are CLEAN. -/
def cleanRows (t : Task) (first count : Nat) : Task :=
  { t with stashRows := t.stashRows.map fun r => if inPlates first count r.row then { r with dirty := false } else r }

/-- Bound rows of a range that are bound no more; the plate keeps their data. -/
def freeRows (t : Task) (first count : Nat) : Task :=
  { t with stashRows := t.stashRows.filter fun r => !inPlates first count r.row }

/-- The rows of plates that have just been bound: EMPTY, zero beneath (R274, R275). -/
def clearPlates (t : Task) (first count : Nat) : Task :=
  { freeRows t first count with
    plates := sclearRange t.plates (128 * first) (128 * (first + count))
    dirty := touchUnits t.dirty ((List.range (128 * count)).map fun k => unitRow (128 * first + k))
    platePoison := t.platePoison.filter fun r => !inPlates first count r }

/-- One virtual row takes an undefined value, and no L1, bound row or replica keeps a copy of it (R349, R351). -/
def wipeRow (s : State) (va : Nat) : State :=
  match translate s s.task.info.part { rd := false, wr := true, task := false } va with
  | .ok (s, .glob va pa coh fmt base bad) =>
    let rows := rowsOf (.glob va pa coh fmt base bad)
    let s := modAllTasks s fun t => emptyRows t fun r => meetsRow r.src (.glob va pa coh fmt base bad)
    let s := (s.side.l1.filter fun l => rows.contains l.row).foldl (fun s l => l1Evict s l (some s.task.uid)) s
    let s := if coh = 0 then s else rows.foldl (fun s r => collapse s s.task.info.part (dieOf s.task) r keepNone) s
    let x := Config.freeRow s.fresh
    let s := { s with fresh := s.fresh + 1 }
    let s := if (packedOf fmt).isNone then clearPoison s rows else s
    writeRows s (some s.task.uid) rows fun m => match packedOf fmt with
      | some k => putPacked (ver1 s.task) m k base (pa / 128) (putOf [(0, 128, x.toNat)])
      | none => writeRow m (pa / 128 * 128) x
  | _ => { s with task := emptyRows s.task fun r => (vasOf r.src).contains va }

/-- Logical rows of a region that are invalidated (R349, R351). -/
def wipe (s : State) (base rb lo hi : Nat) : State :=
  (List.range ((hi + 1 - lo) * rb)).foldl (fun s i => wipeRow s ((base + lo * rb * 128 + i * 128) % 2 ^ 57)) s

/-- One operation takes effect, the operations `before` still waiting. -/
def perform (s : State) (before : List MemOp) (e : MemOp) : State :=
  let t := s.task
  match e.kind with
  | .ld tgt =>
    let (s, d, p) := loadTgt before s tgt
    setResult s e.seq d p
  | .ldx w lanes =>
    let (s, l, p) := lanes.foldl (ldxLane (loadTgt before) w) (s, [], false)
    setResult s e.seq (lanesRow w l) p
  | .ldIter j tgt =>
    let (s, d, p) := iterLoad before s j e.seq tgt
    setResult s e.seq d p
  | .ldxIter j w lanes =>
    let (s, l, p) := lanes.foldl (ldxLane (fun s x => iterLoad before s j e.seq x) w) (s, [], false)
    setResult s e.seq (lanesRow w l) p
  | .st tgt data => writeTgt s tgt true [(0, 128, data.toNat)]
  | .stx w lanes => (groupLanes lanes).foldl (stxRow w) s
  | .amo op ty ret lanes =>
    let (s, l, p) := (groupLanes lanes).foldl (amoRow op ty) (s, [], false)
    if ret then setResult s e.seq (lanesRow (tyWidth ty) l) p else s
  | .red op ty tgt off vals => acceptRed (publish s) op ty tgt off vals
  | .smap f c => { s with task := clearPlates s.task f c }
  | .unbind f c => let s := homeRows s f c; { s with task := freeRows s.task f c }
  | .flush l => l.foldl (fun s p => let s := homeRows s p.1 p.2; { s with task := cleanRows s.task p.1 p.2 }) s
  | .mark | .gate _ => s
  | .wipe base rb lo hi => wipe s base rb lo hi
  | .compact op => releaseOp (publish s) op
  | .fence sc => if sc = 0 then s else l1Acquire (publish s) (coreNum t)
  | .own toEng f c =>
    { s with task := { t with owners := if toEng then t.owners ||| plateBits f c else t.owners &&& ~~~ plateBits f c } }
  | .rinv _ pa => collapseRegion s t.info.part (pa / 2 ^ 21)
  | .release es => es.foldl releaseEntry (publish s)
  | .cstage x =>
    if t.info.sched.isEmpty then s
    else releaseReached (publish { s with task := { t with sc := stageNext t.sc x } })
  | .engine op => releaseOp (publish s) op
  | .barv bar tag bytes loc =>
    let (s, past) := deliverTo (publish s) t.info bar bytes tag
    if past then { s with task := pend s.task { cause := .barOverrun, loc := some loc } } else s
  | .dcnt ctr => decCounter (publish s) t.info.part ctr
  | .spawn rec arg donate =>
    let (s, st, seq) := submitSpawn (publish s) t.info rec arg donate
    if st = 0 ∧ donate then
      modLaunch s seq fun l => { l with parent := some (t.uid, e.seq), parentDl := (findInst s t.info.inst).bind Inst.deadline }
    else setResult s e.seq (row64 (spawnStatus seq st)) false
  | .esend sess n dl row bad =>
    let (s, st) := postChunk s sess n dl row bad
    setResult s e.seq (BitVec.ofNat 1024 st) false

/-! ### The queue -/

/-- The operation at index i performs and leaves the queue. -/
def performAt (s : State) (i : Nat) : State :=
  match s.task.memq[i]? with
  | some e => perform { s with task := { s.task with memq := s.task.memq.eraseIdx i } } (s.task.memq.take i) e
  | none => s

/-- Whether the operation at index i may perform now. -/
def enabledAt (s : State) (i : Nat) : Bool :=
  match s.task.memq[i]? with
  | some e => ready s e && compClear s (s.task.memq.take i) e.kind && rowsThere s e.kind && (i == 0 || mayPass s.task (s.task.memq.take i) e.kind)
  | none => false

/-- Plates that an own to thread at the head of the queue hands back, each as soon as no engine operation names it (R277). -/
def flipSome (s : State) : State := match s.task.memq.head? with
  | some { seq := _, kind := .own false f c } =>
    { s with task := { s.task with owners := s.task.owners &&& ~~~ ((List.range c).foldl (fun b j =>
        if plateIdle s (f + j) then b ||| plateBits (f + j) 1 else b) (0 : BitVec 128)) } }
  | _ => s

/-- The first operation of the queue performs, if it can. -/
def performHead (s : State) : State := if enabledAt s 0 then performAt s 0 else flipSome s

/-- The queue empties from its head as far as it can. -/
def drainN : Nat → State → State
  | 0, s => s
  | n + 1, s => if enabledAt s 0 then drainN n (performAt s 0) else s

/-- Everything that can go, goes. -/
def drainAll (s : State) : State := drainN s.task.memq.length s

/-- A pending operation that a read of a target in its trigger bundle waits for: an own to thread of its plate; of a row that is not a plain plate row, an ordering point and an access to it too. The spec does not say how such a read waits; the model freezes the core before the bundle (log 76). -/
def holdsRead (t : Task) (tgt : Target) : MemKind → Bool
  | .mark | .fence _ | .gate _ | .smap .. => (match tgt with
    | .plate _ => false
    | _ => true)
  | k => (match tgt with
    | .plate _ => false
    | _ => (opTargets t k).any fun b => meets t true k tgt b)

/-- A read of a target in its trigger bundle has to wait. -/
def mustHold (t : Task) (tgt : Target) : Bool :=
  ((localRow tgt).any fun r => !plateFree t t.memq r) || t.memq.any fun e => holdsRead t tgt e.kind

/-- A row read in its trigger bundle as a load triggered there reads it: a descriptor, a command, a round's header, a chunk, a table (R142, R291, R295, R345, R396); none where it must wait. -/
def readNow (s : State) (tgt : Target) : Option (State × Row × Bool) :=
  let t := s.task
  if mustHold t tgt || tgtWaits s (rqOf t) tgt || !compClear s t.memq (.ld tgt) then none
  else some (loadTgt t.memq s tgt)

/-- The index of an operation. -/
def memIdx (t : Task) (seq : Nat) : Option Nat := t.memq.findIdx? fun e => e.seq == seq

/-- The operation with number `seq` performs: at once if it may pass what is before it, else after that. -/
def performSeqN : Nat → State → Nat → State
  | 0, s, _ => s
  | n + 1, s, seq =>
    match memIdx s.task seq with
    | none => s
    | some i =>
      if enabledAt s i then performAt s i
      else if enabledAt s 0 then performSeqN n (performAt s 0) seq
      else s

def performSeq (s : State) (seq : Nat) : State := performSeqN (s.task.memq.length + 1) s seq

/-- The first store-queue operation that may issue (R252). -/
def issueIdx (s : State) : Option Nat :=
  (List.range s.task.memq.length).find? fun i =>
    match s.task.memq[i]? with
    | some e => takesEntry e.kind && enabledAt s i
    | none => false

end Sys2Proof.Machine
end

