-- ==== Sys2Proof/Machine/Frames.lean ====
section
/-! DEFINITION. Context frames: the base image, the header and the control state, deltas, safe-point images, and the frame slots of a partition (R319 to R323, R325 to R327). -/

namespace Sys2Proof.Machine

/-! ### Slots (R319) -/

def frameCount (q : Part) : Nat := fld q.sch.framecnt 15 0

/-- Physical address of slot n. -/
def slotPa (q : Part) (n : Nat) : Nat := fld q.sch.framebase 51 22 * 2 ^ 22 + n * 2 ^ 22

/-- The lowest free slot: the device's choice (log 15). -/
def freeSlot (q : Part) : Option Nat := (List.range (frameCount q)).find? fun n => !q.sch.slotsUsed.contains n

/-- The slot that a task would leave its core with. -/
def slotFor (s : State) (t : Task) : Option Nat := match t.frame.slot with
  | some n => some n
  | none => freeSlot (getPart s t.info.part)

def takeSlot (s : State) (n : Nat) : State :=
  let p := s.task.info.part
  let s := { s with task := { s.task with frame := { s.task.frame with slot := some n } } }
  if (getPart s p).sch.slotsUsed.contains n then s else modPS s p fun q => { q with slotsUsed := n :: q.slotsUsed }

def dropSlot (s : State) (t : Task) : State := match t.frame.slot with
  | some n => modPS s t.info.part fun q => { q with slotsUsed := q.slotsUsed.filter (· != n) }
  | none => s

/-! ### The image (R320, R321) -/

/-- A field of an image: n bytes at an offset. -/
def at_ (off n v : Nat) : Nat := v % 2 ^ (8 * n) * 2 ^ (8 * off)

/-- Consecutive w-byte fields. -/
def atL (off w : Nat) (l : List Nat) : Nat := packN (8 * w) l * 2 ^ (8 * off)

/-- The code of a freeze (R321). -/
def freezeCode : Freeze → Nat
  | .bwait .. => 1 | .hbw _ => 2 | .fence _ => 3 | .fsc _ => 4 | .rejoin _ => 6
  | _ => 0

/-- The first freeze that FREEZE can name (log 18). -/
def freezeOf (t : Task) : Nat := (t.freeze.findSome? fun f => if freezeCode f = 0 then none else some (freezeCode f)).getD 0

/-- A task whose spawnd child runs (R205). -/
def awaitsChild (s : State) (uid : Nat) : Bool :=
  s.sched.launches.any fun l => l.parent.elim false fun p => p.1 == uid

def stashWord (e : StashEntry) : Nat := e.vbase * 2 ^ 64 + b2n e.wb * 2 ^ 16 + e.count * 2 ^ 8 + e.first * 2 + b2n e.valid

def barWord (b : Barrier) : Nat := wrapN 32 b.pend + b2n b.phase * 2 ^ 32 + b2n b.posted * 2 ^ 33 + b2n b.broken * 2 ^ 34

/-- Whether the task keeps its team's barriers: the lowest x of those that hold the set. -/
def keepsBars (s : State) (t : Task) : Bool :=
  (allTasks s).all fun u => !(sameTeam u.info t.info && decide (u.info.x < t.info.x))

/-- An entry after the entries of no greater index: they stand in value order before it. -/
def insIdx (c : Cand) : List Cand → List Cand
  | [] => [c]
  | d :: t => if c.idx.toNat < d.idx.toNat then c :: d :: t else d :: insIdx c t

/-- The list in its current order (R144): index order breaks ties by value order. -/
def lakeView (l : Lake) : List Cand := if l.ord then l.entries.foldl (fun a c => insIdx c a) [] else l.entries

/-- Frame header and control state. -/
def imageHead (s : State) (t : Task) : Nat :=
  at_ 0x000 2 1
    + at_ 0x002 2 (b2n t.frame.safePt + 2 * b2n (decide (2 ≤ t.fused.length)) + 4 * b2n (t.freeze.any fun f => freezeCode f == 6)
        + 8 * b2n (t.spec.phase == .guess || t.spec.phase == .spec))
    + at_ 0x008 8 t.info.seqno + at_ 0x010 8 t.info.recAddr + at_ 0x018 4 (crdVal t.info).toNat + at_ 0x01C 4 t.frame.ndelta
    + at_ 0x020 8 t.frame.savedAt + at_ 0x028 8 t.frame.loglen
    + at_ 0x100 8 t.regs.pc + at_ 0x108 8 t.regs.cyc + at_ 0x110 8 t.time.wctUsed + at_ 0x118 8 t.time.waitN
    + at_ 0x120 8 ((t.freeze.findSome? fun f => match f with | .hbw x => some (2 ^ 63 + x % 2 ^ 63) | _ => none).getD 0)
    + at_ 0x128 8 ((t.freeze.findSome? fun f => match f with | .rejoin m => some (m % 256) | _ => none).getD 0)
    + at_ 0x130 8 (packN 1 ((List.range 8).map fun k => b2n (t.regs.getP (BitVec.ofNat 3 k))))
    + at_ 0x138 8 (packN 1 (t.ports.map fun l => b2n l.held)) + at_ 0x140 8 (packN 1 (t.ports.map fun l => b2n l.full))
    + at_ 0x148 8 (16 * (t.lq.length % 32)) + at_ 0x150 16 t.owners.toNat
    + at_ 0x160 8 ((if awaitsChild s t.uid then 5 else freezeOf t)
        + ((t.freeze.findSome? fun f => match f with | .bwait b par _ => some (b % 64 * 2 ^ 8 + b2n par * 2 ^ 16) | _ => none).getD 0))

/-- Offsets 0x00_0000 to 0x00_7FFF of the image as one number. -/
def imageLow (s : State) (t : Task) : Nat :=
  let r := t.regs
  imageHead s t
    + atL 0x200 8 (r.s.toList.map BitVec.toNat) + atL 0x400 16 ((List.range 8).map fun k => (r.getM (BitVec.ofNat 3 k)).toNat)
    + atL 0x480 8 (r.tcfg.toList.map BitVec.toNat ++ [r.acp, r.rrb, r.lc, r.ec, r.mcfg, r.pcfg, t.time.rngs, t.time.sysr].map BitVec.toNat)
    + atL 0x500 8 ((lakeView t.lake).map fun c => c.val.toNat + c.idx.toNat * 2 ^ 32)
    + at_ 0x700 8 (t.lake.entries.length + 256 * b2n t.lake.ord)
    + atL 0x800 16 (t.stash.map stashWord)
    + (if keepsBars s t then atL 0x900 8 ((List.range 64).map fun n => barWord (getBar s t.info n)) else 0)
    + atL 0xB00 8 (t.uint.queue.map BitVec.toNat)
    + atL 0xB80 8 (t.uint.shS.map BitVec.toNat ++ [packN 1 (t.uint.shP.map b2n), t.uint.shRrb.toNat])
    + at_ 0xC00 1 t.sc + at_ 0xC20 32 (packN 1 ((List.range 256).map fun e => b2n (t.released.contains e)))
    + atL 0x1000 128 (r.v.toList.map BitVec.toNat)
    + atL 0x2000 128 (t.lq.map fun e => (e.val.getD 0).toNat)
    + atL 0x3000 128 (t.ports.map fun l => l.val.toNat)

/-- The fixed offset of sysr in an image. -/
def sysrOff : Nat := 0x480 + 15 * 8

/-- Accumulator rows by their first entry's key: row q holds keys 96q to 96q + 95. -/
def accRow (m : Matrix) (q : Nat) : Nat := packN 32 ((List.range 96).map fun c => (sget m.acc (96 * q + c)).toNat)

def accRowsOf (a : Sparse 32) : List Nat := (a.map fun e => e.1 / 96).eraseDups

/-- A write to a frame stays inside the blocks of the task's partition: a pool that system software placed elsewhere harms no other partition (R6, R319). -/
def frameWrite (s : State) (pa n : Nat) (wr : List Host.Cell → List Host.Cell) : State :=
  if ownerOf s pa = some s.task.info.part then writeDev s none pa n wr else s

/-- Rows of a frame that is being written, by their number from `pa`. -/
def frameRows (s : State) (pa : Nat) (l : List (Nat × Row)) : State :=
  l.foldl (fun s e => frameWrite s (pa + 128 * e.1) 128 fun m => writeRow m (pa + 128 * e.1) e.2) s

/-- Bytes of a frame set to zero. -/
def frameClear (s : State) (pa n : Nat) : State := frameWrite s pa n fun m => sclearRange m pa (pa + n)

/-- The device-private section: values that no rule states, one undefined row each (log 2). -/
def privateRows (fresh : Nat) : List (Nat × Row) := (List.range 768).map fun i => (0x100 + i, Config.freeRow (fresh + i))

/-- 128 B rows of a number, from row lo to row hi − 1. -/
def numRows (x lo hi : Nat) : List (Nat × Row) :=
  (List.range (hi - lo)).map fun i => (lo + i, BitVec.ofNat 1024 (x / 2 ^ (1024 * (lo + i)) % 2 ^ 1024))

/-- A whole base image into slot n. -/
def saveBase (s : State) (n : Nat) : State :=
  let pa := slotPa (getPart s s.task.info.part) n
  let s := { s with task := { s.task with frame := { s.task.frame with ndelta := 0, loglen := 0, savedAt := s.clk.ftime, sysrAt := pa + sysrOff } } }
  let t := s.task
  let s := frameClear s pa 0x2C0000
  let s := frameRows s pa (numRows (imageLow s t) 0 0x100 ++ privateRows s.fresh
    ++ t.tiles.map (fun e => (0x400 + e.1, e.2))
    ++ (accRowsOf t.mx.acc).flatMap (fun q => (numRows (accRow t.mx q) 0 3).map fun e => (0xC00 + 3 * q + e.1, e.2))
    ++ t.plates.map (fun e => (0x1800 + e.1, e.2)))
  { s with fresh := s.fresh + 768 }

/-- The dirty units of a delta: pages, tile segments, accumulator rows, scratchpad rows. -/
structure Dirty where
  pages : List Nat
  segs : List Nat
  accs : List Nat
  rows : List Nat
  deriving DecidableEq, Repr

/-- The numbers below n whose bits of a mask are set. -/
def bitsSet (x n : Nat) : List Nat := (List.range n).filter fun k => x.testBit k

/-- What a delta holds (R322): every unit written since the latest save or restore, page 0 with the header and the control state always; of the device-private pages, whose layout no rule gives, all or none (log 16): all where a plane has been written, the round has changed, or an engine operation of the task is paused now or was at the latest save. -/
def dirtyOf (old new : Task) (paused : Bool) : Dirty :=
  let same := !new.dirty.testBit (unitPage 8) && old.spec == new.spec && !paused && old.dirty == 0
  let priv := if same then [] else (List.range 24).map (· + 8)
  { pages := bitsSet (touchUnit new.dirty 0) 8 ++ priv, segs := bitsSet (new.dirty / 2 ^ 32) 2048
    accs := bitsSet (new.dirty / 2 ^ 2080) 1024, rows := bitsSet (new.dirty / 2 ^ 3104) 16384 }

/-- Bytes of a delta. -/
def deltaLen (d : Dirty) : Nat := 0xA00 + 4096 * d.pages.length + 128 * d.segs.length + 384 * d.accs.length + 128 * d.rows.length

def bitSet (l : List Nat) : Nat := l.foldl (fun x k => x ||| 2 ^ k) 0

/-- A delta appended to the log (R322). -/
def saveDelta (s : State) (n : Nat) (d : Dirty) : State :=
  let q := getPart s s.task.info.part
  let base := slotPa q n
  let pa := base + 0x2C0000 + s.task.frame.loglen
  let len := deltaLen d
  let s := { s with task := { s.task with frame := { s.task.frame with
    ndelta := s.task.frame.ndelta + 1, loglen := s.task.frame.loglen + len, savedAt := s.clk.ftime, sysrAt := pa + 0xA00 + sysrOff } } }
  let t := s.task
  let low := imageLow s t
  let head := at_ 0 4 t.frame.ndelta + at_ 8 4 len + at_ 0x40 4 (bitSet d.pages) + at_ 0x80 256 (bitSet d.segs)
    + at_ 0x180 128 (bitSet d.accs) + at_ 0x200 2048 (bitSet d.rows)
  let units : List Row :=
    d.pages.flatMap (fun p => if p < 8 then (numRows low (32 * p) (32 * p + 32)).map Prod.snd
      else (List.range 32).map fun i => Config.freeRow (s.fresh + 32 * p + i))
    ++ d.segs.map (sget t.tiles)
    ++ d.accs.flatMap (fun a => (numRows (accRow t.mx a) 0 3).map Prod.snd)
    ++ d.rows.map (sget t.plates)
  let s := frameClear s pa len
  let s := frameRows s pa (numRows head 0 20 ++ (List.range units.length).map fun i => (20 + i, nth units i 0))
  -- The header in the base image is updated last: NDELTA, SAVED, LOGLEN.
  let s := frameWrite s base 128 fun m => writeN (writeN (writeN m (base + 0x1C) 4 t.frame.ndelta) (base + 0x20) 8 t.frame.savedAt) (base + 0x28) 8 t.frame.loglen
  { s with fresh := s.fresh + 1024 }

def savedCopy (s : State) (uid : Nat) : Option Task := (s.sched.saves.find? fun x => x.uid == uid).map Standing.image

/-- The latest save, kept; its `dirty` says whether it held a paused operation. -/
def noteSave (s : State) : State :=
  { s with sched := { s.sched with saves := { uid := s.task.uid, image := { s.task with dirty := b2n (!(opsOf s s.task.uid).isEmpty) }, bars := [] } :: s.sched.saves.filter fun x => x.uid != s.task.uid } }

/-- What a task's frame holds in memory, but for sysr in the base image and in the newest one, which software may write (R320). -/
def frameCells (s : State) (t : Task) : List Host.Cell := match t.frame.slot with
  | none => []
  | some n =>
    let pa := slotPa (getPart s t.info.part) n
    let sysr := fun (a : Nat) => (decide (pa + sysrOff ≤ a) && decide (a < pa + sysrOff + 8))
      || (decide (t.frame.sysrAt ≤ a) && decide (a < t.frame.sysrAt + 8))
    s.mem.filter fun c => decide (pa ≤ c.1) && decide (c.1 < pa + 0x2C0000 + t.frame.loglen) && !sysr c.1

/-- A save (R322): a base image first, then deltas while the log holds them. -/
def saveFrame (s : State) (n : Nat) (safePt : Bool) : State :=
  let s := { s with task := { s.task with frame := { s.task.frame with safePt := safePt } } }
  let s := match savedCopy s s.task.uid with
    | some old =>
      let d := dirtyOf old s.task (!(opsOf s s.task.uid).isEmpty)
      if s.task.frame.loglen + deltaLen d ≤ 0x140000 then saveDelta s n d else saveBase s n
    | none => saveBase s n
  noteSave { s with task := { s.task with frame := { s.task.frame with kept := frameCells s s.task }, dirty := 0 } }

/-- Software may have written sysr in the newest image (R320). -/
def loadSysr (s : State) : State :=
  { s with task := { s.task with time := { s.task.time with sysr := BitVec.ofNat 64 (readN s.mem s.task.frame.sysrAt 8) } } }

/-! ### Safe points (R326, R327) -/

/-- The entry of the map that an spt names, if its BUNDLE is the spt's own. -/
def lmapEntry (t : Task) (n pc : Nat) : Option (BitVec 256) :=
  match t.info.lmap[n]? with
  | some e => if fld e (8 * 0x12 + 12) (8 * 0x12) = pc then some e else none
  | none => none

/-- n undefined bits. -/
def freeBits (fresh w : Nat) : Nat := (Config.freeRow fresh).toNat % 2 ^ w

/-- Whether a safe-point map lists a register, the physical s, v and p registers that it names being given (R326, R327). -/
def mapLists (e : BitVec 256) (keepS keepV keepP : List Nat) : RegDst → Bool
  | .s n => keepS.contains n.toNat
  | .v n => keepV.contains n.toNat
  | .p n => keepP.contains n.toNat
  | .m n => bitAt e (104 + n.toNat)
  | .tcfg n => bitAt e (112 + n.toNat)
  | .acp => bitAt e 121
  | .mcfg | .pcfg => bitAt e 123
  | .rrb | .lc | .ec => true

/-- After a safe-point restore every register and latch that the map does not list holds an undefined value, field by field, whose reading never traps (R327). Names are logical under rrb. DESIGN CHOICE (log 100): where the spt's own bundle moves rrb, that is rrb as it stands after the bundle. -/
def scramble (t : Task) (e : BitVec 256) (f : Nat) : Task :=
  let r := t.regs
  let rr := r.rrb
  let keepS := (List.range 64).filterMap fun k => if bitAt e k then some (renS rr (BitVec.ofNat 6 k)).toNat else none
  let keepV := (List.range 32).filterMap fun k => if bitAt e (64 + k) then some (renV rr (BitVec.ofNat 5 k)).toNat else none
  let keepP := (List.range 8).filterMap fun k => if bitAt e (96 + k) then some (renP rr (BitVec.ofNat 3 k)).toNat else none
  let mx := bitAt e 123
  let lake := bitAt e 122
  let acc := bitAt e 121
  let latch := bitAt e 120
  let plane := fun (n : Nat) =>
    { fmt := freeBits (f + n) 4, nc := freeBits (f + n + 1) 8, rows := freeBits (f + n + 2) 16
      data := (List.range 1024).foldl (fun d j => sset d j (Config.freeRow (f + n + 16 + j))) [], lost := [] : Plane }
  { t with
    regs := { r with
      s := Vector.ofFn fun i => if keepS.contains i.val then r.s.get i else BitVec.ofNat 64 (freeBits (f + i.val) 64)
      v := Vector.ofFn fun i => if keepV.contains i.val then r.v.get i else Config.freeRow (f + 64 + i.val)
      p := Vector.ofFn fun i => if keepP.contains i.val then r.p.get i else freeBits (f + 96 + i.val) 1 == 1
      m := Vector.ofFn fun i => if bitAt e (104 + i.val) then r.m.get i else BitVec.ofNat 128 (freeBits (f + 104 + i.val) 128)
      tcfg := Vector.ofFn fun i => if bitAt e (112 + i.val) then r.tcfg.get i else BitVec.ofNat 64 (freeBits (f + 112 + i.val) 64) &&& keepTcfg
      acp := if acc then r.acp else BitVec.ofNat 64 (freeBits (f + 120) 64) &&& keepAcp
      mcfg := if mx then r.mcfg else BitVec.ofNat 64 (freeBits (f + 121) 64) &&& keepMcfg
      pcfg := if mx then r.pcfg else BitVec.ofNat 64 (freeBits (f + 122) 64) &&& keepPcfg
      poison := r.poison.filter (mapLists e keepS keepV keepP) }
    ports := if latch then t.ports else (List.range 37).map fun i =>
      { val := Config.freeRow (f + 128 + i), full := freeBits (f + 165 + i) 1 == 1, held := freeBits (f + 202 + i) 1 == 1 : Latch }
    tiles := (List.range 8).foldl (fun m k => if bitAt e (112 + k) then m
      else (List.range 256).foldl (fun m i => sset m (256 * k + i) (Config.freeRow (f + 1000 + 256 * k + i))) m) t.tiles
    tilePoison := t.tilePoison.filter fun k => bitAt e (112 + k / 256)
    lake := if lake then t.lake else
      { entries := (List.range (freeBits (f + 240) 7 % 65)).map fun i =>
          { val := BitVec.ofNat 32 (freeBits (f + 300 + i) 32), idx := BitVec.ofNat 32 (freeBits (f + 400 + i) 32) : Cand }
        ord := freeBits (f + 241) 1 == 1 }
    mx := { active := if mx then t.mx.active else plane 4000, shadow := if mx then t.mx.shadow else plane 6000
            acc := if acc then t.mx.acc else (List.range 98304).foldl (fun m i => sset m i (BitVec.ofNat 32 (freeBits (f + 10000 + i) 32))) t.mx.acc } }

/-- A freeze that an undefined FREEZE, HBT and PARK may name. -/
def freeFreeze (f : Nat) : List Freeze := match freeBits f 3 with
  | 1 => [.bwait (freeBits (f + 1) 6) (freeBits (f + 2) 1 == 1) 0]
  | 2 => [.hbw (freeBits (f + 1) 63)]
  | 3 => [.fence (freeBits (f + 1) 2)]
  | 4 => [.fsc none]
  | 6 => [.rejoin (freeBits (f + 1) 8)]
  | _ => []

/-- A task restored from a frame that software has altered: what the frame's named fields hold is undefined (R320). -/
def spoil (t : Task) (f : Nat) : Task :=
  let t := scramble t 0 f
  let g := f + 2 ^ 18
  { t with
    regs := { t.regs with
      pc := freeBits g 13, cyc := freeBits (g + 1) 64, rrb := BitVec.ofNat 64 (freeBits (g + 2) 64) &&& keepRrb
      lc := BitVec.ofNat 64 (freeBits (g + 3) 64), ec := BitVec.ofNat 64 (freeBits (g + 4) 64), poison := [] }
    time := { t.time with
      wctUsed := freeBits (g + 5) 64, waitN := freeBits (g + 6) 16, rngs := BitVec.ofNat 64 (freeBits (g + 7) 1) }
    owners := BitVec.ofNat 128 (freeBits (g + 8) 128)
    sc := freeBits (g + 9) 8
    released := (List.range 256).filter fun e => bitAt (Config.freeRow (g + 10)) e
    freeze := freeFreeze (g + 11)
    lq := (List.range (freeBits (g + 14) 5 % 17)).map fun i => { seq := 0, val := some (Config.freeRow (g + 20 + i)), poison := false : LqEntry }
    stash := (List.range 16).map fun i =>
      { valid := freeBits (g + 40 + i) 1 == 1, vbase := freeBits (g + 60 + i) 57 / 128 * 128, wb := freeBits (g + 80 + i) 1 == 1
        count := freeBits (g + 100 + i) 8 % 129, first := freeBits (g + 120 + i) 7 : StashEntry }
    uint := { t.uint with
      queue := (List.range (freeBits (g + 140) 5 % 17)).map fun i => BitVec.ofNat 64 (freeBits (g + 141 + i) 64)
      shS := (List.range 8).map fun i => BitVec.ofNat 64 (freeBits (g + 160 + i) 64)
      shP := (List.range 3).map fun i => freeBits (g + 170 + i) 1 == 1, shRrb := BitVec.ofNat 64 (freeBits (g + 173) 64) &&& keepRrb }
    plates := (List.range 16384).foldl (fun m i => sset m i (Config.freeRow (g + 200 + i))) [], platePoison := [] }

end Sys2Proof.Machine
end

