-- ==== Sys2Proof/Machine/Ops.lean ====
section
/-! DEFINITION. The operations that every meaning shares: landing what is in flight, the release on leaving a core, taking a trap, leaving and resuming a core, ending and killing a task (R33, R39, R40, R251, R309, R312, R322 to R335). -/

namespace Sys2Proof.Machine

/-! ### Landing and release -/

/-- R39: pending memory operations perform as far as they can, then everything lands. -/
def landAll (s : State) : State :=
  let s := drainAll s
  { s with task := landEarly s.task }

/-- Dirty bound rows go home and every bound row becomes EMPTY (R228). -/
def stashOut (s : State) : State :=
  let rows := s.task.stashRows
  let s := (rows.filter StashRow.dirty).foldl writeHome s
  { s with task := emptyRows s.task fun _ => true }

/-- The release of R251, once the store queue is empty: private lines and bound rows go home. -/
def releaseOut (s : State) : State := stashOut (publish s)

/-! ### Groups (R185 to R187, R365) -/

def isEnded (t : Task) : Bool := match t.place with
  | .ended _ => true
  | _ => false

/-- The tasks that one fetch drives: the fused members by x, and every copy of each by INDEX. -/
def groupOfTask (s : State) : List Nat :=
  let base := if s.task.fused.length < 2 then [s.task.uid] else s.task.fused
  let mates := fun (t : Task) => (allTasks s).filter fun u =>
    u.info.setLog != 0 && u.info.inst == t.info.inst && u.info.x == t.info.x && u.info.y == t.info.y && u.info.z == t.info.z
      && u.info.stg == t.info.stg && u.info.copy != t.info.copy && !isEnded u
  let copies := (base.filterMap (findTask s)).flatMap mates
  let all := base.filterMap (findTask s) ++ copies
  ((List.range 64).flatMap fun n => (all.filter fun t => t.info.x * 8 + t.info.copy == n).map Task.uid).eraseDups

/-- The leader: lowest x of the lowest copy. -/
def leadOf (s : State) (l : List Nat) : Nat :=
  match (l.filterMap (findTask s)).foldl (fun (a : Option Task) t => match a with
      | none => some t
      | some b => if t.info.copy * 8 + t.info.x < b.info.copy * 8 + b.info.x then some t else some b) none with
  | some t => t.uid
  | none => s.task.uid

/-- Whether one fetch drives other cores with the task's: a fused group or a broadcast gang. -/
def grouped (t : Task) : Bool := decide (2 ≤ t.fused.length) || t.info.setLog != 0

/-! ### Ends -/

/-- The job of a task's partition (R389). -/
def jobOf (s : State) (uid : Nat) : Nat := match findTask s uid with
  | some t => fld (getPart s t.info.part).res.job 23 0
  | none => 0

/-- MYRANK of a command row. -/
def rankOf (o : EngOp) : Nat := bitsOf o.desc (8 * 0x24) 16

/-- OP, ROOT and COUNT of a command row, and what else a packet says of the rank. -/
def headOf (o : EngOp) (gone : Bool) : CollHead :=
  { op := bitsOf o.desc (8 * 0x28) 3, root := bitsOf o.desc (8 * 0x26) 16, count := bitsOf o.desc (8 * 0x20) 32, ranks := o.ranks, bad := o.bad, gone := gone }

/-- Nodes of a group; `none` where a reserved field is not 0 (R296). -/
def groupNodes (n raw : Nat) : Option (List Nat) :=
  let l := (List.range n).map fun k => raw / 2 ^ (32 * k) % 2 ^ 32
  if l.any fun e => decide (2 ^ 21 ≤ e) then none else some l

def ownNode (s : State) : Nat := fld s.ept.node 20 0

/-- The nodes of a collective's ranks beside this device's own. -/
def farNodes (s : State) (o : EngOp) : List Nat := (o.nodes.filter (· != ownNode s)).eraseDups

/-- A started collective whose engine has not read its group yet, with the group as it can be read now (R296, R298). -/
def withGroup (s : State) (o : EngOp) : EngOp :=
  let part := (findTask s o.owner).elim 0 fun t => t.info.part
  let (g, n) := collGroup s part o
  let m := min n 65536
  { o with
    after := g, ranks := n
    nodes := ((readVirt s part accData ((bitsOf o.desc 128 57 + 16) % 2 ^ 57) (4 * m)).toOption.bind (groupNodes m)).getD [] }

/-- The packet of a rank's operation (R389). -/
def packetOf (s : State) (o : EngOp) (gone : Bool) : CollPacket :=
  { part := (findTask s o.owner).elim 0 fun t => t.info.part, job := jobOf s o.owner, gid := BitVec.ofNat 32 (o.after - 1)
    tag := BitVec.ofNat 64 o.start, rank := rankOf o, head := headOf o gone, data := if gone then [] else o.buf }

/-- The ranks of a collective learn that one of them is gone: those whose operation runs complete with ABORTED_PEER, the others as they start (R298). -/
def rankGone (s : State) (after tag job ranks rank : Nat) : State :=
  let mine := fun (p : EngOp) => p.kind == .coll && p.after == after && p.start == tag && jobOf s p.owner == job && decide (p.steps ≤ 1) && p.status == 0
  let met := rank :: (s.sched.ops.filter mine).map rankOf
  { s with sched := { s.sched with
      ops := s.sched.ops.map fun p => if mine p then { p with status := 1 } else p
      gone := s.sched.gone ++ [{ after := after, tag := tag, job := job, left := (List.range (min ranks 65536)).filter fun k => !met.contains k }] } }

/-- Other ranks of a collective whose rank ends before it has contributed complete with ABORTED_PEER: those whose coll has started at once, the others as they start (R298); those elsewhere learn it by a packet. Where some nodes have not had the contribution yet, it is they that learn it. -/
def abortPeers (s : State) (o : EngOp) : State :=
  let o := if o.kind = .coll ∧ o.steps = 0 then withGroup s o else o
  let tell := fun (s : State) (l : List Nat) => { s with ept := { s.ept with rud := s.ept.rud ++ l.map fun n => (n, packetOf s o true) } }
  if o.kind ≠ .coll ∨ o.after = 0 ∨ 2 ≤ o.steps then s
  else if o.steps = 0 ∨ o.row < o.total then tell (rankGone s o.after o.start (jobOf s o.owner) o.ranks (rankOf o)) (farNodes s o)
  else tell s o.toSend

/-- Collectives that have been triggered and not released: they have started (R298). -/
def pendingColls (s : State) : List EngOp :=
  s.task.memq.filterMap fun e => match e.kind with
    | .engine o => some { o with owner := s.task.uid }
    | _ => none

/-- A task's operations go: rows written stay, no completion step (R284). -/
def dropOps (s : State) (uid : Nat) : State :=
  { s with sched := { s.sched with ops := s.sched.ops.filter fun o => o.owner != uid } }

/-- A task that ends abandons its operations; the ranks that wait for one of its contributions learn of it (R298). -/
def abandonOps (s : State) (uid : Nat) : State := (opsOf s uid).foldl abortPeers (dropOps s uid)

/-- A team's barriers go when its last task has ended (R300). -/
def dropBars (s : State) (i : TaskInfo) : State :=
  if (allTasks s).all fun t => !sameTeam t.info i || isEnded t then
    { s with sched := { s.sched with barSets := s.sched.barSets.filter fun b => !isSet i b } }
  else s

/-- The task has ended: its chunks go to the endpoint, its slot frees, its queued interrupts go, its instance counts it (R184, R307, R309). -/
def endTask (s : State) (ok : Bool) : State :=
  let t := s.task
  let s := dropSlot s t
  let s := { s with
    task := { t with place := .ended ok, freeze := [], pending := [], fused := [], frame := { t.frame with slot := none }
                     uint := { t.uint with queue := [] }, time := { t.time with ladder := if ok then .off else .dead } } }
  let s := { s with
    sched := { s.sched with saves := s.sched.saves.filter fun x => x.uid != t.uid }
    mir := { s.mir with standing := s.mir.standing.filter fun x => x.uid != t.uid, written := s.mir.written.filter fun w => w.1 != t.uid } }
  let s := { s with ept := { s.ept with egressQ := s.ept.egressQ ++ t.egress }, task := { s.task with egress := [] } }
  let s := modInst s t.info.inst fun i => { i with tasksLeft := i.tasksLeft - 1, failed := i.failed || !ok }
  let s := dropBars s t.info
  modAllTasks s fun u => { u with fused := u.fused.filter (· != t.uid) }

/-- The LOC field of a record (R315). -/
def locOf (t : Task) (c : Trap) : Nat := c.loc.getD (c.slot * 2 ^ 13 + t.regs.pc)

/-- The record of a trap (R315): SLOT for a task that is off its core, FTIME of the moment at which it was raised. -/
def trapRec (t : Task) (c : Trap) : RecData :=
  { taskRec t with
    cause := causeCode c.cause, kind := c.kind, lane := c.lane, loc := locOf t c, addr := c.addr, info1 := c.info, info2 := c.info2
    slot := if onCore t then 0xffff else t.frame.slot.getD 0xffff, ftime := c.at_ }

/-- What makes two faults of a class F instance the same fault (R335): the core of a MACHINE_CHECK; of POISON the line that the consumed data came from (log 17). -/
def faultKey (t : Task) (c : Trap) : Nat := match c.cause with
  | .machineCheck => 2 ^ 70 + coreNum t
  | _ => c.line.getD t.badRow

/-- A class F instance that has not failed is replayed for POISON and MACHINE_CHECK, once for each fault, while its tile can be replayed (R309, R330, R335, R368). -/
def replayable (s : State) (c : Trap) : Bool :=
  let t := s.task
  (c.cause == .poison || c.cause == .machineCheck) && t.info.cls == 0
    && (s.mir.standing.any fun x => x.uid == t.uid)
    && match findInst s t.info.inst with
      | some i => !i.failed && !i.unreplayable && !i.lastFault.contains (faultKey t c)
      | none => false

/-- A task waits for its replay. -/
def toReplay (t : Task) : Task := match coreOf t with
  | some (d, c, k) => { t with place := .replay d c k, freeze := [], pending := [] }
  | none => t

def inReplay (t : Task) : Bool := match t.place with
  | .replay .. => true
  | _ => false

/-- A task of an instance that is to be replayed leaves its core once its store queue is empty (R251, R335). -/
def replayLeave (s : State) : State :=
  let s := drainAll s
  if s.task.memq ≠ [] then s
  else let s := dropOps (releaseOut s) s.task.uid; { s with task := toReplay s.task }

/-- The tasks of the instance that run leave for its replay: FAILOVER takes it up on the partner (R335). -/
def awaitReplay (s : State) (c : Trap) : State :=
  let t := s.task
  let s := modInst s t.info.inst fun i => { i with lastFault := faultKey t c :: i.lastFault }
  let mates := ((allTasks s).filter fun u => u.info.inst == t.info.inst && onCore u).map Task.uid
  let s := mates.foldl (fun s u => modTask s u fun t => { t with freeze := [.replayWait], pending := [] }) s
  focus (mates.foldl (fun s u => replayLeave (focus s u)) s) t.uid

/-- The end of a terminal trap once everything has landed and the release is made: its record is written, the instance of class F that is replayed for it goes on (R309, R335). -/
def terminalEnd (s : State) (c : Trap) (report : Bool) : State :=
  let s := releaseOut s
  let s := if report then raiseRec s (trapRec s.task c) false else s
  if inReplay s.task || s.task.freeze.contains .replayWait then s
  else if replayable s c then awaitReplay s c
  else
    let s := abandonOps s s.task.uid
    endTask { s with task := { s.task with spec := Madder.idle, memq := [], flights := [] } } false

/-- The kill of R330, of one task; `report` is false for the members of a group beside the one that is reported (R187, R309). -/
def killTask (s : State) (report : Bool) : State :=
  let s := (pendingColls s).foldl abortPeers s
  let s := { s with task := { s.task with memq := [], flights := [], spec := Madder.idle } }
  let s := abandonOps (releaseOut s) s.task.uid
  let s := if report then raiseRec s (trapRec s.task { cause := .killed }) false else s
  let s := modPS s s.task.info.part fun q => { q with anyKilled := q.anyKilled || q.stopping == 1 }
  endTask { s with task := { s.task with regs := Regs.zero, tiles := [], plates := [], mx := { active := Plane.empty, shadow := Plane.empty, acc := [] } } } false

/-- The kill of the focus task, with the group that one fetch drives: one record, for the member `rep` (R187, R309, R330). -/
def killGroup (s : State) (rep : Nat) : State :=
  let me := s.task.uid
  focus ((groupOfTask s).foldl (fun s u => killTask (focus s u) (u == rep)) s) me

/-- The member of the focus task's group that a cause of several members is reported for: the lowest x of those that have it (R187). -/
def lowestOf (s : State) (has : Task → Bool) : Nat := ((groupOfTask s).find? fun u => (findTask s u).any has).getD s.task.uid

/-- Tasks are killed, each with its group, reported for its lowest x; the focus stays. -/
def killEach (s : State) (l : List Nat) : State :=
  focus (l.foldl (fun s u => if (findTask s u).all isEnded then s
    else let s := focus s u; killGroup s (lowestOf s fun t => !isEnded t)) s) s.task.uid

/-! ### Leaving a core (R312, R322, R324, R329) -/

/-- Why a task leaves its core in the middle of a run. -/
inductive Why where
  | fault (c : Trap) (report : Bool)
  | sys (service loc at_ : Nat)
  | child
  | halt
  | safePoint (entry : BitVec 256)
  deriving DecidableEq, Repr

/-- The place a task goes to: a retryable record's, a child's, or the wait for its save (R324, R329). -/
def placeAfter (t : Task) (n : Nat) : Why → Place
  | .fault .. | .sys .. => .onRecord n
  | .child => .onChild n
  | .halt | .safePoint _ => match coreOf t with
    | some (d, c, k) => .saving n d c k
    | none => .ready n

/-- The retryable record of a leave, if it has one (R312, R315, R324). -/
def leaveRec (s : State) (t : Task) : Why → State
  | .fault c true => raiseRec s { trapRec t c with slot := t.frame.slot.getD 0xffff } true
  | .sys n loc now => raiseRec s { taskRec t with cause := 0, kind := 6, loc := loc, info1 := n, info2 := (t.regs.getS 0).toNat, ftime := some now } true
  | _ => s

/-- One more freeze of the core. -/
def freezeWith (s : State) (f : Freeze) : State := { s with task := { s.task with freeze := s.task.freeze ++ [f] } }

def thaw (s : State) (f : Freeze) : State := { s with task := { s.task with freeze := s.task.freeze.filter (· != f) } }

/-- A freeze that a leave ends; one that the frame keeps is entered again on restore (R109, R321). A fence's bwait, tick or park goes into the frame; an fsc whose release the leave has completed waits for the next tick after it (R263). -/
def keepFreeze (hb : Nat) : Freeze → Option Freeze
  | .faultWait _ | .sysWait .. | .safePoint _ | .stall | .flush | .replayWait | .halt => none
  | .fsc none => some (.fsc (some (hb + 1)))
  | f => some f

/-- The task leaves its core now: everything has landed, a slot is there. Of a safe-point image only what its map lists is kept (R109, R327). -/
def leaveNow (s : State) (n : Nat) (why : Why) : State :=
  let s := takeSlot (releaseOut s) n
  let t := s.task
  let s := { s with task := { t with freeze := t.freeze.filterMap (keepFreeze s.clk.hb), time := { t.time with
    nleft := (t.time.nleft + 1) % 2 ^ 64, ladder := match why with
      | .halt | .safePoint _ => match t.time.ladder with
        | .asked a | .halting a => .halting a
        | _ => .halting s.clk.ftime
      | _ => .off } } }
  let s := match why with
    | .safePoint e => saveFrame { s with task := scramble s.task e s.fresh, fresh := s.fresh + 2 ^ 20 } n true
    | _ => saveFrame s n false
  let s := { s with task := { s.task with place := placeAfter s.task n why } }
  leaveRec s s.task why

/-- A wait to leave, once. -/
def waitWith (s : State) (f : Freeze) : State := if s.task.freeze.contains f then s else freezeWith s f

/-- The trap that a task frozen for its leave keeps: where it was raised, when, and whether its record is the group's. -/
def waitTrap (s : State) (c : Trap) (report : Bool) : Trap :=
  { c with loc := some (locOf s.task c + (if report then 0 else 2 ^ 16)), at_ := some (c.at_.getD s.clk.ftime) }

/-- What a task does that cannot leave yet, `room` telling whether slots are there (R319): a fault and a sys keep it frozen, with everything landed (R39); an spt acts as one with no entry where no slot is free; a spawnd leaves it as it is; a halt keeps it at this boundary until its stores have gone, or, where no slot is free, leaves it as it is (R319, R329). Its store queue goes on. -/
def waitLeave (s : State) (room : Bool) : Why → State
  | .fault c report => let s := landAll s; waitWith s (.faultWait (waitTrap s c report))
  | .sys n loc now => waitWith (landAll s) (.sysWait n loc now)
  | .child => if room then drainAll s else s
  | .halt => if room then waitWith (drainAll s) .halt else s
  | .safePoint _ =>
    if room then drainAll s
    else { s with task := { s.task with freeze := s.task.freeze.filter fun f => match f with
        | .safePoint _ => false
        | _ => true } }

/-- The task leaves its core if it has a slot and everything has issued; else nothing happens. -/
def leaveOne (s : State) (why : Why) : State :=
  match slotFor s s.task with
  | none => s
  | some n => let s' := landAll s; if s'.task.memq ≠ [] then s else leaveNow s' n why

/-- The slots that tasks need are there. -/
def slotsThere (s : State) (l : List Nat) : Bool :=
  let q := getPart s s.task.info.part
  let need := ((l.filterMap (findTask s)).filter fun t => t.frame.slot.isNone).length
  decide (need ≤ ((List.range (frameCount q)).filter fun n => !q.sch.slotsUsed.contains n).length)

/-- Tasks leave their cores together, each for the reason that `why` gives, or none does (R187, R319, R365). -/
def leaveCores (s : State) (l : List Nat) (why : Nat → Why) : State :=
  let me := s.task.uid
  let room := slotsThere s l
  let s' := if room then l.foldl (fun s u => leaveOne (focus s u) (why u)) s else s
  if room && l.all (fun u => (findTask s' u).any fun t => !onCore t) then focus s' me
  else focus (l.foldl (fun s u => waitLeave (focus s u) room (why u)) s) me

/-- A task leaves its core, with the group that one fetch drives, or waits to (R187, R319, R322). -/
def leaveCore (s : State) (why : Why) : State := leaveCores s (groupOfTask s) fun _ => why

/-! ### Taking a trap -/

/-- The cause that is taken at a boundary: the first that ends the task, else the first that suspends it (log 84). -/
def nextCause (t : Task) : Option Trap := match t.pending.find? fun c => c.cause != .pageFault with
  | some c => some c
  | none => t.pending.head?

/-- A cause that ends the task (R309): everything lands, the release is made, the task ends; until its store queue is empty it waits. KILLED kills. -/
def endBy (s : State) (c : Trap) (report : Bool) : State :=
  match c.cause with
  | .killed => killTask s report
  | _ =>
    let s := landAll s
    if s.task.memq ≠ [] then waitWith s (.faultWait (waitTrap s c report)) else terminalEnd s c report

/-- A trap of the tasks of a list, recorded for the member `rep` (R187, R309): PAGE_FAULT takes them off their cores together by the swap of R324, every other cause ends each of them. -/
def trapGroup (c : Trap) (rep : Nat) (l : List Nat) (s : State) : State :=
  let me := s.task.uid
  let s := l.foldl (fun s u => modTask s u fun t => { t with pending := t.pending.filter (· != c) }) s
  match c.cause with
  | .pageFault => leaveCores s l fun u => .fault c (u == rep)
  | _ => focus (l.foldl (fun s u => endBy (focus s u) c (u == rep)) s) me

/-- Taking a trap (R309): by the task in focus, with the group that one fetch drives. -/
def takeTrap (s : State) (c : Trap) : State := trapGroup c s.task.uid (groupOfTask s) s

/-- Why a frozen task waits to leave, if it does. -/
def waitOf (t : Task) : Option Why := t.freeze.findSome? fun f => match f with
  | .faultWait c =>
    let l := c.loc.getD 0
    if c.cause = .pageFault then some (.fault { c with loc := some (l % 2 ^ 16) } (decide (l < 2 ^ 16))) else none
  | .sysWait n loc now => some (.sys n loc now)
  | .halt => some .halt
  | .safePoint n => (t.info.lmap[n]?).map Why.safePoint
  | _ => none

/-- A cause that waits to end a frozen task. -/
def endWait (t : Task) : Option Trap := t.freeze.findSome? fun f => match f with
  | .faultWait c => if c.cause = .pageFault then none else some c
  | _ => none

def atMirror (t : Task) : Bool := t.freeze.any fun f => match f with
  | .mirror _ => true
  | _ => false

/-- A wait to leave is tried again, by the whole group (R319): a trap's, a sys's, a safe point's after its mirror point, a replay's (R251). -/
def retryLeave (s : State) : State :=
  let t := s.task
  if !onCore t then s
  else if t.freeze.contains .replayWait then replayLeave s
  else match endWait t with
    | some c => let l := c.loc.getD 0
      endBy { s with task := { t with freeze := t.freeze.filter (· != .faultWait c) } } { c with loc := some (l % 2 ^ 16) } (decide (l < 2 ^ 16))
    | none =>
      let l := groupOfTask s
      let why := fun (u : Nat) => (findTask s u).bind waitOf
      if (waitOf t).isSome && l.all (fun u => (why u).isSome && !(findTask s u).any atMirror) then
        leaveCores s l fun u => (why u).getD .halt
      else s

/-- Freezes after a bundle: the others end when the bundle before which the core stands is tried again. -/
def heldAfter (t : Task) : Bool := t.freeze.any (· != .stall)

/-- Freezes that a pending cause ends (R285, R303, R304, R324, R329, R333): those that a program's own bundle began, a halt's, a mirror point's; a cause that ends the task also ends its waits to leave and for a child. A page fault of an operation waits for no second leave, and nothing comes before an end that waits. -/
def causeEnds (c : Trap) : Freeze → Bool
  | .bwait .. | .hbw _ | .fence _ | .fsc _ | .rejoin _ | .flush | .stall | .halt | .mirror _ | .safePoint _ => true
  | .faultWait d => c.cause != .pageFault && d.cause == .pageFault
  | .sysWait .. => c.cause != .pageFault
  | .done | .replayWait => false

/-- A cause that arises while the task stands frozen after a bundle is taken at that boundary (R285, R303, R304, R333). -/
def takePending (s : State) : State :=
  match nextCause s.task with
  | some c =>
    let waits := awaitsChild s s.task.uid && c.cause != .pageFault
    if onCore s.task && (heldAfter s.task || waits) && s.task.freeze.all (causeEnds c) then takeTrap s c else s
  | none => s

/-! ### done and its finish (R108, R284) -/

def isFaultWait : Freeze → Bool
  | .faultWait _ => true
  | _ => false

/-- done's end: the core is held until the operations have completed; then the release is made and the task has ended. -/
def finishCheck (s : State) : State :=
  if onCore s.task && s.task.freeze.contains .done && !s.task.freeze.any isFaultWait then
    let s := landAll s
    match nextCause s.task with
    | some c => takeTrap s c
    | none =>
      if s.task.memq = [] ∧ opsOf s s.task.uid = [] then
        if s.mir.standing.any fun x => x.uid == s.task.uid then { s with task := { s.task with freeze := [.mirror true] } }
        else endTask (releaseOut s) true
      else s
  else s

/-! ### Restoring (R40, R251, R323) -/

/-- Waits whose tick has come (R206, R263). -/
def thawTicks (hb : Nat) (t : Task) : Task :=
  { t with freeze := t.freeze.filter fun f => match f with
    | .hbw n => decide (hb < n)
    | .fsc (some n) => decide (hb < n)
    | _ => true }

/-- A saved task takes a core again: acquire at device scope; freezes are entered again; dirty marks are cleared; the ladder returns to RUN; operations that a page fault stopped resume, and fault again where the page is still missing (R285, R323). A frame that software has altered gives undefined values (R320). -/
def restoreTo (s : State) (d c k : Nat) : State :=
  let s := if frameCells s s.task = s.task.frame.kept then s else { s with task := spoil s.task s.fresh, fresh := s.fresh + 2 ^ 20 }
  let s := { s with task := { s.task with
    place := .onCore d c k, time := { s.task.time with ladder := .run, softPending := false } } }
  let s := { s with sched := { s.sched with ops := s.sched.ops.map fun (o : EngOp) => if o.owner = s.task.uid then { o with stopped := false, die := d } else o } }
  let s := { s with task := { thawTicks s.clk.hb s.task with pending := s.task.pending.filter fun c => c.cause != .pageFault, dirty := 0 } }
  l1Acquire (loadSysr s) (coreNum s.task)

end Sys2Proof.Machine
end

