-- ==== Sys2Proof/Machine/Madder.lean ====
section
/-! DEFINITION. The Madder: rounds, carries, confirmation, the drain, commit and abandonment, tentative rows and their compaction (R339 to R359). Its actions take effect at the end of a bundle, `applyTodos`. -/

namespace Sys2Proof.Machine

/-! ### Rounds and their members -/

def roundOpen (m : Madder) : Bool := m.phase == .guess || m.phase == .spec

/-- The tasks of a round: the fused group in team mode, by rank; the task itself in batch mode (R339). -/
def roundMates (s : State) : List Nat := if s.task.spec.team then s.task.fused else [s.task.uid]

/-- The shared part of the Madder state changes on every member. -/
def modRound (s : State) (f : Madder → Madder) : State :=
  (roundMates s).foldl (fun s u => modTask s u fun t => { t with spec := f t.spec }) s

/-- The leader of a fused group acts for a team round (R339); a task alone is its own leader. -/
def leadsRound (t : Task) : Bool := !t.spec.team || t.fused.headD t.uid == t.uid

def modIter (m : Madder) (j : Nat) (f : Iter → Iter) : Madder := { m with iters := setNth m.iters j (f (iterAt m j)) }

/-! ### The carry (R340) -/

def headSmask (h : BitVec 72) : Nat := bitsOf h 48 8
def headVmask (h : BitVec 72) : Nat := bitsOf h 56 4

/-- Carry registers as the bundle reads them; one that the header does not name counts as zero. -/
def readCarry (t : Task) (free : Nat) (h : BitVec 72) : Carry :=
  { s := (List.range 8).map fun k => if headSmask h / 2 ^ k % 2 = 1 then lo64 (readReg t (free + k) (.s (BitVec.ofNat 6 (8 + k)))) else 0
    v := (List.range 4).map fun k => if headVmask h / 2 ^ k % 2 = 1 then readReg t (free + 8 + k) (.v (BitVec.ofNat 5 (8 + k))) else 0 }

/-- The registers of the carry. -/
def carryRegs (h : BitVec 72) : List RegDst :=
  ((List.range 8).filter fun k => headSmask h / 2 ^ k % 2 == 1).map (fun k => RegDst.s (BitVec.ofNat 6 (8 + k)))
    ++ ((List.range 4).filter fun k => headVmask h / 2 ^ k % 2 == 1).map fun k => RegDst.v (BitVec.ofNat 5 (8 + k))

/-- The carry written as moves of number `seq` (R346, R348, R349). -/
def writeCarry (h : BitVec 72) (c : Carry) (seq : Nat) (t : Task) : Task :=
  let t := (List.range 8).foldl (fun t k => if headSmask h / 2 ^ k % 2 = 1 then
    moveReg t (.s (BitVec.ofNat 6 (8 + k))) (row64 (nth c.s k 0)) seq else t) t
  (List.range 4).foldl (fun t k => if headVmask h / 2 ^ k % 2 = 1 then
    moveReg t (.v (BitVec.ofNat 5 (8 + k))) (nth c.v k 0) seq else t) t

/-! ### Failing and confirming (R343) -/

/-- Iterations from j up fail in batch mode; one rank in team mode. -/
def failIter (m : Madder) (j : Nat) : Madder :=
  { m with iters := (List.range 8).map fun i =>
      if (if m.team then i == j else decide (j ≤ i)) && decide (i < m.width) then { iterAt m i with fail := true } else iterAt m i }

/-- Every earlier iteration is done, correct and not a last one. -/
def earned (m : Madder) (j : Nat) : Bool :=
  (List.range j).all fun i => (iterAt m i).done && !(iterAt m i).fail && (iterAt m i).ok && !(iterAt m i).last

/-- The buffered effects of iteration j join the store queue of the task that made them, in trigger order (R355). -/
def releaseIter (j : Nat) (t : Task) : Task :=
  { t with memq := t.memq ++ (t.spec.buf.filter fun e => e.1 == j).map Prod.snd
           spec := { t.spec with buf := t.spec.buf.filter fun e => e.1 != j } }

/-- Operations of the ranks before the k-th that have not gone yet. -/
def pendingBefore (s : State) (k : Nat) : List (Nat × Nat) :=
  ((roundMates s).take k).flatMap fun u => match findTask s u with
    | some t => (t.memq.filter fun e => takesEntry e.kind).map fun e => (u, e.seq)
    | none => []

/-- What an iteration's effects, or a compaction, wait for in a team round: the effects of the earlier ranks (R343, R355). In batch mode one queue holds them all in order. -/
def gateFor (s : State) (k : Nat) (t : Task) : Task :=
  match pendingBefore s k with
  | [] => t
  | ids => if t.spec.team then { t with memq := t.memq ++ [{ seq := 0, kind := .gate ids }] } else t

/-- The buffered effects of iteration j drain, each member's, after those of every earlier iteration (R355). -/
def drainIter (s : State) (j : Nat) : State :=
  let me := s.task.uid
  focus ((roundMates s).foldl (fun s u =>
    let s := focus s u
    if s.task.spec.buf.any fun e => e.1 == j then drainAll { s with task := releaseIter j (gateFor s j s.task) } else s) s) me

/-- An iteration is confirmed: its effects drain, after those of every earlier one. -/
def confirmIter (s : State) (j : Nat) : State := drainIter (modRound s fun m => modIter m j fun i => { i with confirmed := true }) j

/-- Confirmations that have become due, in ascending order. -/
def confirmAll (s : State) : State :=
  (List.range 8).foldl (fun s j =>
    let m := s.task.spec
    if m.phase == .spec && decide (1 ≤ j ∧ j < m.width) && !(iterAt m j).confirmed && earned m j then confirmIter s j else s) s

/-- OK[j] once CO[j] and CI[j + 1] are both there (R346). -/
def judgeIters (m : Madder) : Madder :=
  { m with iters := (List.range 8).map fun j =>
      let it := iterAt m j
      match it.co, (iterAt m (j + 1)).ci with
      | some a, some b => if j + 1 < m.width then { it with ok := a == b } else it
      | _, _ => it }

/-! ### Buffers and tentative rows (R351, R354) -/

/-- Rows that a buffered store takes in the store buffer. -/
def storeRows : MemKind → Nat
  | .stx _ l => (l.flatMap fun x => (keysOf x.tgt).head?.toList).eraseDups.length
  | _ => 1

def bufRows (m : Madder) : Nat := ((m.buf.filter fun e => isStore e.2.kind).map fun e => storeRows e.2.kind).sum

def roundSum (s : State) (f : Madder → Nat) : Nat := ((roundMates s).map fun u => match findTask s u with
  | some t => f t.spec
  | none => 0).sum

/-- An effect of a speculative iteration enters its structure, or the iteration fails for want of room: 128 rows of stores, 64 deferred effects. -/
def bufferOp (s : State) (j : Nat) (e : MemOp) : State :=
  let full :=
    if isOrder e.kind then false
    else if isStore e.kind then decide (128 < roundSum s bufRows + storeRows e.kind)
    else decide (64 ≤ roundDq s s.task)
  if full then modRound s fun m => failIter m j
  else { s with task := { s.task with spec := { s.task.spec with buf := s.task.spec.buf ++ [(j, e)] } } }

/-- The logical row of an append region's tentative window that a virtual row lies in. -/
def windowRow (r : Region) (va : Nat) : Option Nat :=
  let lo := r.base + r.tail * r.rb * 128
  if lo ≤ va ∧ va < lo + 65536 * r.rb * 128 then some ((va - r.base) / (128 * r.rb)) else none

def regionAt (m : Madder) (va : Nat) : Option (Nat × Nat) :=
  (List.range 4).findSome? fun n => (nth m.regions n none).bind fun r => (windowRow r va).map fun row => (n, row)

/-- The virtual row of a target, if it is global. -/
def vaOf (t : Target) : Option Nat := (vasOf t).head?

/-- HI rises to the row written (R351). -/
def raiseHi (m : Madder) (n row : Nat) : Madder :=
  { m with regions := setNth m.regions n ((nth m.regions n none).map fun r => { r with hi := some (match r.hi with
      | some h => Nat.max h row
      | none => row) }) }

/-- A target in a tentative window while the round is in SPEC. -/
def tentative (m : Madder) (t : Target) : Option (Nat × Nat) := if m.phase == .spec then (vaOf t).bind (regionAt m) else none

/-- The compaction of a region for n iterations as an engine operation (R351). -/
def compactOp (r : Region) (n : Nat) (m : Madder) : EngOp :=
  let moves := (List.range n).filter fun j => j != 0 && (iterAt m j).row.getD j != j
  let d := r.base % 2 ^ 57 + 2 ^ 64 * (r.rb % 2 ^ 16) + 2 ^ 80 * n + 2 ^ 96 * (r.tail % 2 ^ 32)
    + ((List.range n).map fun j => 2 ^ (128 + 16 * j) * ((iterAt m j).row.getD j % 2 ^ 16)).sum
    + (match r.hi with
      | some h => 2 ^ 256 + 2 ^ 257 * (h % 2 ^ 40)
      | none => 0)
  { id := 0, owner := 0, kind := .compact, desc := BitVec.ofNat 1024 d, start := 0, row := 0, total := moves.length * r.rb
    cw := 0, tag := false, status := 0, trigger := 0, buf := [], bad := [], stopped := false, steps := 0, after := 0, ranks := 0 }

/-! ### Actions at the end of a bundle -/

/-- Memory as RUN finds it: the coherent rows that are dirty in stashes, the core's own private lines (R227, R356). -/
def snapOf (s : State) : List Host.Cell :=
  let rows := ((allTasks s).flatMap fun t => (t.stashRows.filter StashRow.dirty).flatMap fun r => rowsOf r.src).eraseDups
  let m := (rows.flatMap fun r => dirtyBound s r keepNone).foldl (fun m e => putBound m e.2.1.src e.2.2) s.mem
  (s.side.l1.filter fun l => l.core == coreNum s.task && l.coh == 0).foldl (fun m l => writeRow m (l.row * 128) l.data) m

/-- What a task sees now, its pending operations aside. -/
def shadowNow (s : State) : Shadow :=
  { mem := snapOf s, plates := s.task.plates, rows := s.task.stashRows.map StashRow.row, bad := s.side.poison
    lost := s.side.lost, healed := s.side.healed, plateBad := s.task.platePoison }

/-- A row read in its trigger bundle, by whichever iteration: a speculative one reads its snapshot, and waits only for a compaction. -/
def readRowNow (s : State) (t0 : Task) (tgt : Target) : Option (State × Row × Bool) :=
  if speculative t0 then
    if compClear s s.task.memq (.ld tgt) then some (specRead s (mySnap t0 (s.seq + 1)) tgt) else none
  else readNow s tgt

/-! ### The end of GUESS and the end of a round (R346 to R351) -/

/-- A member enters SPEC (R346, R356, R357): what it has triggered before RUN goes ahead of everything after it, and is in the snapshot where it has still to go. -/
def enterSpec (s : State) : State :=
  let s := drainAll s
  let sh := s.task.memq.foldl (shadowStore (ver1 s.task)) (shadowNow s)
  let q := if s.task.memq.isEmpty then [] else s.task.memq ++ [{ seq := 0, kind := .mark }]
  { s with task := { s.task with memq := q, spec := { s.task.spec with
      phase := .spec, cur := 0, buf := [], tent := [], snapMem := sh.mem, snapPlates := sh.plates, snapStash := sh.rows
      snapBad := sh.bad, snapLost := sh.lost, snapHealed := sh.healed, snapPlateBad := sh.plateBad } } }

def forMates (s : State) (f : Nat → State → State) : State :=
  let me := s.task.uid
  let l := roundMates s
  focus ((List.range l.length).foldl (fun s k => f k (focus s (nth l k me))) s) me

/-- acmp RUN (R346). -/
def runRound (s : State) (seq : Nat) : State :=
  forMates s fun k s =>
    let s := enterSpec s
    let m := s.task.spec
    let h := m.header.getD 0
    if m.team then
      if k < m.width then match (iterAt m k).ci with
        | some c => { s with task := writeCarry h c seq s.task }
        | none => modRound s fun m => failIter m k
      else s
    else { s with task := writeCarry h m.tc seq s.task }

/-- The iteration that an acmp names: the rank in team mode, J otherwise. -/
def acmpIter (t : Task) (x : W64) : Nat := if t.spec.team then (t.fused.idxOf? t.uid).getD 0 else fld x 3 0

/-- Whether a GUESS would record here. -/
def guessRecords (t : Task) (x : W64) : Bool :=
  let m := t.spec
  let j := acmpIter t x
  (m.phase == .guess || (m.phase == .spec && !m.team)) && decide (1 ≤ j ∧ j < m.width) && (iterAt m j).ci.isNone

/-- The round with the GUESSes that the members of the group have made, and that record, in this bundle (R346). -/
def withGuesses (s : State) (m : Madder) : Madder :=
  (roundMates s).foldl (fun m u => match findTask s u with
    | some t => t.spec.todo.foldl (fun m x => match x with
        | .acmp x c _ _ =>
          let u := { t with spec := { t.spec with iters := m.iters } }
          if fld x 6 4 = 0 ∧ guessRecords u x then modIter m (acmpIter u x) fun i => { i with ci := some c, row := some (fld x 23 8) } else m
        | _ => m) m
    | none => m) m

/-- The ROW of a GUESS: at least j, above every recorded lower iteration's, below every higher one's (R346). -/
def rowOk (m : Madder) (j row : Nat) : Bool :=
  decide (j ≤ row) && (List.range 8).all fun i => match (iterAt m i).row with
    | some r => if i < j then decide (r < row) else if j < i then decide (row < r) else true
    | none => true

/-- acmp's action (R346), then what R343 makes of it. -/
def acmpAct (s : State) (x : W64) (c : Carry) (seq : Nat) : State :=
  let t := s.task
  let m := t.spec
  let j := acmpIter t x
  let record := fun (s : State) (f : Iter → Iter) => confirmAll (modRound s fun m => judgeIters (modIter m j f))
  let out := m.phase == .spec && decide (j < m.width) && !(iterAt m j).fail && (iterAt m j).co.isNone
  match fld x 6 4 with
  | 0 => if guessRecords t x then record s fun i => { i with ci := some c, row := some (fld x 23 8) } else s
  | 1 => if m.phase == .guess && leadsRound t then runRound s seq else s
  | 2 => if out then record s fun i => { i with co := some c, done := true } else s
  | 3 => if out then record s fun i => { i with co := some c, done := true, last := true } else s
  | 4 => if m.phase == .spec && !m.team && decide (fld x 3 0 < m.width) then
      { s with task := { t with spec := { m with cur := fld x 3 0 } } } else s
  | _ => s

/-- Undrained effects go, and the snapshot with them; a discarded result leaves its destination as it is (R348, R349, R354). -/
def dropBuffered (t : Task) : Task :=
  let seqs := t.spec.buf.map fun e => e.2.seq
  { t with flights := t.flights.filter fun f => !(f.kind == .deferred && seqs.contains f.seq)
           spec := { t.spec with buf := [], tent := [], snapMem := [], snapPlates := [], snapStash := [], snapBad := [], snapLost := []
                                 snapHealed := [], snapPlateBad := [] } }

/-- An operation of the Madder's joins the store queue, behind the tentative stores that have still to issue. -/
def putQ (t : Task) (k : MemKind) : Task := { t with memq := t.memq ++ [{ seq := 0, kind := k }] }

/-- sabt's action in an open round (R349): the tentative rows are invalidated once the stores to them have issued. -/
def sabtAct (s : State) (seq : Nat) : State :=
  forMates s fun _ s =>
    let m := s.task.spec
    let t := writeCarry (m.header.getD 0) m.tc seq (dropBuffered s.task)
    let t := m.regions.foldl (fun t r => match r with
      | some r => match r.hi with
        | some h => putQ t (.wipe r.base r.rb r.tail h)
        | none => t
      | none => t) t
    drainAll { s with task := { t with spec := { t.spec with
        phase := .idle, abnd := true, regions := m.regions.map fun r => r.map fun x => { x with hi := none } } } }

/-- scmt's action in SPEC (R348): the accepted effects drain in the order of their iterations, then the compactions start. -/
def scmtAct (s : State) (seq : Nat) : State :=
  let m := s.task.spec
  let n := longestRun m 8 0
  if n = 0 then sabtAct s seq
  else
    let s := (List.range n).foldl drainIter s
    forMates s fun _ s =>
      let m := s.task.spec
      let t := writeCarry (m.header.getD 0) ((iterAt m (n - 1)).co.getD Carry.zero) seq (dropBuffered s.task)
      let t := if m.regions.any Option.isSome then gateFor s 8 t else t
      let t := m.regions.foldl (fun t r => match r with
        | some r => putQ t (.compact (compactOp r n m))
        | none => t) t
      drainAll { s with task := { t with spec := { t.spec with
          phase := .done, n := n, fin := (iterAt m (n - 1)).last
          regions := m.regions.map fun r => r.map fun x => { x with tail := x.tail + n, hi := none } } } }

/-- sgo's action (R345). -/
def sgoAct (s : State) (h : BitVec 72) (w : Nat) (tc : Carry) : State :=
  let team := !bitAt h 68
  let open_ := fun (m : Madder) =>
    { m with phase := .guess, team := team, width := w, header := some h, tc := tc, cur := 0, n := 0, fin := false, abnd := false
             iters := { Iter.empty with ci := some tc, row := some 0 } :: List.replicate 7 Iter.empty }
  let mates := if team then s.task.fused else [s.task.uid]
  mates.foldl (fun s u => modTask s u fun t => { t with spec := open_ t.spec }) s

/-- One noted action. An acmp's result is the status that follows it (R347). -/
def applyTodo (s : State) : Todo → State
  | .sgo h w tc => sgoAct s h w tc
  | .acmp x c seq res =>
    let s := acmpAct s x c seq
    setResult s res (row64 (sstVal (roundDq s s.task) s.task)) false
  | .scmt seq => if s.task.spec.phase == .spec then scmtAct s seq else s
  | .sabt seq => if roundOpen s.task.spec then sabtAct s seq else s

/-- The Madder actions that the task's bundle noted. -/
def applyTodos (s : State) : State :=
  s.task.spec.todo.foldl applyTodo { s with task := { s.task with spec := { s.task.spec with todo := [] } } }

/-- A Madder action takes effect at the end of the bundle. -/
def note (s : State) (x : Todo) : State :=
  { s with task := { s.task with spec := { s.task.spec with todo := s.task.spec.todo ++ [x] } } }

end Sys2Proof.Machine
end

