-- ==== Sys2Proof/Machine/Issue.lean ====
section
/-! DEFINITION. How a bundle issues: what holds it back, its guards and sources, its conflicts, its triggers, its effect as a whole or not at all, alone or in a group that one fetch drives (R27 to R40, R152, R185 to R187, R358, R365). -/

namespace Sys2Proof.Machine

/-! ### Triggers and acts -/

/-- What a ctl trigger of a group reads: the leader's registers, its ports after the bundle's moves, its guard and trigger value, the number of its undefined values (R187, R365). -/
structure Lead where
  task : Task
  /-- The rrb value that the leader's bundle renames with. -/
  rrb : W64
  ports : List Latch
  free : Nat
  on : Bool
  val : Row
  deriving DecidableEq, Repr

/-- What a trigger is given: the state at the start of the bundle, its value t, its slot, issue number, issue cycle and free-value number. -/
structure Trig where
  s0 : State
  val : Row
  slot : Nat
  seq : Nat
  cyc : Nat
  free : Nat
  lead : Option Lead
  deriving DecidableEq, Repr

/-- How a trigger goes: a trap, a wait for room before the bundle (R84), or its effect. -/
inductive TR where
  | trap (c : Trap)
  | stall
  | ok (s : State)
  deriving DecidableEq, Repr

/-- An operation's effect on the state that the bundle's moves and earlier triggers have made. -/
abbrev TrigFn := Trig → State → TR

/-- One slot of a bundle: a plain move (`dst`), or a trigger of unit `unit`. `imp` names the registers that the trigger writes implicitly, `reads` those it reads beside its source, `feed` the tile that it reads (with `feedOn` saying whether it does), `timed` and `ldq` what it allocates. -/
structure Act where
  slot : Nat
  g : Guard
  src : Src
  hold : Bool := false
  dst : Option MDst := none
  unit : Nat := 0
  imp : Option Lead → State → Row → List RegDst := fun _ _ _ => []
  reads : State → Row → List RegDst := fun _ _ => []
  feed : State → Option (BitVec 3) := fun _ => none
  feedOn : State → Bool := fun _ => true
  timed : State → Bool := fun _ => false
  ldq : Bool := false
  fn : TrigFn := fun _ s => .ok s

def unitSa0 : Nat := 0
def unitSa1 : Nat := 1
def unitAgu : Nat := 2
def unitCtl : Nat := 3
def unitLsu : Nat := 4
def unitVec : Nat := 5
def unitLg : Nat := 6
def unitSrt : Nat := 7
def unitMx : Nat := 8
def unitSyn : Nat := 9
def unitSpc : Nat := 10

/-- A trigger slot. -/
def trigAct (u : Nat) (h : Head) (fn : TrigFn) (slot : Nat) : Act := { slot := slot, g := h.g, src := h.src, unit := u, fn := fn }

/-- A plain move. -/
def moveAct (g : Guard) (src : Src) (hold : Bool) (dst : MDst) (slot : Nat) : Act :=
  { slot := slot, g := g, src := src, hold := hold, dst := some dst }

/-! ### Free-value numbers of a bundle (log 2): sources, ports, guards, triggers -/

def freeSrc (s0 : State) (slot : Nat) : Nat := s0.fresh + slot
def freePort (s0 : State) : Nat := s0.fresh + 8
def freeGuard (s0 : State) (slot : Nat) : Nat := s0.fresh + 48 + slot
def freeTrig (s0 : State) (slot : Nat) : Nat := s0.fresh + 64 + 32 * slot
def freePerBundle : Nat := 512

/-! ### What an act reads -/

/-- Whether a slot acts (R22); a ctl trigger of a group goes by its leader's guard. -/
def actOn (s0 : State) (lead : Option Lead) (a : Act) : Bool :=
  match a.dst, lead with
  | none, some l => if a.unit = unitCtl then l.on else guardVal s0 (freeGuard s0 a.slot) a.g
  | _, _ => guardVal s0 (freeGuard s0 a.slot) a.g

def actVal (s0 : State) (lead : Option Lead) (a : Act) : Row :=
  match a.dst, lead with
  | none, some l => if a.unit = unitCtl then l.val else srcVal s0 (freeSrc s0 a.slot) a.src
  | _, _ => srcVal s0 (freeSrc s0 a.slot) a.src

/-! ### Conflicts (R30, R34, R152) -/

/-- A plain destination, renamed. -/
def normDst (rrb : W64) : MDst → MDst
  | .reg r => .reg (renDst rrb r)
  | d => d

def isTn (k : BitVec 3) (a : Act) : Bool := a.src == .tn k

/-- Queues and tiles that a slot pops: lq 0, rxq 1, tile k 2 + k. -/
def popOf : Src → Option Nat
  | .lq => some 0
  | .rxq => some 1
  | .tn k => some (2 + k.toNat)
  | _ => none

/-- The implicit writes of a trigger against a move. -/
def impHits (s0 : State) (lead : Option Lead) (t m : Act) : Bool :=
  match t.dst, m.dst with
  | none, some (.reg r) => (t.imp lead s0 (actVal s0 lead t)).contains (renDst (rrbRead s0) r)
  | _, _ => false

/-- A feed against another read or a move of its tile (R166). -/
def feedHits (s0 : State) (t m : Act) : Bool :=
  match t.dst, t.feed s0 with
  | none, some k => isTn k m || (t.slot == m.slot && isTn k t) || (m.dst == some (.reg (.tcfg k)))
  | _, _ => false

/-- Two different slots that conflict. -/
def pairHits (s0 : State) (lead : Option Lead) (a b : Act) : Bool :=
  (match a.dst, b.dst with
    | some x, some y => normDst (rrbRead s0) x == normDst (rrbRead s0) y
    | none, none => a.unit == b.unit
    | _, _ => false)
  || (match popOf a.src, popOf b.src with
    | some x, some y => x == y
    | _, _ => false)
  || impHits s0 lead a b || impHits s0 lead b a || feedHits s0 a b || feedHits s0 b a
  || (match a.dst with
    | some (.reg (.tcfg k)) => isTn k b
    | _ => false)
  || (match b.dst with
    | some (.reg (.tcfg k)) => isTn k a
    | _ => false)

/-- What a trigger of the bundle is given. -/
def trigOf (s0 : State) (lead : Option Lead) (a : Act) : Trig :=
  { s0 := s0, val := actVal s0 lead a, slot := a.slot, seq := s0.seq + 1 + a.slot, cyc := s0.task.regs.cyc
    free := freeTrig s0 a.slot, lead := lead }

/-- A result that lands in tile k at the end of the bundle of cycle `cyc`. -/
def landsAfter (cyc : Nat) (k : BitVec 3) (f : Flight) : Bool :=
  f.dest == .tileW k && f.kind != .deferred && !f.landed && f.due == cyc + 1

/-- A write that takes a segment of tile k at the end of this bundle (R152): a move into tk.w, a result under way, or a result of latency 1 of this very bundle. `mid` is the state with the bundle's moves made. -/
def takesSeg (s0 mid : State) (lead : Option Lead) (on : List Act) (k : BitVec 3) : Bool :=
  (on.any fun m => m.dst == some (.tileW k)) || s0.task.flights.any (landsAfter s0.task.regs.cyc k)
    || on.any fun a => a.dst.isNone && match a.fn (trigOf s0 lead a) mid with
      | .ok s => s.task.flights.any fun f => landsAfter s0.task.regs.cyc k f && decide (s0.seq + 1 + a.slot ≤ f.seq)
      | _ => false

/-- A slot that conflicts by itself: a full landing buffer or load queue (R30), a move into tcfgk against a segment write, a feed that its own source reads. -/
def selfHits (s0 mid : State) (lead : Option Lead) (on : List Act) (a : Act) : Bool :=
  (a.dst.isNone && a.timed s0 && decide (32 ≤ outstanding s0.task))
  || (a.dst.isNone && a.ldq && decide (16 ≤ s0.task.lq.length))
  || (match a.dst with
    | some (.reg (.tcfg k)) => takesSeg s0 mid lead on k
    | _ => false)
  || (match a.dst, a.feed s0 with
    | none, some k => isTn k a
    | _, _ => false)

/-- The slot of BUNDLE_CONFLICT: the lowest that is the higher member of a conflicting pair, or conflicts by itself. -/
def conflictSlot (s0 mid : State) (lead : Option Lead) (on : List Act) : Option Nat :=
  (on.find? fun b => selfHits s0 mid lead on b || on.any fun a => decide (a.slot < b.slot) && pairHits s0 lead a b).map Act.slot

/-! ### Applying a bundle -/

/-- One plain move, written at the end of the bundle (R28, R31, R153). -/
def applyMove (s0 : State) (s : State) (a : Act) : State :=
  let x := srcVal s0 (freeSrc s0 a.slot) a.src
  match a.dst with
  | none => s
  | some (.reg r) => { s with task := moveReg s.task (renDst (rrbRead s0) r) x s0.seq }
  | some (.port p) => { s with task := { s.task with
      ports := writePort s.task.ports p x a.hold, dirty := touchUnit s.task.dirty (unitPage (3 + portIdx p / 32)) } }
  | some (.tileW k) =>
    { s with task := addFlight s.task { dest := .tileW k, kind := .fixed, val := some x, poison := false, due := s0.task.regs.cyc + 1
                                        seq := s0.seq, dead := false, landed := false } }

/-- The pops of the acting slots (R22, R38, R152, R395). DESIGN CHOICE (log 19): one slot that moves tk.n into tcfgk writes the moved descriptor and then advances its RPTR; R152's conflict names two slots. -/
def applyPop (s : State) (a : Act) : State :=
  match a.src with
  | .lq => { s with task := { s.task with lq := s.task.lq.tail, dirty := touchUnit s.task.dirty (unitPage 2) } }
  | .rxq =>
    if s.task.info.msgSlot.isSome && decide (s.task.time.rxCursor < 32) then
      { s with task := { s.task with time := { s.task.time with rxCursor := s.task.time.rxCursor + 1 } } }
    else s
  | .tn k =>
    let cfg := s.task.regs.getT k
    { s with task := { s.task with regs := { s.task.regs with
        tcfg := s.task.regs.tcfg.set k.toNat (setTileR cfg (advance cfg (tileR cfg))) k.isLt } } }
  | _ => s

/-- The acting triggers in slot order; the first trap is that of the lowest slot (R34). -/
def runTrigs (s0 : State) (lead : Option Lead) : List Act → State → TR
  | [], s => .ok s
  | a :: r, s =>
    if a.dst.isSome then runTrigs s0 lead r s
    else
      match a.fn (trigOf s0 lead a) s with
      | .trap c => .trap { c with slot := a.slot }
      | .stall => match runTrigs s0 lead r s with
        | .trap c => .trap c
        | _ => .stall
      | .ok s => runTrigs s0 lead r s

/-- A register holds poisoned data whose landing cycle has come. -/
def regPoisoned (t : Task) (d : RegDst) : Bool := !inFlight t d && t.regs.poison.contains d

/-- A slot whose source, guard, feed segment or implicit register read is poisoned; a ctl trigger of a group reads its leader's (R28, R34, R35, R153). DESIGN CHOICE (log 19): a poisoned rrb that a slot reads only to rename its codes raises nothing. -/
def slotPoisoned (s0 : State) (lead : Option Lead) (a : Act) : Bool :=
  let t := s0.task
  let mine := match a.dst, lead with
    | none, some l => a.unit != unitCtl || l.task.uid == t.uid
    | _, _ => true
  mine && (srcPoisoned s0 a.src || regPoisoned t (.p (renP (rrbRead s0) a.g.p))
    || (a.dst.isNone && (a.reads s0 (actVal s0 lead a)).any (regPoisoned t))
    || (match a.dst, a.feed s0 with
      | none, some k => a.feedOn s0 && segPoisoned t (segKey t k)
      | _, _ => false))

def poisonSlot (s0 : State) (lead : Option Lead) (on : List Act) : Option Nat := (on.find? (slotPoisoned s0 lead)).map Act.slot

/-- The line of the poisoned data that a slot reads (R335). -/
def slotLine (s0 : State) (lead : Option Lead) (a : Act) : Nat :=
  let t := s0.task
  let place : Option BadAt :=
    if srcPoisoned s0 a.src then srcBadAt s0 a.src
    else if regPoisoned t (.p (renP (rrbRead s0) a.g.p)) then some (.reg (.p (renP (rrbRead s0) a.g.p)))
    else match (a.reads s0 (actVal s0 lead a)).find? (regPoisoned t) with
      | some d => some (.reg d)
      | none => (a.feed s0).map fun k => .seg (segKey t k)
  (place.map (badLine t)).getD t.badRow

/-- How an issue goes for one task. -/
inductive IR where
  | stall (s : State)
  | trap (c : Trap)
  | ok (s : State)
  deriving DecidableEq, Repr

/-- The tiles whose descriptors the bundle's moves write. -/
def movedTiles (on : List Act) : List Nat := on.filterMap fun a => match a.dst with
  | some (.reg (.tcfg k)) => some k.toNat
  | _ => none

/-- The state with the bundle's moves made, pc and cyc moved on. -/
def afterMoves (s0 : State) (on : List Act) : State :=
  let s := on.foldl (applyMove s0) s0
  { s with task := { s.task with segHold := (s0.clk.ck, movedTiles on), regs := { s.task.regs with pc := (s0.task.regs.pc + 1) % 8192, cyc := s0.task.regs.cyc + 1 } } }

/-- A row of the ingress queue that has not reached the core (R395). -/
def rxMissing (t : Task) : Bool := t.info.msgSlot.isSome && decide (t.time.rxCursor < 32) && decide (t.time.rxReady ≤ t.time.rxCursor)

/-- A bundle of the task in focus, whose due results have landed (R28 to R35). -/
def issueTask (acts : List Act) (static : Option Trap) (lead : Option Lead) (s0 : State) : IR :=
  match static with
  | some c => .trap c
  | none =>
    let on := acts.filter (actOn s0 lead)
    match conflictSlot s0 (afterMoves s0 on) lead on with
    | some k => .trap { cause := .bundleConflict, slot := k }
    | none =>
      match on.find? fun a => a.src == .lq, s0.task.lq with
      | some a, [] => .trap { cause := .lqEmpty, slot := a.slot }
      | some _, { seq := q, val := none, poison := _ } :: _ => .stall (performSeq s0 q)
      | _, _ =>
        if (on.any fun a => a.src == .rxq) && rxMissing s0.task then .stall s0
        else match runTrigs s0 lead on (afterMoves s0 on) with
          | .trap c => .trap c
          | .stall => .stall (performHead s0)
          | .ok s =>
            match poisonSlot s0 lead on with
            | some k => .trap { cause := .poison, slot := k, line := (on.find? (slotPoisoned s0 lead)).map (slotLine s0 lead) }
            | none => .ok { on.foldl applyPop s with fresh := s0.fresh + freePerBundle, seq := s0.seq + 16 }

/-! ### Before a bundle -/

/-- Whether a task issues bundles now, or tries the one before which its core stands frozen. -/
def canIssue (s : State) : Bool :=
  (match s.task.place with
    | .onCore .. => true
    | _ => false)
  && !heldAfter s.task && !awaitsChild s s.task.uid && !powerFrozen s s.task && !onMute s s.task
  && !(s.task.memq.any fun e => match e.kind with
    | .spawn _ _ donate => donate
    | _ => false)

/-- Nothing that a core freezes for before a bundle is short any more: data on its way, the memory queue, the engines' queues, the egress buffer, the released message's rows (R38, R84, R395, R396). -/
def stallOver (s : State) : Bool :=
  s.task.memq.isEmpty && s.task.lq.all (·.val.isSome) && decide (s.task.egress.length < 8) && !rxMissing s.task && decide ((opsOf s s.task.uid).length < 8)

/-- What the core stands frozen for may have come: it thaws where nothing is short. -/
def endStall (s : State) : State := if stallOver s then thaw s .stall else s

/-- The core freezes before its bundle, until the bundle is tried again and goes. -/
def stallAt (s : State) : State := freezeWith (thaw s .stall) .stall

/-- What comes before the bundle. -/
inductive Pre where
  | idle (s : State)
  | trap (c : Trap)
  | go (s0 : State)
  deriving DecidableEq, Repr

/-- Results that are due now and have no data yet. -/
def lateSeqs (t : Task) : List Nat :=
  (t.flights.filter fun f => f.kind != .deferred && decide (f.due ≤ t.regs.cyc) && f.val.isNone).map Flight.seq

/-- Every result that is due has its data, or has been asked for it. -/
def fetchLate (s : State) : State := (lateSeqs s.task).foldl performSeq s

/-- One idle cycle of a wait. -/
def spendWait (t : Task) : Task :=
  { t with time := { t.time with waitN := t.time.waitN - 1 }, regs := { t.regs with cyc := t.regs.cyc + 1 } }

/-- Freezes, waits, causes at the boundary, late data (R35, R37, R110, R285). -/
def preIssue (s : State) : Pre :=
  if !canIssue s then .idle s
  else
    let s := thaw s .stall
    if s.task.time.waitN ≠ 0 then
      let s := fetchLate s
      .idle (if (lateSeqs s.task).isEmpty then { s with task := spendWait s.task } else stallAt s)
    else match nextCause s.task with
      | some c => .trap c
      | none =>
        let s := fetchLate s
        if (lateSeqs s.task).isEmpty then .go { s with task := landDue s.task s.task.regs.cyc } else .idle (stallAt s)

/-- n ck of the task's core. -/
def tickN : Nat → State → State
  | 0, s => s
  | n + 1, s => tickN n (tick s)

/-! ### Held traps (R358) -/

/-- A trap held: no effect on this task but the step to the next bundle, and its iteration fails. -/
def holdTrap (s0 : State) : State :=
  let s0 := modRound s0 fun m => failIter m (iterOf s0.task)
  { s0 with
    task := { s0.task with
      regs := { s0.task.regs with pc := (s0.task.regs.pc + 1) % 8192, cyc := s0.task.regs.cyc + 1 } }
    fresh := s0.fresh + freePerBundle, seq := s0.seq + 16 }

/-- A group's ctl slot acts from its leader (R187): a member whose own bundle is held stands with the others, at a done, a sys or a safe point (R358, R359). -/
def heldCtl (acts : List Act) (lead : Option Lead) (s0 s : State) : State :=
  match lead, acts.find? fun a => a.dst.isNone && a.unit == unitCtl with
  | some l, some a => if !l.on || l.task.uid == s0.task.uid then s
    else match a.fn (trigOf s0 lead a) s with
      | .ok u => { s with task := { s.task with freeze := u.task.freeze } }
      | _ => s
  | _, _ => s

/-- Issue with the rule of held traps. -/
def issueHeld (acts : List Act) (static : Option Trap) (lead : Option Lead) (s0 : State) : IR :=
  match issueTask acts static lead s0 with
  | .trap c => if speculative s0.task then .ok (heldCtl acts lead s0 (holdTrap s0)) else .trap c
  | r => r

/-! ### Groups (R185 to R187, R365) -/

/-- What the leader's ctl trigger gives the group. -/
def leadInfo (acts : List Act) (s0 : State) : Lead :=
  let on := acts.filter (actOn s0 none)
  let mid := afterMoves s0 on
  match acts.find? fun a => a.dst.isNone && a.unit == unitCtl with
  | some a => { task := s0.task, rrb := rrbRead s0, ports := mid.task.ports, free := freePort s0, on := actOn s0 none a, val := actVal s0 none a }
  | none => { task := s0.task, rrb := rrbRead s0, ports := mid.task.ports, free := freePort s0, on := false, val := 0 }

/-- A wait that one member spends, every member spends (R110, R187). -/
def waitAll (l : List Nat) (s : State) : Option State :=
  if l.any fun u => (findTask s u).any fun t => t.time.waitN != 0 then
    let s := l.foldl (fun s u => let s := focus s u; fetchLate (thaw s .stall)) s
    some (if l.all fun u => (findTask s u).all fun t => (lateSeqs t).isEmpty then
        l.foldl (fun s u => modTask s u spendWait) s
      else l.foldl (fun s u => stallAt (focus s u)) s)
  else none

/-- Every member up to its bundle: idle if one is, the first boundary cause if one has it. -/
def preGroup : List Nat → State → Pre
  | [], s => .go s
  | u :: r, s =>
    match preIssue (focus s u) with
    | .idle s => .idle s
    | .trap c => match preGroup r s with
      | .idle s => .idle s
      | _ => .trap c
    | .go s => preGroup r s

/-- The member that a boundary cause of a group is reported for: the first that has one (R187). -/
def boundaryMember (l : List Nat) (s : State) (ld : Nat) : Nat :=
  (l.find? fun u => match preIssue (focus s u) with
    | .trap _ => true
    | _ => false).getD ld

/-- Every member's bundle: all take effect, or none; the trap of the first member that trapped (R187). -/
def issueMembers (acts : List Act) (static : Option Trap) (lead : Lead) : List Nat → State → IR
  | [], s => .ok s
  | u :: r, s =>
    match issueHeld acts static (some lead) (focus s u) with
    | .ok s => issueMembers acts static lead r s
    | x => x

/-- The member that a group's trap is reported for. -/
def trapMember (acts : List Act) (static : Option Trap) (lead : Lead) (s0 : State) (l : List Nat) : Nat :=
  (l.find? fun u => match issueHeld acts static (some lead) (focus s0 u) with
    | .trap _ => true
    | _ => false).getD s0.task.uid

/-- The issue cycles that a bundle spends are ck of its core (R27). -/
def spend (s0 s : State) : State := tickN (s.task.regs.cyc - s0.task.regs.cyc) s

/-- One ck of the cores of a group: the focus task's and the other members'. -/
def tickGroup (l : List Nat) (s : State) : State :=
  (l.filter (· != s.task.uid)).foldl (fun t u => modTask t u (chargeTime ((s.clk.sub + 5) / 3))) (tick s)

def tickGroupN (l : List Nat) : Nat → State → State
  | 0, s => s
  | n + 1, s => tickGroupN l n (tickGroup l s)

/-- The members go on together with the leader's next bundle, one whose trap was held too (R187, R358). -/
def inStep (s0 : State) (ld : Nat) (l : List Nat) (s : State) : State := match findTask s0 ld, findTask s ld with
  | some a, some b => l.foldl (fun s u => match findTask s0 u with
      | some m => modTask s u fun t => { t with regs := { t.regs with pc := b.regs.pc, cyc := m.regs.cyc + (b.regs.cyc - a.regs.cyc) } }
      | none => s) s
  | _, _ => s

/-- A bundle for a task alone. -/
def issueAlone (acts : List Act) (static : Option Trap) (s : State) : State :=
  match preIssue s with
  | .idle s => tick s
  | .trap c => takeTrap s c
  | .go s0 =>
    match issueHeld acts static none s0 with
    | .stall s => tick (stallAt s)
    | .trap c => takeTrap s0 c
    | .ok s => spend s0 (applyTodos s)

/-- What sst reads in a team round's bundle is what it was at the bundle's start, for every member (R347). -/
def showSst (s : State) (l : List Nat) : State :=
  if s.task.spec.team then
    l.foldl (fun u n => match findTask s n with
      | some t => modTask u n fun v => { v with spec := { v.spec with shown := some (sstVal (roundDq s t) t) } }
      | none => u) s
  else s

/-- The bundle is over. -/
def hideSst (s : State) (l : List Nat) : State :=
  if s.task.spec.team then l.foldl (fun s n => modTask s n fun t => { t with spec := { t.spec with shown := none } }) s else s

/-- A bundle for a group (R187). -/
def issueGroup (acts : List Act) (static : Option Trap) (l : List Nat) (s : State) : State :=
  let me := s.task.uid
  let ld := leadOf s l
  focus (match if l.all fun u => (findTask s u).any fun t => !heldAfter t && onCore t then waitAll l s else none with
  | some s => tickGroup l s
  | none => match preGroup l s with
    | .idle s => tickGroup l s
    | .trap c => trapGroup c (boundaryMember l s ld) l s
    | .go s0 =>
      let s0 := focus s0 ld
      let lead := leadInfo acts s0
      match issueMembers acts static lead l (showSst s0 l) with
      | .stall _ => tickGroup l (stallAt s0)
      | .trap c => trapGroup c (trapMember acts static lead s0 l) l s0
      | .ok s =>
        let s := focus (hideSst (focus s ld) l) s.task.uid
        let s := inStep s0 ld l (focus (l.foldl (fun s u => applyTodos (focus s u)) s) ld)
        tickGroupN l (s.task.regs.cyc - s0.task.regs.cyc) s) me

/-- A bundle issues: the whole of it, or nothing of it (R33). -/
def issue (acts : List Act) (static : Option Trap) (s : State) : State :=
  if grouped s.task then issueGroup acts static (groupOfTask s) s else issueAlone acts static s

/-- A bundle with one act in slot 0. -/
def issueOne (mk : Nat → Act) (s : State) : Host.Outcome State Fault Refusal := .next (issue [mk 0] none s)

/-! ### Helpers of the meanings -/

/-- A port as a trigger reads it. -/
def rd (g : Trig) (s : State) (p : Port) : Row := portVal s.task.ports (freePort g.s0) p

def rd64 (g : Trig) (s : State) (p : Port) : W64 := lo64 (rd g s p)

/-- The registers that a ctl trigger reads: the leader's in a group (R187, R365). -/
def ctlTask (g : Trig) : Task := match g.lead with
  | some l => l.task
  | none => g.s0.task

/-- The rrb value that a ctl trigger reads and renames with. -/
def ctlRrb (g : Trig) : W64 := match g.lead with
  | some l => l.rrb
  | none => rrbRead g.s0

/-- A register as a ctl trigger reads it at the start of its bundle. -/
def ctlReg (g : Trig) (d : RegDst) : W64 :=
  lo64 (readReg (ctlTask g) (match g.lead with
    | some l => l.free + 400
    | none => g.s0.fresh + 408) d)

/-- A ctl port as a ctl trigger reads it. -/
def rdCtl (g : Trig) (s : State) (p : Port) : W64 := match g.lead with
  | some l => lo64 (portVal l.ports l.free p)
  | none => rd64 g s p

/-- Ports consumed by a trigger (R29). -/
def eat (s : State) (l : List Port) : State := { s with task := { s.task with ports := consumePorts s.task.ports l } }

def trapOf (c : Cause) : Trap := { cause := c }

/-- A result unit: the d code is checked and renamed (R32), the operands are consumed, the value lands within `lat` (R36). `f` gives the value from the ports, or the operation's trap. -/
def unitOp (ports : List Port) (d : Port) (lat : Nat) (f : Trig → (Port → Row) → Except Trap Row) : TrigFn := fun g s =>
  match destOf (rrbRead g.s0) (rd64 g s d) with
  | none => .trap (trapOf .illDst)
  | some dst =>
    match f g (rd g s) with
    | .error c => .trap c
    | .ok x =>
      let s := eat s (d :: ports)
      .ok { s with task := sendResult s.task dst x (g.cyc + lat) g.seq }

end Sys2Proof.Machine
end

