-- ==== Sys2Proof/Machine/Engines.lean ====
section
/-! DEFINITION. The copy, gather and collective engines, the Madder's compaction, user-level interrupts and the heartbeat (R262, R280 to R306, R351). -/

namespace Sys2Proof.Machine

/-! ### Sides (R281, R288) -/

/-- The space code of an address word. -/
def spaceOf (w : Nat) : Nat := w / 2 ^ 61 % 8

/-- Own local with TILE = 1: the tile. -/
def tileOf (w : Nat) : Option (BitVec 3) := if spaceOf w = 1 ∧ w / 2 ^ 21 % 2 = 1 then some (BitVec.ofNat 3 (w / 2 ^ 22)) else none

/-- Bits that a space uses. -/
def spaceMod (sp : Nat) : Nat := match sp with
  | 0 => 2 ^ 57
  | 3 => 2 ^ 19
  | 4 => 2 ^ 51
  | _ => 2 ^ 21

/-- Byte d of a side: it wraps in its space. -/
def sideAddr (w : Nat) (d : Int) : Nat := (((w % 2 ^ 57 : Nat) + d) % (spaceMod (spaceOf w) : Nat)).toNat

/-- A side whose task must be on its core (R284). -/
def localSide (w : Nat) : Bool := decide (1 ≤ spaceOf w ∧ spaceOf w ≤ 3)

/-- The plate that a local offset lies in: the task, and the checks of R281. -/
def sidePlate (s : State) (i : TaskInfo) (uid sp off : Nat) : Except Cause Nat :=
  let p := off / 16384
  if sp = 1 then match findTask s uid with
    | some t => if bitAt t.owners p then .ok uid else .error .owner
    | none => .error .space
  else match nextStage s i with
    | some t =>
      if p < i.chanFirst ∨ i.chanFirst + i.chanCount ≤ p then .error .space
      else if bitAt t.owners p then .ok t.uid else .error .owner
    | none => .error .space

/-- A global row as an engine reads it: its home, not an L1 (R260). -/
def devRead (s : State) (q : Rq) (v1 : Bool) (tgt : Target) : State × Row × Bool × Nat := match tgt with
  | .glob _ pa coh fmt base bad =>
    let rows := rowsOf tgt
    let s := rows.foldl (fun s r => fetchRow s q coh r) s
    let m := cohMem s (rows.headD 0)
    match packedOf fmt with
    | some k => (s, packedRow v1 m k base (pa / 128), bad || (packedRows k base (pa / 128)).any (poisonedRow s), fmt)
    | none => (s, readRow m pa, bad || poisonedRow s (pa / 128), fmt)
  | .io _ pa =>
    let (s, x, e) := ioAnswer (useLinks s q (ioRoute q.die pa))
    (s, x, e, 0)
  | _ => (s, 0, false, 0)

/-- Poison marks of rows set or cleared. -/
def markRows (s : State) (rows : List Nat) (bad : Bool) : State :=
  if bad then addPoison s rows else clearPoison s rows

/-- The first n bytes of a global row as an engine writes them; a poisoned source marks the row (R234, R239, R244, R285). -/
def devWrite (s : State) (q : Rq) (v1 : Bool) (uid : Nat) (tgt : Target) (n : Nat) (x : Row) (bad : Bool) : State := match tgt with
  | .glob _ pa coh fmt base _ =>
    let rows := rowsOf tgt
    let s := rows.foldl (fun s r => let s := noteWrite s q r; if coh = 0 then s else collapse s q.part q.die r keepNone) s
    match packedOf fmt with
    | some k =>
      let s := if bad ∨ n = 128 then markRows s (packedRows k base (pa / 128)) bad else s
      writeRows s (some uid) rows fun m => putPacked v1 m k base (pa / 128) fun j => if 2 * j < n then some (laneN x 16 j) else none
    | none =>
      let s := if bad ∨ n = 128 then markRows s rows bad else s
      let a := pa / 128 * 128
      writeDev s (some uid) a n fun m => writeRow m a (patch (readRow m a) [(0, n, x.toNat)])
  | .io _ pa => ioPost (useLinks s q (ioRoute q.die pa)) (pa / 128 * 128) n x.toNat
  | _ => s

def segRow (m : Matrix) (q g : Nat) : Row := packRow 32 ((List.range 32).map fun c => (sget m.acc (96 * q + 32 * g + c)).toNat)

def putSeg (m : Matrix) (q g n : Nat) (x : Row) : Matrix :=
  { m with acc := (List.range (n / 4)).foldl (fun a c => sset a (96 * q + 32 * g + c) (BitVec.ofNat 32 (laneN x 32 c))) m.acc }

/-- Poison marks of accumulator segments: a mark goes with the row that is written, and a whole row without one clears it (R244, R285). -/
def markSeg (m : Matrix) (k n : Nat) (bad : Bool) : Matrix :=
  if bad then { m with accBad := k :: m.accBad.filter (· != k) }
  else if n = 128 then { m with accBad := m.accBad.filter (· != k) } else m

/-- An engine's write of an accumulator segment: a row that a beat or a drain touched meanwhile stays undefined (R159). -/
def engSeg (t : Task) (q g n : Nat) (x : Row) (bad : Bool) : Task :=
  if t.accLost.contains q then t
  else { t with mx := markSeg (putSeg t.mx q g n x) (3 * q + g) n bad, dirty := touchUnit t.dirty (unitAcc q) }

/-- Accumulator rows that a task's released copy entries read or write until they complete (R159). -/
def accInUse (s : State) (t : Task) (q : Nat) : Bool :=
  (opsOf s t.uid).any fun o => match o.kind with
    | .copy _ =>
      let side := fun (isSrc : Bool) =>
        bitsOf o.desc (if isSrc then 0 else 64) 64 / 2 ^ 61 == 3 &&
          (List.range o.total).any fun n => ((copyAddr o.desc t.info isSrc n) % (2 ^ 19 : Nat)).toNat / 384 == q
      side true || side false
    | _ => false

/-- An operation leaves; the accumulator rows that no other entry has in hand are the task's again. -/
def closeOp (s : State) (o : EngOp) : State :=
  let s := dropOp s o.id
  modTask s o.owner fun t => { t with accLost := t.accLost.filter (accInUse s t) }

/-- A tile that the latest bundle moved into holds back an engine's segment for one issue cycle (R288). -/
def segHeld (s : State) (t : Task) (w : Nat) : Bool :=
  (tileOf w).any fun k => t.segHold.2.contains k.toNat && decide (s.clk.ck ≤ t.segHold.1 + 2)

/-- A side's tile waits for a result that is due there and has no data yet: it takes its segment first (R153). -/
def tileLate (t : Task) (w : Nat) : Bool :=
  (tileOf w).any fun k => t.flights.any fun f => tileDue t f && f.val.isNone && !f.dead && f.dest == .tileW k

/-- What an engine asks for on a task's behalf: from the task's die, or, while it is off its core, from the die whose engines run its operations. -/
def rqEng (s : State) (t : Task) : Rq :=
  if onCore t then rqOf t else { rqOf t with die := ((opsOf s t.uid).head?.map EngOp.die).getD 8 }

/-- A task's engine has met poisoned data that came from a line. -/
def hearLine (s : State) (uid : Nat) (bad : Bool) (line : Nat) : State := if bad then modTask s uid fun t => { t with badRow := line } else s

/-- Poisoned data of an engine's row stands in a place of its task. -/
def markLine (t : Task) (bad : Bool) (h : BadAt) (line : Nat) : Task := if bad then noteLine t h line else t

/-- One row of a side read: data, poison, page format. A tile's read pointer advances. -/
def sideRead (s : State) (t : Task) (w a : Nat) : Except Cause (State × Row × Bool × Nat) :=
  match tileOf w with
  | some k =>
    let s := modTask s t.uid landTiles
    let t := (findTask s t.uid).getD t
    let cfg := t.regs.getT k
    let bad := t.tilePoison.contains (256 * k.toNat + tileR cfg)
    let s := hearLine s t.uid bad (badLine t (.seg (256 * k.toNat + tileR cfg)))
    .ok (modTask s t.uid fun t => { t with regs := { t.regs with tcfg := t.regs.tcfg.set k.toNat (setTileR cfg (advance cfg (tileR cfg))) k.isLt } }, tileSeg t k, bad, 0)
  | none => match spaceOf w with
    | 0 =>
      if isLocal a then .error .space
      else match translate s t.info.part accEngRead (a / 128 * 128) with
        | .error c => .error c
        | .ok (s, tgt) =>
          let (s, x, bad, f) := devRead s (rqEng s t) (ver1 t) tgt
          .ok (hearLine s t.uid bad (lineOf tgt), x, bad, f)
    | 3 =>
      let g := a / 128
      if 3072 ≤ g then .error .space else .ok (hearLine s t.uid (t.mx.accBad.contains g) (badLine t (.acc g)), segRow t.mx (g / 3) (g % 3), t.mx.accBad.contains g, 0)
    | 4 =>
      let pa := 2 ^ 51 + a
      if inIoRange (getPart s t.info.part) pa then .ok (devRead s (rqEng s t) (ver1 t) (.io pa pa)) else .error .prot
    | sp => if 5 ≤ sp then .error .space else match sidePlate s t.info t.uid sp a with
      | .error c => .error c
      | .ok u => match findTask s u with
        | some v => .ok (hearLine s t.uid (v.platePoison.contains (a / 128)) (lineFrom v (.plate (a / 128))), sget v.plates (a / 128), v.platePoison.contains (a / 128), 0)
        | none => .error .space

/-- The first n bytes of one row of a side written. -/
def sideWrite (s : State) (t : Task) (w a n : Nat) (x : Row) (bad : Bool) : Except Cause State :=
  match tileOf w with
  | some k =>
    let x := if n = 128 then x else patch (Config.freeRow s.fresh) [(0, n, x.toNat)]
    .ok (modTask { s with fresh := s.fresh + 1 } t.uid fun t =>
      let t := landTiles t
      markLine (writeTile t k x bad) bad (.seg (256 * k.toNat + tileW (t.regs.getT k))) t.badRow)
  | none => match spaceOf w with
    | 0 =>
      if isLocal a then .error .space
      else match translate s t.info.part accEngWrite (a / 128 * 128) with
        | .error c => .error c
        | .ok (s, tgt) => .ok (devWrite s (rqEng s t) (ver1 t) t.uid tgt n x bad)
    | 3 =>
      let g := a / 128
      if 3072 ≤ g then .error .space else .ok (modTask s t.uid fun t => markLine (engSeg t (g / 3) (g % 3) n x bad) bad (.acc g) t.badRow)
    | 4 =>
      let pa := 2 ^ 51 + a
      if inIoRange (getPart s t.info.part) pa then .ok (devWrite s (rqEng s t) (ver1 t) t.uid (.io pa pa) n x bad) else .error .prot
    | sp => if 5 ≤ sp then .error .space else match sidePlate s t.info t.uid sp a with
      | .error c => .error c
      | .ok u => .ok (modTask s u fun v => putPlateRow v (a / 128) (patch (sget v.plates (a / 128)) [(0, n, x.toNat)]) bad)
where
  /-- A plate row with or without a poison mark. -/
  putPlateRow (v : Task) (r : Nat) (x : Row) (bad : Bool) : Task := markLine (putPlate v r x bad) bad (.row r) (((findTask s t.uid).getD v).badRow)

/-! ### Faults (R285) -/

/-- Engine numbers of records and interrupts. -/
def engNo : EngKind → Nat
  | .copy _ | .compact => 1
  | .gather => 2
  | .coll => 3

def engEntry : EngKind → Nat
  | .copy e => e
  | _ => 0

/-- The trap that an engine's fault raises for its task, in a record of KIND 1 (R315). -/
def engTrap (o : EngOp) (c : Cause) (a : Nat) : Trap :=
  { cause := c, addr := a, kind := 1, info := 2 ^ 16 * (engEntry o.kind % 256) + engNo o.kind, info2 := o.row }

/-- A page fault stops the operation at its row until the task is restored; any other failed check abandons it. -/
def engFault (s : State) (o : EngOp) (c : Cause) (a : Nat) : State :=
  let s := modTask s o.owner fun t => pend t { engTrap o c a with at_ := some s.clk.ftime }
  if c = .pageFault then modOp s o.id fun o => { o with stopped := true }
  else dropOp (abortPeers s o) o.id

/-! ### When a row may move (R284, R299, R352) -/

def rowsDone (o : EngOp) : Bool := decide (o.total ≤ o.row) && (o.kind != .coll || decide (2 ≤ o.steps))

/-- The accesses of an operation to one of its ranges are made: a collective has read its source when its contribution is whole. -/
def sideDone (o : EngOp) (a : Side) : Bool := rowsDone o || (o.kind == .coll && !a.wr && (decide (2 ≤ o.steps) || (o.steps == 1 && decide (o.total ≤ o.row))))

def sidesMeet (a b : Side) : Bool :=
  a.tile == b.tile && a.acc == b.acc && (a.wr || b.wr) && decide (a.lo ≤ b.hi) && decide (b.lo ≤ a.hi)

/-- The local rows that the next row of an operation touches. -/
def nextSides (i : TaskInfo) (o : EngOp) : List Side :=
  let d := o.desc
  let one := fun (w row : Nat) (wr : Bool) =>
    match tileOf w, spaceOf w with
    | some k, _ => [{ lo := 0, hi := 255, wr := wr, tile := some k.toNat, acc := false : Side }]
    | none, 1 => [{ lo := row % 16384, hi := row % 16384, wr := wr, tile := none, acc := false }]
    | none, 3 => [{ lo := row % 4096, hi := row % 4096, wr := wr, tile := none, acc := true }]
    | none, _ => []
  match o.kind with
  | .copy _ =>
    let row := fun (src : Bool) => ((copyAddr d i src o.row) % (2 ^ 57 : Nat)).toNat / 128
    one (bitsOf d 0 64) (row true) false ++ one (bitsOf d 64 64) (row false) true
  | .gather =>
    let idx := bitsOf d 128 64
    one (bitsOf d 64 64) (bitsOf d 64 57 / 128 + o.row) (!bitAt d (8 * 0x26 + 1))
      ++ if bitAt d (8 * 0x26) then [] else one idx ((idx % 2 ^ 57 + 4 * (o.start + o.row / bitsOf d (8 * 0x24) 16)) / 128) false
  | .coll => if o.steps ≤ 1 then one (bitsOf d 0 64) (bitsOf d 0 57 / 128 + o.row) false else one (bitsOf d 64 64) (bitsOf d 64 57 / 128 + o.row) true
  | .compact => []

/-- The scoreboard: the next row waits for every earlier operation of the task with a range in conflict that it would touch. -/
def scoreboard (s : State) (i : TaskInfo) (o : EngOp) : Bool :=
  (opsOf s o.owner).all fun p => !decide (p.id < o.id)
    || (sidesOf i p).all fun a => sideDone p a || (nextSides i o).all fun b => !sidesMeet a b

/-- The address words of an operation's sides. -/
def sideWords (o : EngOp) : List Nat :=
  let w := fun (k : Nat) => bitsOf o.desc (64 * k) 64
  match o.kind with
  | .copy _ | .coll => [w 0, w 1]
  | .gather => if bitAt o.desc (8 * 0x26) then [w 1] else [w 1, w 2]
  | .compact => []

/-- The task that owns a side is on its core: the issuing task for its own plates, tiles and accumulator, the next stage's for its channel plates (R284). -/
def sideOn (s : State) (t : Task) (w : Nat) : Bool :=
  if spaceOf w = 1 ∨ spaceOf w = 3 then onCore t
  else if spaceOf w = 2 then (nextStage s t.info).elim true onCore
  else true

def sidesOnCore (s : State) (t : Task) (o : EngOp) : Bool := (sideWords o).all (sideOn s t)

/-- A compaction that was started before the operation holds back its rows at or above the old TAIL (R352). -/
def compBars (s : State) (o : EngOp) (vas : List Nat) : Bool := (opsOf s o.owner).any fun p => decide (p.id < o.id) && vas.any (compBlocks p)

/-- Rows that an operation cannot have now: a compaction holds them back, or their region moves, or their stack or a link does not serve them (R239, R242, R352, R374). -/
def compHolds (s : State) (o : EngOp) (vas : List Nat) : Bool :=
  compBars s o vas
    || vas.any fun va => (findTask s o.owner).any fun t => match translate s t.info.part accEngRead (va / 128 * 128) with
      | .ok (_, tgt) => tgtWaits s (rqEng s t) tgt
      | .error _ => false

/-! ### Copy rows (R288) -/

/-- The global address of a side's byte. -/
def globVa (w a : Nat) : List Nat := if spaceOf w = 0 then [a] else []

/-- A stored row of a packed page: row i0 of the stripes from a logical address on. -/
def storedRow (s : State) (t : Task) (base i0 : Nat) (k : Packed) : Except Cause (State × Row × Bool) :=
  let n := stripeRows k
  match translate s t.info.part accEngRead ((base + i0 / n * 8192) % 2 ^ 57) with
  | .error c => .error c
  | .ok (s, .glob _ off coh fmt fb bad) =>
    if packedOf fmt ≠ some k then .error .format
    else
      let pa := fb + off / 8192 * (n * 128) + i0 % n * 128
      if !frameOk (getPart s t.info.part) pa then .error .prot
      else .ok (fetchRow s (rqEng s t) coh (pa / 128), readRow (cohMem s (pa / 128)) pa, bad || poisonedRow s (pa / 128))
  | .ok _ => .error .format

/-- The page format of a global address, for a tile that takes packed rows. -/
def pageFmt (s : State) (t : Task) (w a : Nat) : Except Cause Nat :=
  if spaceOf w ≠ 0 then .ok 0
  else if isLocal a then .error .space
  else match translate s t.info.part accEngRead (a / 128 * 128) with
    | .error c => .error c
    | .ok (_, .glob _ _ _ fmt _ _) => .ok fmt
    | .ok _ => .ok 0

/-- Whether a tile of a type takes rows of a page format as they are read. -/
def tileTakes (ty fmt : Nat) : Bool :=
  if (packedOf fmt).isSome then ty == 10
  else if 1 ≤ fmt ∧ fmt ≤ 5 then ty == fmt + 7
  else decide (ty ≤ 12)

/-- Source strides and address of packed rows are multiples of a stripe's 8,192 logical bytes. -/
def stripeAligned (d : BitVec 1024) (a : Nat) : Bool :=
  a % 8192 == 0 && bitsOf d (8 * 0x18) 32 % 8192 == 0 && bitsOf d (8 * 0x1C) 32 % 8192 == 0

/-- The data of the next row of a copy entry for its destination: packed rows for a tile of type 13 or 14, else the logical row. A fault names the row read. DESIGN CHOICE (log 90): R288's table names pages and non-tile sources; a source that is itself a tile counts as format 0. -/
def copySource (s : State) (t : Task) (o : EngOp) (ty : Option Nat) : Except (Cause × Nat) (State × Row × Bool) :=
  let w := bitsOf o.desc 0 64
  let n0 := bitsOf o.desc 128 16
  let at_ := fun (n : Nat) => sideAddr w (copyAddr o.desc t.info true n - (bitsOf o.desc 0 61 : Nat))
  let a := at_ o.row
  let by_ := fun (a : Nat) {α : Type} (x : Except Cause α) => x.mapError fun c => (c, a)
  match ty with
  | none => (by_ a (sideRead s t w a)).map fun r => (r.1, r.2.1, r.2.2.1)
  | some ty =>
    if ty = 15 then .error (.format, a)
    else if ty = 13 ∨ ty = 14 then
      let b := at_ (o.row / n0 * n0)
      match by_ b (pageFmt s t w b) with
      | .error e => .error e
      | .ok fmt => match packedOf fmt with
        | some k =>
          let fits := match k with
            | .bfp .. => ty == 13
            | .q4g _ => ty == 14
          let row := (b + o.row % n0 / stripeRows k * 8192) % 2 ^ 57
          if fits && stripeAligned o.desc b then by_ row (storedRow s t b (o.row % n0) k) else .error (.format, row)
        | none => .error (.format, b)
    else match sideRead s t w a with
      | .error c => .error (c, a)
      | .ok (s, x, bad, fmt) => if tileTakes ty fmt then .ok (s, x, bad) else .error (.format, a)

/-- The global rows that a copy entry's next row is read from: the logical row, or, for a tile that takes packed rows, every logical row of the stripe that its stored row belongs to (R288, R352). -/
def copyVas (s : State) (t : Task) (o : EngOp) (ty : Option Nat) : List Nat :=
  let w := bitsOf o.desc 0 64
  let n0 := bitsOf o.desc 128 16
  let at_ := fun (n : Nat) => sideAddr w (copyAddr o.desc t.info true n - (bitsOf o.desc 0 61 : Nat))
  let b := at_ (o.row / n0 * n0)
  match ty, pageFmt s t w b with
  | some 13, .ok fmt | some 14, .ok fmt => ((packedOf fmt).map fun k =>
      (List.range 64).map fun i => (b + o.row % n0 / stripeRows k * 8192 + 128 * i) % 2 ^ 57).getD []
  | _, _ => globVa w (at_ o.row)

def copyRow (s : State) (t : Task) (o : EngOp) : State :=
  let v := bitsOf o.desc 64 64
  let da := sideAddr v (copyAddr o.desc t.info false o.row - (bitsOf o.desc 64 61 : Nat))
  if compHolds s o (copyVas s t o ((tileOf v).map fun k => tileTy (t.regs.getT k)) ++ globVa v da) || segHeld s t v then s
  else match copySource s t o ((tileOf v).map fun k => tileTy (t.regs.getT k)) with
    | .error (c, a) => engFault s o c a
    | .ok (s1, x, bad) => match sideWrite s1 ((findTask s1 t.uid).getD t) v da 128 x bad with
      | .error c => engFault s o c da
      | .ok s2 => modOp s2 o.id fun o => { o with row := o.row + 1 }

/-! ### Gather and scatter (R292 to R294) -/

/-- A descriptor field. -/
def gfld (d : BitVec 1024) (off n : Nat) : Nat := bitsOf d (8 * off) (8 * n)

/-- The element width that TBL's page tag gives. -/
def gatherW (fmt : Nat) : Nat :=
  if fmt = 3 ∨ fmt = 4 ∨ (packedOf fmt).isSome then 16 else if fmt = 5 then 32 else 8

/-- The pad row; where TBL has no page whose tag could be read, the spec names no width, and the row is undefined (log 25). -/
def padRow (s : State) (t : Task) (d : BitVec 1024) : State × Row :=
  let w := gfld d 0 8
  match pageFmt s t w (sideAddr w 0) with
  | .ok fmt => (s, packRow (gatherW fmt) (List.replicate (1024 / gatherW fmt) (gfld d 0x44 4)))
  | .error _ => ({ s with fresh := s.fresh + 1 }, Config.freeRow s.fresh)

/-- Where row n comes from or goes in the table: none where it is invalid or outside; an index row that is poisoned marks the row. The state moves on where the index was read. -/
def indexRow (s : State) (t : Task) (o : EngOp) : Except (Cause × Nat) (State × Option Int × Bool) :=
  let d := o.desc
  let rows := gfld d 0x24 2
  let i := o.row / rows
  let j := o.row % rows
  let w := gfld d 0x10 8
  let a := sideAddr w ((4 * (o.start + i) : Nat))
  if spaceOf w ≠ 1 ∨ (tileOf w).isSome then .error (.space, a)
  else match sideRead s t w a with
    | .error c => .error (c, a)
    | .ok (s, x, bad, _) =>
      let q := laneN x 32 (a / 4 % 32)
      if q = 0xffffffff ∨ gfld d 0x1C 4 ≤ q then .ok (s, none, bad)
      else .ok (s, some ((q * (gfld d 0x20 4 / 128 * 128) + j * 128 : Nat) : Int), bad)

/-- n, oh, ow of a pixel; without output pixels they are undefined (log 25). -/
def convPixel (s : State) (d : BitVec 1024) (p : Nat) : Nat × Nat × Nat :=
  let oh := gfld d 0x34 2
  let ow := gfld d 0x36 2
  if oh * ow = 0 then
    ((Config.freeRow s.fresh).toNat % 2 ^ 32, (Config.freeRow (s.fresh + 1)).toNat % 2 ^ 32, (Config.freeRow (s.fresh + 2)).toNat % 2 ^ 32)
  else (p / (oh * ow), p / ow % oh, p % ow)

def convRow (s : State) (o : EngOp) : State × Option Int :=
  let d := o.desc
  let rows := gfld d 0x24 2
  let R := atLeast1 (gfld d 0x38 1)
  let S := atLeast1 (gfld d 0x39 1)
  let j := o.row % rows
  let tap := o.row / rows
  let sx := tap % S
  let r := tap / S % R
  let (n, oh, ow) := convPixel s d (gfld d 0x40 4 + o.start + tap / S / R)
  let h : Int := (oh * atLeast1 (gfld d 0x3A 1) + r * atLeast1 (gfld d 0x3C 1) : Nat) - (gfld d 0x3E 1 : Nat)
  let w : Int := (ow * atLeast1 (gfld d 0x3B 1) + sx * atLeast1 (gfld d 0x3D 1) : Nat) - (gfld d 0x3F 1 : Nat)
  let H := gfld d 0x30 2
  let W := gfld d 0x32 2
  ({ s with fresh := s.fresh + 3 },
    if n < gfld d 0x2E 2 ∧ 0 ≤ h ∧ h < H ∧ 0 ≤ w ∧ w < W then
      some (((n * H : Nat) + h) * W * (rows * 128 : Nat) + w * (rows * 128 : Nat) + (j * 128 : Nat)) else none)

/-- The table's byte that a row is at. -/
def gatherAddr (o : EngOp) (at_ : Option Int) : Option Nat := at_.map fun x => sideAddr (gfld o.desc 0 8) x

/-- A gather's or scatter's row that cannot move now. -/
def gatherHeld (s : State) (t : Task) (o : EngOp) (at_ : Option Int) : Bool :=
  compHolds s o ((gatherAddr o at_).elim [] (globVa (gfld o.desc 0 8))) || (!bitAt o.desc (8 * 0x26 + 1) && segHeld s t (gfld o.desc 8 8))

/-- One row between LOC and the table; an invalid one takes the pad row, or its write is suppressed, and of LOC only a tile's next segment goes by (R293, R294). -/
def gatherMove (s : State) (t : Task) (o : EngOp) (at_ : Option Int) (bad0 : Bool) : State :=
  let tbl := gfld o.desc 0 8
  let loc := gfld o.desc 8 8
  let la := sideAddr loc ((o.row * 128 : Nat))
  let ta := gatherAddr o at_
  let me := fun (s : State) => (findTask s t.uid).getD t
  let next := fun (s : State) => modOp s o.id fun o => { o with row := o.row + 1 }
  if bitAt o.desc (8 * 0x26 + 1) then
    match ta with
    | none => next (if (tileOf loc).isNone then s else match sideRead s (me s) loc la with
        | .ok (s1, _) => s1
        | .error _ => s)
    | some ta => match sideRead s (me s) loc la with
      | .error c => engFault s o c la
      | .ok (s1, x, bad, _) => match sideWrite s1 (me s1) tbl ta 128 x (bad || bad0) with
        | .error c => engFault s o c ta
        | .ok s2 => next s2
  else
    let put := fun (s1 : State) (x : Row) (bad : Bool) => match sideWrite s1 (me s1) loc la 128 x (bad || bad0) with
      | .error c => engFault s o c la
      | .ok s2 => next s2
    match ta with
    | none =>
      let (s1, x) := padRow s t o.desc
      put s1 x false
    | some ta => match sideRead s (me s) tbl ta with
      | .error c => engFault s o c ta
      | .ok (s1, x, bad, _) => put s1 x bad

def gatherRow (s : State) (t : Task) (o : EngOp) : State :=
  let tbl := gfld o.desc 0 8
  let loc := gfld o.desc 8 8
  if !(spaceOf tbl == 0 || spaceOf tbl == 4) then engFault s o .space (tbl % 2 ^ 57)
  else if spaceOf loc ≠ 1 then engFault s o .space (loc % 2 ^ 57)
  else if bitAt o.desc (8 * 0x26) then
    let (s1, x) := convRow s o
    if gatherHeld s t o x then s else gatherMove s1 t o x false
  else match indexRow s t o with
    | .error (c, a) => engFault s o c a
    | .ok (s1, x, bad) => if gatherHeld s t o x then s else gatherMove s1 t o x bad

/-! ### Collectives (R295 to R298, R389, R390) -/

def collOp (d : BitVec 1024) : Nat := bitsOf d (8 * 0x28) 3
def collRank (d : BitVec 1024) : Nat := gfld d 0x24 2
def collRoot (d : BitVec 1024) : Nat := gfld d 0x26 2
def collCount (d : BitVec 1024) : Nat := gfld d 0x20 4

/-- n bytes of an engine's global reads, row by row. -/
def engBytes (s : State) (t : Task) (a : Nat) : Nat → Except (Cause × Nat) Nat
  | 0 => .ok 0
  | n + 1 =>
    let b := (a + n) % 2 ^ 57
    if isLocal b then .error (.space, b)
    else match translate s t.info.part accEngRead (b / 128 * 128) with
      | .error c => .error (c, b / 128 * 128)
      | .ok (s1, tgt) =>
        let (_, x, _, _) := devRead s1 (rqEng s t) (ver1 t) tgt
        match engBytes s t a n with
        | .error e => .error e
        | .ok y => .ok (y + laneN x 8 (b % 128) * 2 ^ (8 * n))

/-- The partition lists a group identity (R389). -/
def listsGid (q : Part) (gid : Nat) : Bool := q.res.gidmap.any fun e => bitAt e 32 && fld e 31 0 == gid

/-- Units of a resource that a partition holds (R377). -/
def heldUnits (q : Part) (ty inst : Nat) : Nat := ((q.res.held.filter fun h => h.1 == ty && h.2.1 == inst).map fun h => h.2.2).sum

/-- The I/O die of a compute die (R373). -/
def ioDieOf (die : Nat) : Nat := die / 4

/-- Queues of a partition on an I/O die that are open. -/
def ethQueues (q : Part) (io : Nat) : List EthQueue := q.res.ethOpen.filter fun e => e.io == io

/-- A queue has carried a packet. -/
def ethUsed (s : State) (p io node : Nat) : State :=
  modPR s p fun r => { r with ethOpen := r.ethOpen.map fun e => if e.io = io ∧ e.node = node then { e with used := s.clk.ftime } else e }

/-- A packet's queue to a node: an open one, or one opened from the grant; none while every queue of the grant is open (R390). -/
def ethFor (s : State) (p io node : Nat) : Option State :=
  let l := ethQueues (getPart s p) io
  if l.any fun e => e.node == node then some (ethUsed s p io node)
  else if l.length < heldUnits (getPart s p) 7 io then
    some (modPR s p fun r => { r with ethOpen := r.ethOpen ++ [{ io := io, node := node, used := s.clk.ftime }] })
  else none

/-- A collective that ends at once with a status and no result. -/
def collDecide (s : State) (id st : Nat) : State := modOp s id fun o => { o with status := st, steps := 2, row := 0, total := 0, buf := [], bad := [] }

/-- A collective one of whose ranks has gone: this rank completes with ABORTED_PEER, and the news has met it (R298). -/
def meetGone (s : State) (id : Nat) : State := match findOp s id with
  | none => s
  | some o =>
    let mine := fun (g : CollGone) => g.after == o.after && g.tag == o.start && g.job == jobOf s o.owner && g.left.contains (rankOf o)
    if s.sched.gone.any mine then
      let s := modOp s id fun o => { o with status := 1 }
      { s with sched := { s.sched with gone := (s.sched.gone.map fun g =>
          if mine g then { g with left := g.left.filter (· != rankOf o) } else g).filter fun g => !g.left.isEmpty } }
    else s

/-- The rows of n bytes from a global address on. -/
def spanVas (a n : Nat) : List Nat := (List.range ((a % 128 + n + 127) / 128)).map fun k => (a / 128 * 128 + 128 * k) % 2 ^ 57

/-- The group is read, where its rows are there to be had, and checked; BADCMD where R296, R389 or R390 says so. -/
def collHeader (s : State) (t : Task) (o : EngOp) : State :=
  let d := o.desc
  let grp := gfld d 0x10 8
  if spaceOf grp = 0 ∧ compHolds s o (spanVas (grp % 2 ^ 57) 16) then s
  else if spaceOf grp ≠ 0 ∨ 2 ≤ spaceOf (gfld d 0 8) ∨ 2 ≤ spaceOf (gfld d 8 8) then engFault s o .space (grp % 2 ^ 57)
  else match engBytes s t (grp % 2 ^ 57) 16 with
    | .error (c, a) => engFault s o c a
    | .ok h =>
      let n := h % 2 ^ 32
      let gid := h / 2 ^ 32 % 2 ^ 32
      if h / 2 ^ 64 ≠ 0 ∨ n < 2 ∨ 65536 < n then collDecide s o.id 4
      else if compHolds s o (spanVas ((grp + 16) % 2 ^ 57) (4 * n)) then s
      else match engBytes s t ((grp + 16) % 2 ^ 57) (4 * n) with
        | .error (c, a) => engFault s o c a
        | .ok raw =>
          let q := getPart s t.info.part
          match groupNodes n raw with
          | none => collDecide s o.id 4
          | some nodes =>
            let o1 := { o with steps := 1, after := gid + 1, ranks := n, nodes := nodes }
            if n ≤ collRank d ∨ nth nodes (collRank d) (2 ^ 32) ≠ ownNode s ∨ 5 ≤ collOp d
                ∨ (collOp d = 3 ∧ n ≤ collRoot d) ∨ (collOp d = 4 ∧ collCount d % n ≠ 0) ∨ !listsGid q gid
                ∨ (farNodes s o1 ≠ [] ∧ heldUnits q 7 (ioDieOf (rqEng s t).die) = 0) then collDecide s o.id 4
            else meetGone (modOp s o.id fun _ => o1) o.id

/-- The contribution is delivered to the ranks of this device when it is whole, and is then to go to the nodes of the others (R389). -/
def collSend (s : State) (id : Nat) : State := match findOp s id with
  | some o =>
    if o.row = o.total then
      modOp { s with sched := { s.sched with packets := s.sched.packets ++ [packetOf s o false] } } id fun o => { o with toSend := farNodes s o }
    else s
  | none => s

/-- The contribution goes to the first of its other nodes that has, or can have, a queue: by the links to the I/O die, its rows charged to the partition (R374, R390). -/
def collPush (s : State) (t : Task) (o : EngOp) : State :=
  let q := rqEng s t
  let io := ioDieOf q.die
  if !wayOpen s q (route q.die (8 + io)) then s
  else match o.toSend.findSome? fun n => (ethFor s t.info.part io n).map fun s => (s, n) with
  | some (s, n) =>
    let s := (List.range (atLeast1 o.buf.length)).foldl (fun s _ => useLinks s q (route q.die (8 + io))) s
    modOp { s with ept := { s.ept with rud := s.ept.rud ++ [(n, packetOf s o false)] } } o.id fun o => { o with toSend := o.toSend.filter (· != n) }
  | none => s

/-- A row of SRC is read, or a row of the result written. -/
def collRow (s : State) (t : Task) (o : EngOp) : State :=
  let src := gfld o.desc 0 8
  let dst := gfld o.desc 8 8
  if o.steps = 0 then
    let s := collHeader s t o
    match findOp s o.id with
    | some p => if p.steps = 1 ∧ p.total = 0 then collSend s o.id else s
    | none => s
  else if o.steps = 1 then
    let a := sideAddr src ((o.row * 128 : Nat))
    if compHolds s o (globVa src a) then s
    else match sideRead s t src a with
      | .error c => engFault s o c a
      | .ok (s, x, bad, _) =>
        let n := min 128 (collBytes o.desc - 128 * o.row)
        let x := BitVec.ofNat 1024 (x.toNat % 2 ^ (8 * n))
        collSend (modOp s o.id fun o => { o with row := o.row + 1, buf := o.buf ++ [x], bad := if bad then o.bad ++ [o.row] else o.bad }) o.id
  else
    let a := sideAddr dst ((o.row * 128 : Nat))
    if compHolds s o (globVa dst a) || segHeld s t dst then s
    else
      let all := collResBytes o
      match sideWrite s t dst a (min 128 (all - 128 * o.row)) (nth o.buf o.row 0) (o.bad.contains o.row) with
      | .error c => engFault s o c a
      | .ok s => modOp s o.id fun o => { o with row := o.row + 1 }
where
  /-- Bytes of a rank's result. -/
  collResBytes (o : EngOp) : Nat :=
    match collOp o.desc with
    | 2 => collBytes o.desc * o.ranks
    | 4 => collBytes o.desc / o.ranks
    | _ => collBytes o.desc

/-- Contributions of one rank: rows, and those of them that are poisoned. -/
structure RankData where
  rows : List Row
  bad : List Nat
  deriving DecidableEq, Repr

/-- Local operations of one collective: same group, same tag, a partition of the same job (R389). -/
def sameColl (s : State) (o p : EngOp) : Bool :=
  p.kind == .coll && p.after == o.after && p.start == o.start && decide (1 ≤ p.steps)
    && jobOf s p.owner == jobOf s o.owner

def contributed (p : EngOp) : Bool := decide (p.steps = 1 ∧ p.row = p.total ∧ p.toSend = [])

/-- A packet of an operation's collective. -/
def packetFor (s : State) (o : EngOp) (p : CollPacket) : Bool :=
  p.job == jobOf s o.owner && p.gid.toNat + 1 == o.after && p.tag.toNat == o.start

/-- What rank k has delivered. -/
def rankData (s : State) (o : EngOp) (k : Nat) : Option RankData :=
  (s.sched.packets.find? fun p => packetFor s o p && p.rank == k).map fun p => { rows := p.data, bad := p.head.bad }

/-- The greatest number of ranks that a contribution names: the collective ends when that many have contributed. -/
def collNeed (s : State) (o : EngOp) : Nat :=
  (s.sched.packets.filter (packetFor s o)).foldl (fun n p => max n p.head.ranks) o.ranks

/-- Ranks disagree on OP, COUNT, ROOT or the number of ranks. -/
def collMismatch (s : State) (o : EngOp) : Bool :=
  s.sched.packets.any fun p => packetFor s o p && { p.head with bad := [] } != { headOf o false with bad := [] }

/-- A rank matches its tags of a group in ascending order: one that has a lower tag to match does not match this one yet (R298). -/
def lowerTag (s : State) (o : EngOp) : Bool :=
  s.sched.ops.any fun p => p.kind == .coll && p.after == o.after && rankOf p == rankOf o && jobOf s p.owner == jobOf s o.owner
    && decide (p.start < o.start) && decide (p.steps ≤ 1)

/-- Bytes of a list of rows as one number, element i of w bits. -/
def elemAt (l : List Row) (w i : Nat) : Nat := laneN (nth l (i * w / 1024) 0) w (i % (1024 / w))

/-- Rows that hold a list of elements. -/
def elemRows (w : Nat) (l : List Nat) : List Row :=
  let per := 1024 / w
  (List.range ((l.length + per - 1) / per)).map fun r => packRow w ((l.drop (r * per)).take per)

/-- Element-wise sum over ranks on the fixed tree (R297). -/
def sumRanks (l : List RankData) (i : Nat) : Nat :=
  treeN (laneAdd false 12 0) 0 17 (l.map fun d => elemAt d.rows 32 i)

/-- The winning pair over ranks on the fixed tree. -/
def maxRanks (l : List RankData) (i : Nat) : Nat :=
  treeN (fun a b => let r := pairMax (a % 2 ^ 32, a / 2 ^ 32) (b % 2 ^ 32, b / 2 ^ 32); r.1 + 2 ^ 32 * r.2) 0 17 (l.map fun d => elemAt d.rows 64 i)

/-- Elements of result rows that a poisoned source row enters. -/
def badRows (l : List RankData) (per lo n : Nat) : List Nat :=
  (List.range ((n + per - 1) / per)).filter fun r =>
    l.any fun d => d.bad.any fun b => decide (b * per < lo + min n (r * per + per)) && decide (lo + r * per < b * per + per)

/-- What rank k's DST receives (R297). -/
def collResult (d : BitVec 1024) (ranks : Nat) (l : List RankData) : List Row × List Nat :=
  let n := collCount d
  match collOp d with
  | 0 => (elemRows 32 ((List.range n).map (sumRanks l)), badRows l 32 0 n)
  | 1 => (elemRows 64 ((List.range n).map (maxRanks l)), badRows l 16 0 n)
  | 2 => (l.flatMap RankData.rows, (List.range l.length).flatMap fun k => (nth l k { rows := [], bad := [] }).bad.map fun b => k * n + b)
  | 3 => let r := nth l (collRoot d) { rows := [], bad := [] }; (r.rows, r.bad)
  | _ =>
    let m := n / ranks
    let lo := collRank d * m
    (elemRows 32 ((List.range m).map fun i => sumRanks l (lo + i)), badRows l 32 lo m)

/-- The outcome of one rank's operation. -/
def collSet (s : State) (id st : Nat) (r : List Row × List Nat) : State :=
  modOp s id fun o => { o with status := st, steps := 2, row := 0, total := r.1.length, buf := r.1, bad := r.2 }

/-- DST holds undefined rows. -/
def collUndef (s : State) (o : EngOp) (st : Nat) : State :=
  let n := collRows o.desc (atLeast1 o.ranks)
  collSet { s with fresh := s.fresh + n } o.id st ((List.range n).map fun i => Config.freeRow (s.fresh + i), [])

/-- The outcome, once it is known: every rank of it on this device takes it at once. -/
def collOutcome (s : State) (o : EngOp) : State :=
  if o.status = 1 then collUndef s o 1
  else
    let mine := s.sched.ops.filter fun p => sameColl s o p && contributed p
    if !contributed o || mine.any (lowerTag s) then s
    else
      let l := (List.range (collNeed s o)).map (rankData s o)
      if l.all Option.isSome then
        let l := l.filterMap id
        let bad := collMismatch s o
        let s1 := mine.foldl (fun s p => if bad then collDecide s p.id 3 else collSet s p.id 0 (collResult p.desc o.ranks l)) s
        { s1 with sched := { s1.sched with packets := s1.sched.packets.filter fun p => !packetFor s o p } }
      else s

/-! ### Compaction rows (R351) -/

/-- The iterations that move. -/
def compMoves (d : BitVec 1024) : List Nat := (List.range (compN d)).filter fun j => j != 0 && compRowOf d j != j

/-- A row of the device's memory as it is now, in the snapshot of a round that is in SPEC: a compaction's rows are what its loads wait for (R352, R356). -/
def snapRow (s : State) (row : Nat) (m : Madder) : Madder :=
  if m.phase = .spec then
    { m with
      snapMem := writeRow m.snapMem (row * 128) (readRow s.mem (row * 128)), snapHealed := row :: m.snapHealed
      snapBad := if poisonedRow s row then row :: m.snapBad else m.snapBad.filter (· != row) }
  else m

/-- What has become of virtual rows, for the snapshots of the task's group. -/
def snapVas (s : State) (t : Task) (vas : List Nat) : State :=
  let rows := vas.flatMap fun va => match translate s t.info.part accEngRead va with
    | .ok (_, tgt) => rowsOf tgt
    | .error _ => []
  modAllTasks s fun u => if u.uid = t.uid || t.fused.contains u.uid then { u with spec := rows.foldl (fun m r => snapRow s r m) u.spec } else u

def compactRow (s : State) (t : Task) (o : EngOp) : State :=
  let d := o.desc
  let rb := compRb d
  let j := nth (compMoves d) (o.row / rb) 0
  let va := fun (l : Nat) => (compBase d + (compTail d + l) * rb * 128 + o.row % rb * 128) % 2 ^ 57
  if compHolds s o [va (compRowOf d j), va j] then s
  else match sideRead s t 0 (va (compRowOf d j)) with
    | .error c => engFault s o c (va (compRowOf d j))
    | .ok (s1, x, bad, _) => match sideWrite s1 t 0 (va j) 128 x bad with
      | .error c => engFault s o c (va j)
      | .ok s2 => snapVas (modOp s2 o.id fun o => { o with row := o.row + 1 }) t [va j]

/-- The rows above the new tail are invalidated, and the commit is complete. -/
def compactEnd (s : State) : State :=
  match (opsOf s s.task.uid).find? fun o => o.kind == .compact && decide (o.total ≤ o.row) && !o.stopped with
  | none => s
  | some o =>
    let d := o.desc
    let lo := compTail d + compN d
    let s := match compHi d with
      | some h =>
        snapVas (wipe s (compBase d) (compRb d) lo h) s.task
          ((List.range ((h + 1 - lo) * compRb d)).map fun i => (compBase d + lo * compRb d * 128 + i * 128) % 2 ^ 57)
      | none => s
    dropOp s o.id

/-! ### One row, and completion (R283, R284) -/

/-- The next row of an operation, where nothing holds it back. -/
def engineStep (s : State) (id : Nat) : State :=
  match findOp s id with
  | none => s
  | some o => match findTask s o.owner with
    | none => s
    | some t =>
      if o.stopped || powerFrozen s t || s.mir.mute.contains o.die || !sidesOnCore s t o || !scoreboard s t.info o || (sideWords o).any (tileLate t) then s
      else match o.kind with
        | .coll => if o.steps = 0 ∨ o.row < o.total then collRow s t o else if o.steps = 1 then collPush s t o else s
        | k => if o.total ≤ o.row then s else match k with
          | .copy _ => copyRow s t o
          | .gather => gatherRow s t o
          | _ => compactRow s t o

/-- Plates of an entry's own-local sides (R289). -/
def entryPlates (i : TaskInfo) (o : EngOp) : List Nat :=
  (List.range 128).filter fun p => namesPlate i o p

def opHb (o : EngOp) : Bool := match o.kind with
  | .copy _ => bitAt o.desc (8 * 0x39)
  | _ => false

/-- Step 3: plates go back to the thread, but for those that another operation with HB still reaches. -/
def handBack (s : State) (t : Task) (o : EngOp) : State :=
  if !opHb o then s
  else
    let others := (opsOf s o.owner).filter fun p => p.id != o.id && opHb p
    let l := (entryPlates t.info o).filter fun p => !others.any fun q => namesPlate t.info q p
    modTask s t.uid fun t => { t with owners := l.foldl (fun b p => b &&& ~~~ plateBits p 1) t.owners }

/-- The rows that an operation's shape writes: its byte count stands whatever the outcome (R282). -/
def shapeRows (o : EngOp) : Nat := if o.kind = .coll then collRows o.desc o.ranks else o.total

/-- Steps 4 and 5: the counter, then the barrier; an overrun ends the task. -/
def signalOut (s : State) (t : Task) (o : EngOp) : State :=
  let s := if bitAt o.cw 23 then decCounter s t.info.part (fld o.cw 11 0) else s
  if cwBar o.cw then
    let (s, past) := deliverTo s (barTeam s t.info o) (cwBidx o.cw) (128 * shapeRows o) o.tag
    if past then modTask s t.uid fun t => pend t { engTrap o .barOverrun 0 with at_ := some s.clk.ftime } else s
  else s

/-- Step 6: the interrupt is queued, or dropped with OVF (R305). -/
def queueInt (s : State) (t : Task) (o : EngOp) : State :=
  let x : W64 := BitVec.ofNat 64 (fld o.cw 39 32 + 2 ^ 8 * engNo o.kind + 2 ^ 16 * (engEntry o.kind % 256))
  modTask s t.uid fun t =>
    if t.uint.queue.length < 16 then { t with uint := { t.uint with queue := t.uint.queue ++ [x] } }
    else { t with uint := { t.uint with ovf := true } }

/-- The completion steps of R283 from step 3 on; steps 3 and 6 wait for the task. -/
def completeOp (s : State) (o : EngOp) : State :=
  match findTask s o.owner with
  | none => s
  | some t =>
    let irq := bitAt o.cw 31
    if o.steps = 3 then (if onCore t then closeOp (queueInt s t o) o else s)
    else if opHb o && !onCore t then s
    else
      let s := signalOut (handBack s t o) t o
      if !irq then closeOp s o
      else if onCore t then closeOp (queueInt s t o) o
      else modOp s o.id fun o => { o with steps := 3 }

/-- An operation whose rows are written completes; a compaction has an end of its own. -/
def engineFinish (s : State) (id : Nat) : State :=
  match findOp s id with
  | some o => match o.kind with
    | .copy _ | .gather => if decide (o.total ≤ o.row) && !o.stopped then completeOp s o else s
    | _ => s
  | none => s

/-- A collective takes its outcome; then, its rows written, its status word is written with release and the completion steps follow (R283, R298). -/
def collFinish (s : State) (id : Nat) : State :=
  match findOp s id with
  | some o =>
    if o.kind ≠ .coll then s
    else if o.steps ≤ 1 then collOutcome s o
    else if o.steps = 3 then completeOp s o
    else if o.row < o.total ∨ o.stopped then s
    else match findTask s o.owner with
      | none => s
      | some t =>
        let stw := gfld o.desc 0x18 8
        let x := o.start % 2 ^ 32 * 2 ^ 32 + o.status
        if spaceOf stw ≠ 0 ∨ isLocal (stw % 2 ^ 57) then engFault s o .space (stw % 2 ^ 57)
        else match translate s t.info.part accEngWrite (stw % 2 ^ 57 / 8 * 8) with
          | .error c => engFault s o c (stw % 2 ^ 57 / 8 * 8)
          | .ok (_, tgt) => if tgtWaits s (rqDevice t.info.part) tgt || compBars s o [stw % 2 ^ 57 / 8 * 8] then s else completeOp (writeVirt s t.info.part (stw % 2 ^ 57 / 8 * 8) 8 x) o
  | none => s

/-- TMO has passed without every rank contributing (R298). -/
def collLate (s : State) (id : Nat) : State :=
  match findOp s id with
  | some o =>
    let tmo := gfld o.desc 0x2C 4
    let whole := contributed o && (List.range (collNeed s o)).all fun k => (rankData s o k).isSome
    if !whole ∧ o.kind = .coll ∧ o.steps ≤ 1 ∧ tmo ≠ 0 ∧ o.trigger + 1000 * tmo ≤ s.clk.ftime then collUndef s { o with stopped := false } 2 else s
  | none => s

/-! ### User-level interrupts (R306) -/

/-- Results on their way to the shadow's registers. -/
def shadowBusy (t : Task) : Bool := t.flights.any fun f => match f.dest with
  | .reg (.s n) => decide (56 ≤ n.toNat)
  | .reg (.p n) => decide (1 ≤ n.toNat ∧ n.toNat ≤ 3)
  | _ => false

def uintReady (s : State) : Bool :=
  let t := s.task
  t.uint.en && !t.uint.inHandler && !t.uint.queue.isEmpty && onCore t && t.freeze.isEmpty && t.pending.isEmpty && (lateSeqs t).isEmpty
    && !powerFrozen s t && !awaitsChild s t.uid && t.time.waitN == 0 && decide (t.fused.length < 2) && !roundOpen t.spec && !shadowBusy t && (fragOf t.info.ftab 255).isSome

/-- Entry into the handler: an acquire (R259). -/
def enterHandler (s : State) : State :=
  if !uintReady s then s
  else
    let s := acquireCore s s.task
    let t := s.task
    let r := t.regs
    let x := t.uint.queue.headD 0
    let u : UInt := { t.uint with
      queue := t.uint.queue.tail, ovf := false, inHandler := true, shRrb := r.rrb, ret := r.pc
      shS := (List.range 8).map fun k => r.getS (BitVec.ofNat 6 (56 + k))
      shP := [r.getP 1, r.getP 2, r.getP 3] }
    let t := moveReg t .rrb 0 s.seq
    let t := moveReg t (.s 63) (row64 (x + (if t.uint.ovf then (0x1000000 : W64) else 0))) s.seq
    tickN2 { s with
      seq := s.seq + 1
      task := { t with uint := u, regs := { t.regs with pc := (fragOf t.info.ftab 255).getD 0, cyc := t.regs.cyc + 2 } } }
where
  /-- The two issue cycles that the entry spends. -/
  tickN2 (s : State) : State := tick (tick s)

/-! ### The heartbeat (R262) -/

def clockN : Nat → Clock → Clock
  | 0, c => c
  | n + 1, c => clockN n (tickClock c)

/-- Time passes to the next tick. -/
def nextTick (s : State) : State :=
  let c := clockN (128 - s.clk.ck % 128) s.clk
  modAllTasks { s with clk := c } fun t => thawTicks c.hb (chargeTime (c.ftime - s.clk.ftime) t)

/-! ### The events -/

/-- The compaction of a commit ends (R351, R352). -/
def execCompactionDone (s : State) : Host.Outcome State Fault Refusal := .next (compactEnd s)
/-- An engine moves a row (R288). -/
def execEngineRow (op : Nat) (s : State) : Host.Outcome State Fault Refusal := .next (engineStep s op)
/-- An operation completes (R283). -/
def execEngineComplete (op : Nat) (s : State) : Host.Outcome State Fault Refusal := .next (engineFinish s op)
/-- An interrupt is entered (R306). -/
def execUintEntry (s : State) : Host.Outcome State Fault Refusal := .next (enterHandler s)
/-- A collective ends (R298). -/
def execCollEnd (op : Nat) (s : State) : Host.Outcome State Fault Refusal := .next (collFinish s op)
/-- A collective times out (R298). -/
def execCollTimeout (op : Nat) (s : State) : Host.Outcome State Fault Refusal := .next (collLate s op)
/-- A heartbeat tick (R262). -/
def execHeartbeatTick (s : State) : Host.Outcome State Fault Refusal := .next (nextTick s)

end Sys2Proof.Machine
end

