-- ==== Sys2Proof/Machine/Lsu.lean ====
section
/-! DEFINITION. The memory unit: loads, stores, element forms, atomics, reductions, fences, stash and plate ownership (R86, R111 to R119, R227, R245 to R279, R354 to R356). -/

namespace Sys2Proof.Machine

def lsuAct (h : Head) (fn : TrigFn) : Nat → Act := trigAct unitLsu h fn
/-- A trigger that takes a landing-buffer entry (R37). -/
def lsuTimed (h : Head) (fn : TrigFn) : Nat → Act := fun k => { lsuAct h fn k with timed := fun _ => true }

/-! ### Arrivals and results -/

/-- Arrival n (R37): c[11:0], 0 acts as 1. -/
def arrival (c : W64) : Nat := atLeast1 (fld c 11 0)

def timedResult (s : State) (g : Trig) (d : Dest) (n : Nat) (kind : FlightKind) (x : Option (Row × Bool)) : State :=
  { s with task := addFlight s.task { dest := d.norm, kind := kind, val := x.map Prod.fst, poison := x.elim false Prod.snd
                                      due := g.cyc + n, seq := g.seq, dead := false, landed := false } }

/-- A triggered operation joins the task's queues. -/
def push (s : State) (seq : Nat) (k : MemKind) : State :=
  { s with task := { s.task with memq := s.task.memq ++ [{ seq := seq, kind := k }] } }

/-- A store-queue operation or ordering point: buffered or deferred for a speculative iteration (R354), else queued, where the store queue has room (R84). -/
def putOp (g : Trig) (s : State) (k : MemKind) : TR :=
  if speculative g.s0.task then .ok (bufferOp s (iterOf g.s0.task) { seq := g.seq, kind := k })
  else if takesEntry k && decide (32 ≤ storeEntries s.task) then .stall
  else .ok (push s g.seq k)

/-- A store-queue operation that a speculative iteration does not hold back. -/
def putDirect (g : Trig) (s : State) (k : MemKind) : TR :=
  if takesEntry k && decide (32 ≤ storeEntries s.task) then .stall else .ok (push s g.seq k)

/-- The result of a deferred operation, written at its drain, where the operation was entered (R354). -/
def deferResult (s : State) (g : Trig) (d : Dest) : State :=
  if s.task.spec.buf.any fun e => e.2.seq == g.seq then timedResult s g d 0 .deferred none else s

/-! ### ld, ldq, st (R114 to R116) -/

/-- The row address that t gives; bits [6:0] and [63:57] are ignored. -/
def rowVa (x : W64) : Nat := x.toNat % 2 ^ 57 / 128 * 128

def rowFault (va : Nat) (c : Cause) : Trap := { cause := c, addr := va }

/-- The fault of a task's access: through a bound row's local address it names the virtual row (R227). -/
def accFault (s : State) (va : Nat) (c : Cause) : Trap := rowFault (faultVa s.task va) c

/-- A load: the value that a speculative one has at once (R356), else its place in the queue, which a speculative one takes too where a compaction holds its row (R352). -/
def loadNow (g : Trig) (s : State) (tgt : Target) : State × Option (Row × Bool) :=
  if !speculative g.s0.task then (push s g.seq (.ld tgt), none)
  else if compClear s s.task.memq (.ld tgt) then
    let x := specRead s (mySnap g.s0.task g.seq) tgt
    (x.1, some x.2)
  else (push s g.seq (.ldIter (iterOf g.s0.task) tgt), none)

def trigLd : TrigFn := fun g s =>
  match destOf (rrbRead g.s0) (rd64 g s .lsud) with
  | none => .trap (trapOf .illDst)
  | some d =>
    let va := rowVa (lo64 g.val)
    match resolve s accLoad va with
    | .error c => .trap (accFault s va c)
    | .ok (s1, tgt) =>
      let n := arrival (rd64 g s .lsuc)
      let (s2, x) := loadNow g (eat s1 [.lsuc, .lsud]) tgt
      .ok (timedResult s2 g d n .timed x)

def trigLdq : TrigFn := fun g s =>
  let va := rowVa (lo64 g.val)
  match resolve s accLoad va with
  | .error c => .trap (accFault s va c)
  | .ok (s1, tgt) =>
    let (s2, x) := loadNow g s1 tgt
    let e : LqEntry := { seq := g.seq, val := x.map Prod.fst, poison := x.elim false Prod.snd }
    .ok { s2 with task := { s2.task with lq := s2.task.lq ++ [e], dirty := touchUnit s2.task.dirty (unitPage 2) } }

/-- A store into a tentative window goes to memory directly (R351), and an iteration's own loads see it (R356). -/
def putTentative (g : Trig) (s : State) (hits : List (Nat × Nat)) (k : MemKind) : TR :=
  let s := { s with task := { s.task with spec := hits.foldl (fun m h => raiseHi m h.1 h.2) s.task.spec } }
  let s := if speculative g.s0.task then
      { s with task := { s.task with spec := { s.task.spec with tent := s.task.spec.tent ++ [(iterOf g.s0.task, { seq := g.seq, kind := k })] } } }
    else s
  putDirect g s k

def trigSt : TrigFn := fun g s =>
  let va := rowVa (lo64 g.val)
  match resolve s accStore va with
  | .error c => .trap (accFault s va c)
  | .ok (s1, tgt) =>
    let k := MemKind.st tgt (rd g s .lsua)
    let s1 := eat s1 [.lsua]
    match tentative g.s0.task.spec tgt with
    | some h => putTentative g s1 [h] k
    | none => putOp g s1 k

/-! ### Elements (R86, R117, R118) -/

/-- Lanes of a type: min(32, 1,024 / w), for cas min(32, 512 / w). -/
def laneCount (w : Nat) (cas : Bool) : Nat := min 32 ((if cas then 512 else 1024) / w)

/-- Whether a target shows a packed page. -/
def tgtPacked : Target → Bool
  | .glob _ _ _ fmt _ _ => (packedOf fmt).isSome
  | .stash _ _ src => tgtPacked src
  | _ => false

/-- Base with its low log2(w/8) bits ignored. -/
def alignBase (a : W64) (w : Nat) : Nat := a.toNat / (w / 8) * (w / 8)

/-- The active lanes, each checked in ascending order, with its row as target; the first fault names its lane (R117). -/
def lanesOf (acc : Acc) (w base : Nat) (t : Row) (val cmp : Nat → Nat) : List Nat → State → Except Trap (State × List Lane)
  | [], s => .ok (s, [])
  | i :: r, s =>
    let ix := laneN t 32 i
    if 2 ^ 31 ≤ ix then lanesOf acc w base t val cmp r s
    else
      let ea := (base + ix * (w / 8)) % 2 ^ 57
      let bad := fun (c : Cause) => Except.error { cause := c, lane := i, addr := faultVa s.task (ea / 128 * 128) + ea % 128 : Trap }
      match resolve s acc (ea / 128 * 128) with
      | .error c => bad c
      | .ok (s, tgt) =>
        if tgtPacked tgt && w != 16 then bad .format
        else match lanesOf acc w base t val cmp r s with
          | .error c => .error c
          | .ok (s, l) => .ok (s, { i := i, tgt := tgt, off := ea % 128, val := val i, cmp := cmp i } :: l)

/-- The type code of a type word. -/
def tyOf (y : W64) : Nat := fld y 3 0

def trigLdx : TrigFn := fun g s =>
  match destOf (rrbRead g.s0) (rd64 g s .lsud) with
  | none => .trap (trapOf .illDst)
  | some d =>
    let ty := tyOf (rd64 g s .lsuy)
    if 13 ≤ ty then .trap (trapOf .illType)
    else
      let w := tyWidth ty
      match lanesOf accLoad w (alignBase (rd64 g s .lsua) w) g.val (fun _ => 0) (fun _ => 0) (List.range (laneCount w false)) s with
      | .error c => .trap c
      | .ok (s1, l) =>
        let n := arrival (rd64 g s .lsuc)
        let s1 := eat s1 [.lsua, .lsuc, .lsuy, .lsud]
        if speculative g.s0.task then
          if compClear s1 s1.task.memq (.ldx w l) then
            let sh := mySnap g.s0.task g.seq
            let (s2, xs, p) := l.foldl (ldxLane (fun s x => specRead s sh x) w) (s1, [], false)
            .ok (timedResult s2 g d n .timed (some (lanesRow w xs, p)))
          else .ok (timedResult (push s1 g.seq (.ldxIter (iterOf g.s0.task) w l)) g d n .timed none)
        else .ok (timedResult (push s1 g.seq (.ldx w l)) g d n .timed none)

def trigStx : TrigFn := fun g s =>
  let ty := tyOf (rd64 g s .lsuy)
  if 13 ≤ ty then .trap (trapOf .illType)
  else
    let w := tyWidth ty
    let b := rd g s .lsub
    match lanesOf accStore w (alignBase (rd64 g s .lsua) w) g.val (laneN b w) (fun _ => 0) (List.range (laneCount w false)) s with
    | .error c => .trap c
    | .ok (s1, l) =>
      let s1 := eat s1 [.lsua, .lsub, .lsuy]
      let inW := fun (x : Lane) => (tentative g.s0.task.spec x.tgt).isSome
      let tl := l.filter inW
      let rest := l.filter fun x => !inW x
      if tl.isEmpty then putOp g s1 (.stx w l)
      else match putTentative g s1 (tl.filterMap fun x => tentative g.s0.task.spec x.tgt) (.stx w tl) with
        | .ok s2 => if rest.isEmpty then .ok s2 else putOp { g with seq := g.seq + 8 } s2 (.stx w rest)
        | r => r

/-! ### Atomics (R265 to R267) -/

/-- The types an update accepts. -/
def amoTypeOk (op : AmoOp) (ty : Nat) : Bool := match op with
  | .fadd | .fmax | .fmin => decide (10 ≤ ty ∧ ty ≤ 12)
  | .swp | .cas => decide (ty ≤ 12)
  | _ => decide (ty ≤ 7)

/-- The checked lanes of an amo or nra form. -/
def amoLanes (op : AmoOp) (acc : Acc) (g : Trig) (s : State) : Except Trap (State × List Lane) :=
  let ty := tyOf (rd64 g s .lsuy)
  if !amoTypeOk op ty then .error (trapOf .illType)
  else
    let w := tyWidth ty
    let b := rd g s .lsub
    let cas := op == .cas
    lanesOf acc w (alignBase (rd64 g s .lsua) w) g.val
      (fun i => if cas then laneN (b >>> (512 : Nat)) w i else laneN b w i) (fun i => if cas then laneN b w i else 0)
      (List.range (laneCount w cas)) s

def trigAmo (op : AmoOp) : TrigFn := fun g s =>
  match destOf (rrbRead g.s0) (rd64 g s .lsud) with
  | none => .trap (trapOf .illDst)
  | some d =>
    match amoLanes op accAmo g s with
    | .error c => .trap c
    | .ok (s1, l) =>
      let k := MemKind.amo op (tyOf (rd64 g s .lsuy)) true l
      let n := arrival (rd64 g s .lsuc)
      match putOp g (eat s1 [.lsua, .lsub, .lsuc, .lsuy, .lsud]) k with
      | .ok s2 =>
        if speculative g.s0.task then .ok (deferResult s2 g d)
        else .ok (timedResult s2 g d n .timed none)
      | r => r

def trigNra (op : AmoOp) : TrigFn := fun g s =>
  match amoLanes op accNra g s with
  | .error c => .trap c
  | .ok (s1, l) => putOp g (eat s1 [.lsua, .lsub, .lsuy]) (.amo op (tyOf (rd64 g s .lsuy)) false l)

def amoAct (h : Head) (op : AmoOp) : Nat → Act :=
  fun k => { lsuAct h (trigAmo op) k with timed := fun s => !speculative s.task }

/-! ### Reductions (R268) -/

/-- The target of a red form: a global row of a coherent class with RD and WR. -/
def redTarget (s : State) (va : Nat) : Except Cause (State × Target) :=
  if isLocal va || (stashOfVa s.task va).isSome then .error .prot
  else match translate s s.task.info.part accAmo va with
    | .error c => .error c
    | .ok (s, .glob v pa coh fmt base bad) =>
      if (packedOf fmt).isSome then .error .format
      else if coh ≠ 2 then .error .prot
      else .ok (s, .glob v pa coh fmt base bad)
    | .ok _ => .error .prot

def trigRed (op : RedOp) : TrigFn := fun g s =>
  let ty := tyOf (rd64 g s .lsuy)
  if !redTypeOk op ty then .trap (trapOf .illType)
  else
    let w := tyWidth ty
    let va := alignBase (rd64 g s .lsua) w % 2 ^ 57
    match redTarget s va with
    | .error c => .trap (rowFault va c)
    | .ok (s1, tgt) =>
      let b := rd g s .lsub
      let vals := (List.range (laneCount w false)).map fun i => if bitAt g.val i then some (laneN b w i) else none
      putOp g (eat s1 [.lsua, .lsub, .lsuy]) (.red op ty tgt (va % 128) vals)

/-! ### Ordering (R119, R261, R263) -/

def trigQmark : TrigFn := fun g s => putOp g s .mark

def trigFence : TrigFn := fun g s =>
  let sc := fld g.val 7 0
  if 4 < sc then .trap (trapOf .illScope)
  else match putOp g s (.fence sc) with
    | .ok s => .ok (if speculative g.s0.task then s else freezeWith s (.fence sc))
    | r => r

def trigFsc : TrigFn := fun g s => match putOp g s (.fence 3) with
  | .ok s => .ok (if speculative g.s0.task then s else freezeWith s (.fsc none))
  | r => r

/-- pref: the device may drop it, and this one does (R278). -/
def trigPref : TrigFn := fun _ s => .ok s

/-! ### Stash (R274 to R276) -/

/-- A valid entry loses its binding at once; its plates keep what their rows last held, and the dirty ones go home as a store-queue operation, of one entry of the queue (R275, log 77). -/
def unbind (g : Trig) (s : State) (e : Nat) : TR :=
  let x := nth s.task.stash e StashEntry.empty
  if !x.valid then .ok s
  else match putDirect g s (.unbind x.first x.count) with
    | .ok s => .ok { s with task := { s.task with stash := setNth s.task.stash e { x with valid := false } } }
    | r => r

/-- The entry that smap would write, from a and b. -/
def smapEntry (a b : W64) : StashEntry :=
  { valid := true, vbase := a.toNat % 2 ^ 57 / 128 * 128, wb := bitAt b 16, count := fld b 15 8, first := fld b 7 1 }

/-- Two windows share a plate or a virtual row. -/
def entriesMeet (x y : StashEntry) : Bool :=
  (decide (x.first < y.first + y.count) && decide (y.first < x.first + x.count))
    || (decide (x.vbase < y.vbase + y.count * 16384) && decide (y.vbase < x.vbase + x.count * 16384))

/-- smap's PROT. -/
def smapRefused (t : Task) (x : StashEntry) : Bool :=
  x.count == 0 || decide (128 < x.first + x.count) || t.stash.any (fun y => y.valid && entriesMeet x y)
    || decide (2 ^ 57 - 2 ^ 21 < x.vbase + x.count * 16384)

/-- smap (R274): the binding stands for the accesses triggered after it; it has its place in both queues. -/
def trigSmap : TrigFn := fun g s0 =>
  let e := fld g.val 3 0
  let x := smapEntry (rd64 g s0 .lsua) (rd64 g s0 .lsub)
  match unbind g s0 e with
  | .ok s =>
    if smapRefused s.task x then .trap (trapOf .prot)
    else if (List.range x.count).any fun j => bitAt (ownersAt s.task) (x.first + j) then .trap (trapOf .owner)
    else
      let s := push (eat s [.lsua, .lsub]) (g.seq + 8) (.smap x.first x.count)
      .ok { s with task := { s.task with stash := setNth s.task.stash e x } }
  | r => r

def trigSunm : TrigFn := fun g s => unbind g s (fld g.val 3 0)

/-- The plate ranges of the valid entries that an sfl names. -/
def sflPlates (t : Task) (x : Row) : List (Nat × Nat) :=
  (List.range 16).filterMap fun e =>
    let y := nth t.stash e StashEntry.empty
    if y.valid && (bitAt x 4 || fld x 3 0 == e) then some (y.first, y.count) else none

/-- sfl: the core freezes after its bundle until the write-backs are visible (R276). -/
def trigSfl : TrigFn := fun g s => .ok (freezeWith (push s g.seq (.flush (sflPlates s.task g.val))) .flush)

/-! ### own, rinv (R277, R279) -/

def trigOwn : TrigFn := fun g s =>
  let a := rd64 g s .lsua
  let first := fld a 6 0
  let count := fld a 15 8
  let toEng := bitAt g.val 0
  let s := eat s [.lsua]
  if count = 0 then .ok s
  else if 128 < first + count then .trap (trapOf .prot)
  else if toEng && (List.range count).any (fun j => (stashOfPlate s.task (first + j)).isSome) then .trap (trapOf .prot)
  else putOp g s (.own toEng first count)

/-- rinv: no effect on private pages, in the local window, on I/O frames. -/
def trigRinv : TrigFn := fun g s =>
  let va := (lo64 g.val).toNat % 2 ^ 57
  if isLocal va then .ok s
  else match translate s s.task.info.part accRinv va with
    | .error c => .trap (rowFault va c)
    | .ok (s, .glob _ pa coh fmt base _) =>
      if coh = 0 then .ok s else putDirect g s (.rinv va (if (packedOf fmt).isSome then base + pa else pa))
    | .ok (s, _) => .ok s

/-! ### Events of the queues -/

/-- The next store-queue operation that may issue does (R252). -/
def storeIssue (s : State) : State := match issueIdx s with
  | some i => performAt s i
  | none => s

/-- An own to thread at the head flips its plates once the engine lets it (R277). -/
def flipToThread (s : State) : State := match s.task.memq.head? with
  | some { seq := _, kind := .own false _ _ } => performHead s
  | _ => s

/-- A fence completes, and an sfl: its operation has gone through, the core thaws; an fsc then takes the next tick (R261, R263, R276). One that began in a bundle with a mirror point is entered only after it (R109). -/
def fenceEnd (s : State) : State :=
  let s := drainAll s
  if atMirror s.task then s else
  let waits := s.task.memq.any fun e => match e.kind with
    | .fence _ => true
    | _ => false
  let flushes := s.task.memq.any fun e => match e.kind with
    | .flush _ => true
    | _ => false
  { s with task := { s.task with freeze := s.task.freeze.filterMap fun f => match f with
    | .fence n => if waits then some (.fence n) else none
    | .fsc none => some (if waits then .fsc none else .fsc (some (s.clk.hb + 1)))
    | .flush => if flushes then some .flush else none
    | f => some f } }

/-! ### Passes of a declared reduction (R271, R272) -/

/-- Members of a group: copies, x, y, z. -/
def expected (l : LaunchState) (g : RedGroup) : Nat :=
  (if l.lr.bcast = 0 then 1 else popcN 8 l.lr.bcast) * popcN 8 g.xmask * g.yCount * g.zCount

/-- The value at a position, the identity where nothing was contributed. -/
def atPos (l : List Contrib) (z y x c : Nat) (id : Nat) : Nat :=
  match l.find? fun e => e.z == z && e.y == y && e.x == x && e.copy == c with
  | some e => e.val
  | none => id

/-- The tree above the lanes: die copies, tasks, teams, gangs. -/
def passTree (v1 : Bool) (g : RedGroup) (copies : Nat) (l : List Contrib) : Nat :=
  let id := redId g.op g.ty
  let tree := redTree v1 g.op g.ty
  tree 12 ((List.range (g.zFirst + g.zCount)).map fun z => tree 6 ((List.range (g.yFirst + g.yCount)).map fun y =>
    tree 3 ((List.range 8).map fun x => tree 3 ((List.range copies).map fun c => atPos l z y x c id))))

/-- The next pass of a group of an instance is applied as it stands, positions without a contribution as the identity. -/
def applyPass (s : State) (inst gi : Nat) : State :=
  let k := passesDone s inst gi
  let mine := fun (c : Contrib) => c.inst == inst && c.group == gi && c.pass == k
  let l := s.sched.contribs.filter mine
  match (findInst s inst).bind fun i => findLaunch s i.seqno with
  | none => s
  | some la =>
    match la.groups[gi]?, l with
    | some g, c :: _ =>
      let copies := if la.lr.bcast = 0 then 1 else popcN 8 la.lr.bcast
      let v1 := nbvVer1 la.nbv
      let s := applyRed s v1 la.lr.part (match c.tgt with
        | .glob _ pa _ _ _ _ => homeDie s pa
        | _ => 0) g.op g.ty c.tgt c.off (passTree v1 g copies l)
      { s with sched := { s.sched with
        contribs := s.sched.contribs.filter fun c => !mine c
        passes := (inst, gi, k + 1) :: s.sched.passes.filter fun p => !(p.1 == inst && p.2.1 == gi) } }
    | _, _ => s

/-- Whether the next pass of a group has every declared contribution. -/
def passFull (s : State) (inst gi : Nat) : Bool :=
  let k := passesDone s inst gi
  match (findInst s inst).bind fun i => findLaunch s i.seqno with
  | some la => match la.groups[gi]? with
    | some g => (s.sched.contribs.filter fun c => c.inst == inst && c.group == gi && c.pass == k).length == expected la g
    | none => false
  | none => false

/-! ### Acts and meanings -/

/-- ld (R114). -/
def actLd (h : Head) : Nat → Act := lsuTimed h trigLd
def execLd (h : Head) (s : State) : Host.Outcome State Fault Refusal := issueOne (actLd h) s

/-- ldq (R115). -/
def actLdq (h : Head) : Nat → Act := fun k => { lsuAct h trigLdq k with ldq := true }
def execLdq (h : Head) (s : State) : Host.Outcome State Fault Refusal := issueOne (actLdq h) s

/-- st (R116). -/
def actSt (h : Head) : Nat → Act := lsuAct h trigSt
def execSt (h : Head) (s : State) : Host.Outcome State Fault Refusal := issueOne (actSt h) s

/-- ldx (R117). -/
def actLdx (h : Head) : Nat → Act := lsuTimed h trigLdx
def execLdx (h : Head) (s : State) : Host.Outcome State Fault Refusal := issueOne (actLdx h) s

/-- stx (R117). -/
def actStx (h : Head) : Nat → Act := lsuAct h trigStx
def execStx (h : Head) (s : State) : Host.Outcome State Fault Refusal := issueOne (actStx h) s

/-- qmark (R119). -/
def actQmark (h : Head) : Nat → Act := lsuAct h trigQmark
def execQmark (h : Head) (s : State) : Host.Outcome State Fault Refusal := issueOne (actQmark h) s

/-- fence (R261). -/
def actFence (h : Head) : Nat → Act := lsuAct h trigFence
def execFence (h : Head) (s : State) : Host.Outcome State Fault Refusal := issueOne (actFence h) s

/-- fsc (R263). -/
def actFsc (h : Head) : Nat → Act := lsuAct h trigFsc
def execFsc (h : Head) (s : State) : Host.Outcome State Fault Refusal := issueOne (actFsc h) s

/-- pref (R278). -/
def actPref (h : Head) : Nat → Act := lsuAct h trigPref
def execPref (h : Head) (s : State) : Host.Outcome State Fault Refusal := issueOne (actPref h) s

/-- smap (R274). -/
def actSmap (h : Head) : Nat → Act := lsuAct h trigSmap
def execSmap (h : Head) (s : State) : Host.Outcome State Fault Refusal := issueOne (actSmap h) s

/-- sunm (R275). -/
def actSunm (h : Head) : Nat → Act := lsuAct h trigSunm
def execSunm (h : Head) (s : State) : Host.Outcome State Fault Refusal := issueOne (actSunm h) s

/-- sfl (R276). -/
def actSfl (h : Head) : Nat → Act := lsuAct h trigSfl
def execSfl (h : Head) (s : State) : Host.Outcome State Fault Refusal := issueOne (actSfl h) s

/-- own, named by t[0] = 1 where t is an immediate (R277). -/
def actOwnToEngine (h : Head) : Nat → Act := lsuAct h trigOwn
def execOwnToEngine (h : Head) (s : State) : Host.Outcome State Fault Refusal := issueOne (actOwnToEngine h) s

/-- own, named by t[0] = 0 (R277). -/
def actOwnToThread (h : Head) : Nat → Act := lsuAct h trigOwn
def execOwnToThread (h : Head) (s : State) : Host.Outcome State Fault Refusal := issueOne (actOwnToThread h) s

/-- rinv (R279). -/
def actRinv (h : Head) : Nat → Act := lsuAct h trigRinv
def execRinv (h : Head) (s : State) : Host.Outcome State Fault Refusal := issueOne (actRinv h) s

/-- amo.add (R265, R266). -/
def actAmoAdd (h : Head) : Nat → Act := amoAct h .add
def execAmoAdd (h : Head) (s : State) : Host.Outcome State Fault Refusal := issueOne (actAmoAdd h) s

/-- amo.fadd (R265, R266). -/
def actAmoFadd (h : Head) : Nat → Act := amoAct h .fadd
def execAmoFadd (h : Head) (s : State) : Host.Outcome State Fault Refusal := issueOne (actAmoFadd h) s

/-- amo.max (R265, R266). -/
def actAmoMax (h : Head) : Nat → Act := amoAct h .max
def execAmoMax (h : Head) (s : State) : Host.Outcome State Fault Refusal := issueOne (actAmoMax h) s

/-- amo.min (R265, R266). -/
def actAmoMin (h : Head) : Nat → Act := amoAct h .min
def execAmoMin (h : Head) (s : State) : Host.Outcome State Fault Refusal := issueOne (actAmoMin h) s

/-- amo.maxu (R265, R266). -/
def actAmoMaxu (h : Head) : Nat → Act := amoAct h .maxu
def execAmoMaxu (h : Head) (s : State) : Host.Outcome State Fault Refusal := issueOne (actAmoMaxu h) s

/-- amo.minu (R265, R266). -/
def actAmoMinu (h : Head) : Nat → Act := amoAct h .minu
def execAmoMinu (h : Head) (s : State) : Host.Outcome State Fault Refusal := issueOne (actAmoMinu h) s

/-- amo.fmax (R265, R266). -/
def actAmoFmax (h : Head) : Nat → Act := amoAct h .fmax
def execAmoFmax (h : Head) (s : State) : Host.Outcome State Fault Refusal := issueOne (actAmoFmax h) s

/-- amo.fmin (R265, R266). -/
def actAmoFmin (h : Head) : Nat → Act := amoAct h .fmin
def execAmoFmin (h : Head) (s : State) : Host.Outcome State Fault Refusal := issueOne (actAmoFmin h) s

/-- amo.and (R265, R266). -/
def actAmoAnd (h : Head) : Nat → Act := amoAct h .and
def execAmoAnd (h : Head) (s : State) : Host.Outcome State Fault Refusal := issueOne (actAmoAnd h) s

/-- amo.or (R265, R266). -/
def actAmoOr (h : Head) : Nat → Act := amoAct h .or
def execAmoOr (h : Head) (s : State) : Host.Outcome State Fault Refusal := issueOne (actAmoOr h) s

/-- amo.xor (R265, R266). -/
def actAmoXor (h : Head) : Nat → Act := amoAct h .xor
def execAmoXor (h : Head) (s : State) : Host.Outcome State Fault Refusal := issueOne (actAmoXor h) s

/-- amo.swp (R265, R266). -/
def actAmoSwp (h : Head) : Nat → Act := amoAct h .swp
def execAmoSwp (h : Head) (s : State) : Host.Outcome State Fault Refusal := issueOne (actAmoSwp h) s

/-- amo.cas (R265, R266). -/
def actAmoCas (h : Head) : Nat → Act := amoAct h .cas
def execAmoCas (h : Head) (s : State) : Host.Outcome State Fault Refusal := issueOne (actAmoCas h) s

/-- nra.add (R265, R266). -/
def actNraAdd (h : Head) : Nat → Act := lsuAct h (trigNra .add)
def execNraAdd (h : Head) (s : State) : Host.Outcome State Fault Refusal := issueOne (actNraAdd h) s

/-- nra.fadd (R265, R266). -/
def actNraFadd (h : Head) : Nat → Act := lsuAct h (trigNra .fadd)
def execNraFadd (h : Head) (s : State) : Host.Outcome State Fault Refusal := issueOne (actNraFadd h) s

/-- nra.max (R265, R266). -/
def actNraMax (h : Head) : Nat → Act := lsuAct h (trigNra .max)
def execNraMax (h : Head) (s : State) : Host.Outcome State Fault Refusal := issueOne (actNraMax h) s

/-- nra.min (R265, R266). -/
def actNraMin (h : Head) : Nat → Act := lsuAct h (trigNra .min)
def execNraMin (h : Head) (s : State) : Host.Outcome State Fault Refusal := issueOne (actNraMin h) s

/-- nra.maxu (R265, R266). -/
def actNraMaxu (h : Head) : Nat → Act := lsuAct h (trigNra .maxu)
def execNraMaxu (h : Head) (s : State) : Host.Outcome State Fault Refusal := issueOne (actNraMaxu h) s

/-- nra.minu (R265, R266). -/
def actNraMinu (h : Head) : Nat → Act := lsuAct h (trigNra .minu)
def execNraMinu (h : Head) (s : State) : Host.Outcome State Fault Refusal := issueOne (actNraMinu h) s

/-- nra.fmax (R265, R266). -/
def actNraFmax (h : Head) : Nat → Act := lsuAct h (trigNra .fmax)
def execNraFmax (h : Head) (s : State) : Host.Outcome State Fault Refusal := issueOne (actNraFmax h) s

/-- nra.fmin (R265, R266). -/
def actNraFmin (h : Head) : Nat → Act := lsuAct h (trigNra .fmin)
def execNraFmin (h : Head) (s : State) : Host.Outcome State Fault Refusal := issueOne (actNraFmin h) s

/-- nra.and (R265, R266). -/
def actNraAnd (h : Head) : Nat → Act := lsuAct h (trigNra .and)
def execNraAnd (h : Head) (s : State) : Host.Outcome State Fault Refusal := issueOne (actNraAnd h) s

/-- nra.or (R265, R266). -/
def actNraOr (h : Head) : Nat → Act := lsuAct h (trigNra .or)
def execNraOr (h : Head) (s : State) : Host.Outcome State Fault Refusal := issueOne (actNraOr h) s

/-- nra.xor (R265, R266). -/
def actNraXor (h : Head) : Nat → Act := lsuAct h (trigNra .xor)
def execNraXor (h : Head) (s : State) : Host.Outcome State Fault Refusal := issueOne (actNraXor h) s

/-- red.add (R268). -/
def actRedAdd (h : Head) : Nat → Act := lsuAct h (trigRed .add)
def execRedAdd (h : Head) (s : State) : Host.Outcome State Fault Refusal := issueOne (actRedAdd h) s

/-- red.fadd (R268). -/
def actRedFadd (h : Head) : Nat → Act := lsuAct h (trigRed .fadd)
def execRedFadd (h : Head) (s : State) : Host.Outcome State Fault Refusal := issueOne (actRedFadd h) s

/-- red.fmax (R268). -/
def actRedFmax (h : Head) : Nat → Act := lsuAct h (trigRed .fmax)
def execRedFmax (h : Head) (s : State) : Host.Outcome State Fault Refusal := issueOne (actRedFmax h) s

/-- A fence completes (R261). -/
def execFenceDone (s : State) : Host.Outcome State Fault Refusal := .next (fenceEnd s)

/-- A plate goes back to its thread (R277). -/
def execPlateFlipThread (s : State) : Host.Outcome State Fault Refusal := .next (flipToThread s)

/-- A store-queue operation issues (R246, R252). -/
def execStoreQueueIssue (s : State) : Host.Outcome State Fault Refusal := .next (storeIssue s)

/-- A full pass is applied, in its turn (R271 to R273). -/
def execRedPassApply (inst group pass : Nat) (s : State) : Host.Outcome State Fault Refusal :=
  .next (if pass = passesDone s inst group ∧ passFull s inst group then applyPass s inst group else s)

end Sys2Proof.Machine
end

