-- ==== Sys2Proof/Machine/Sched.lean ====
section
/-! DEFINITION. The scheduler: launch queues, releases, dispatch, completion and failure, degradation levels, the escalation ladder, saves and restores (R173 to R200, R319 to R331, R387, R388). -/

namespace Sys2Proof.Machine

/-! ### Launch queues (R183, R387) -/

def queueAt (s : State) (p n : Nat) : LQueue := nth (getPart s p).sch.queues n LQueue.reset

def modQueue (s : State) (p n : Nat) (f : LQueue → LQueue) : State :=
  modPS s p fun q => { q with queues := setNth q.queues n (f (nth q.queues n LQueue.reset)) }

/-- Entries of a queue. -/
def queueSize (q : LQueue) : Nat := 2 ^ (q.logn + 4)

/-- A doorbell of a queue in use. -/
def doorbell (s : State) (p n : Nat) (v : W64) : State :=
  if n < 4 ∧ (queueAt s p n).en then modQueue s p n fun q => { q with tail := fld v 15 0 } else s

/-- Admission and release go on: the partition lives and is not stopped (R338). -/
def partOpen (q : Part) : Bool := q.live && q.sch.stopping == 0

/-- The head entry of a queue that is granted and in use: read and judged, or, where it was read before, tried again for its unit (R183, log 75). An entry that cannot be read refuses with its own address (log 26, log 33). -/
def submitHead (s : State) (p n : Nat) : State :=
  let q := queueAt s p n
  if !(partOpen (getPart s p) && decide (n < 4) && decide (4 ≤ heldUnits (getPart s p) 14 0) && q.en && q.head % queueSize q != q.tail % queueSize q) then s
  else
    let a := q.base * 8 + q.head % queueSize q * 8
    let pop := fun (s : State) => modQueue s p n fun q => { q with head := (q.head + 1) % queueSize q, wait := none }
    match q.wait with
    | some l => ((admitHead s p n l).map pop).getD s
    | none => if virtWaits s p accData a 8 then s else match readVirt s p accData a 8 with
      | .error e => pop (raiseRec s { part := p, kind := 4, cause := stBadrec, addr := e } false)
      | .ok r => if recordWaits s p (r % 2 ^ 57 / 256 * 256) none then s else match submitQueued s p n (r % 2 ^ 57 / 256 * 256) with
        | (s, none) => pop s
        | (s, some l) => modQueue s p n fun q => { q with wait := some l }

/-! ### Releases (R190, R198, R199) -/

/-- r_0 of a launch that no message releases. -/
def firstRelease (l : LaunchState) : Nat := if l.lr.release = 0 then l.admitted else l.lr.release

/-- r_k of the next instance, where one is to come. A session record's instances come from the messages of its binding alone: one that a queue or a spawn has submitted releases none (log 80). -/
def nextRelease (l : LaunchState) : Option Nat :=
  if noneLeft l then none
  else match l.lr.sess with
    | none => some (firstRelease l + l.nextK * l.lr.period)
    | some _ => match l.msgs with
      | [] => none
      | m :: _ => some (if l.nextK = 0 then m.1 else Nat.max m.1 (l.lastRelease + l.lr.period))

/-- d_k, of an instance with release r. -/
def deadlineOf (l : LaunchState) (k r : Nat) : Option Nat := match l.lr.sess with
  | some _ => some (r + l.lr.deadline)
  | none => if l.lr.deadline = 0 then none else some (l.lr.deadline + k * l.lr.period)

/-- d_k of the next instance. -/
def deadlineAt (l : LaunchState) (r : Nat) : Option Nat := deadlineOf l l.nextK r

/-- Die set of a launch: the dies of its broadcast, one copy each. -/
def diesOf (l : LaunchState) : List Nat := if l.lr.bcast = 0 then [] else (List.range 8).filter fun d => l.lr.bcast / 2 ^ d % 2 == 1

def copiesOf (l : LaunchState) : Nat := atLeast1 (diesOf l).length

/-- Teams by stage, z, y. -/
def allTeams (l : Launch) : List (Nat × Nat × Nat) :=
  (List.range l.extS).flatMap fun g => (List.range l.extZ).flatMap fun z => (List.range l.extY).map fun y => (g, z, y)

def minOpt : Option Nat → Option Nat → Option Nat
  | some a, some b => some (min a b)
  | some a, none => some a
  | none, b => b

/-- The entry of a released instance: ent3 for the first after L3, else the level's for class S, else ent0 (R181). -/
def entryOf (l : LaunchState) : Nat := if l.lr.cls = 1 then (if l.fromL3 then 3 else l.level) else 0

/-- A slot of the session's ring frees (R394). -/
def freeMsgSlot (s : State) (l : LaunchState) (slot : Nat) : State := match l.lr.sess with
  | some n => { s with ept := { s.ept with sessions := s.ept.sessions.map fun x =>
      if x.num = n ∧ x.part = l.lr.part then { x with slots := x.slots.erase slot } else x } }
  | none => s

/-- Whether level L2 or L3 keeps instance k back (R199). -/
def skipsK (l : LaunchState) (k : Nat) : Bool := l.lr.cls == 1 && (l.level == 3 || (l.level == 2 && k % 2 == 1))

def skips (l : LaunchState) : Bool := skipsK l l.nextK

def newInst (s : State) (l : LaunchState) (r : Nat) : Inst :=
  let d := deadlineAt l r
  { id := s.sched.nextInst, seqno := l.lr.seqno, k := l.nextK, release := r, deadline := d
    ent := entryOf l, teamsLeft := allTeams l.lr, gangs := [], tasksLeft := l.lr.extX * l.lr.extY * l.lr.extZ * l.lr.extS * copiesOf l
    failed := false, lateRaised := false, missRaised := decide (l.nextK < l.missK), msgSlot := l.msgs.head?.map fun m => m.2.1
    orderDl := minOpt d l.parentDl, closed := false, unreplayable := false, lastFault := [] }

/-- The next instance of a launch: released, or counted as skipped (R190, R199). A one-shot launch at L3 is held. -/
def releaseInst (s : State) (seq : Nat) : State :=
  match findLaunch s seq with
  | none => s
  | some l => match nextRelease l with
    | none => s
    | some r =>
      if !(partOpen (getPart s l.lr.part) && l.gateOpen && decide (r ≤ s.clk.ftime)) then s
      else if skips l && l.lr.period == 0 && l.lr.sess.isNone then s
      else
        let after := fun (s : State) => modLaunch s seq fun l => { l with nextK := l.nextK + 1, lastRelease := r, inEffect := l.level, msgs := l.msgs.tail }
        if skips l then
          let s := (l.msgs.head?.map fun m => freeMsgSlot s l m.2.1).getD s
          after (modPS s l.lr.part fun q => { q with cntSkip := q.cntSkip + 1 })
        else
          let s := { s with sched := { s.sched with nextInst := s.sched.nextInst + 1, insts := s.sched.insts ++ [newInst s l r] } }
          modLaunch (after s) seq fun l => { l with fromL3 := false }

/-! ### Who may run where (R174, R191 to R197, R364, R402) -/

/-- A die that takes work: released, not being reset, not isolated. -/
def dieOpen (s : State) (d : Nat) : Bool :=
  bitAt s.boot.boot (12 + d) && !((fld s.sched.dierst 5 4 == 1 || fld s.sched.dierst 5 4 == 2) && fld s.sched.dierst 2 0 == d)
    && (nth s.mir.pairs (d / 2) Pair.reset).isolated != some d

/-- Tasks that hold a core of a cluster. -/
def holders (s : State) (c : Nat × Nat) : List Task := (allTasks s).filter fun t => match coreOf t with
  | some (d, k, _) => (d, k) == c
  | none => false

/-- No partition holds the cluster. -/
def inPool (s : State) (c : Nat × Nat) : Bool :=
  s.parts.all fun q => !q.res.genClusters.contains c && !q.res.fPairs.contains (c.1 / 2, c.2)
    && !(q.res.leaving.contains c && (holders s c).any fun t => t.info.part == q.id)

/-- Cores of a cluster that nobody holds, as work sees them that is, or is not, of the class F team there: such a team occupies all eight (R194). -/
def freeCoresFor (s : State) (mate : Task → Bool) (c : Nat × Nat) : List Nat :=
  let h := holders s c
  if h.any fun t => t.info.cls == 0 && !mate t then []
  else (List.range 8).filter fun k => !(h.any fun t => (coreOf t).elim false fun x => x.2.2 == k)

/-- Cores that new work may take. -/
def freeCores (s : State) (c : Nat × Nat) : List Nat := freeCoresFor s (fun _ => false) c

/-- Barrier sets of a partition in use on a cluster: one for each of its teams there (R377). -/
def setsUsed (s : State) (p : Nat) (c : Nat × Nat) : Nat :=
  (((holders s c).filter fun t => t.info.part == p).map fun t => (t.info.inst, t.info.y, t.info.z, t.info.stg, t.info.copy)).eraseDups.length

def setFree (s : State) (p : Nat) (c : Nat × Nat) : Bool := decide (setsUsed s p c < heldUnits (getPart s p) 11 (8 * c.1 + c.2))

/-- A B team of a partition on hold is not dispatched (R198). -/
def heldBack (q : Part) (cls : Nat) : Bool := cls == 2 && q.sch.bhold

/-- The team's place in teamsOn's order: z and y within a stage, stages in order. -/
def teamIndex (l : Launch) (g z y : Nat) : Nat := g * (l.extZ * l.extY) + z * l.extY + y

/-- Code of class F that is resident on a cluster. -/
def fCode (s : State) (p : Nat) (c : Nat × Nat) : Nat := codeTotal (teamsOn s p c)

/-- The cluster that admission gave a team of class F. -/
def placeOf (l : LaunchState) (g z y : Nat) : Nat × Nat := nth l.clusters (teamIndex l.lr g z y) (8, 8)

/-- A class F team is ready for a cluster: one to be dispatched, or one that is to return to it (R196). -/
def fReady (s : State) (p : Nat) (c : Nat × Nat) : Bool :=
  (s.sched.insts.any fun i => !i.closed && (findLaunch s i.seqno).any fun l =>
      l.lr.cls == 0 && l.lr.part == p && i.teamsLeft.any fun t => placeOf l t.1 t.2.1 t.2.2 == c)
    || (allTasks s).any fun t => t.info.cls == 0 && t.info.part == p && (match t.place with
        | .ready _ => (findLaunch s t.info.seqno).any fun l => placeOf l t.info.stg t.info.z t.info.y == c
        | _ => false)

/-- Whether a launch's team may run on a cluster by its class (R191, R196, R197). -/
def mayUse (s : State) (l : Launch) (own : Bool) (c : Nat × Nat) : Bool :=
  let q := getPart s l.part
  dieOpen s c.1 && partOpen q && !heldBack q l.cls &&
    (if l.cls = 0 then isPrimary q c && own
     else q.res.genClusters.contains c
      || (isPrimary q c && fld q.sch.blim 31 0 != 0 && decide (l.wct ≤ fld q.sch.blim 31 0)
          && decide (l.codelen + fCode s l.part c ≤ 8192) && !fReady s l.part c)
      || (l.cls == 2 && l.bcast == 0 && inPool s c))

/-! ### The order of ready work (R192, R197) -/

/-- Deadline, release, sequence number, stage, z, y. -/
def orderKey (i : Inst) (g z y : Nat) : List Nat := [i.orderDl.getD (2 ^ 64), i.release, i.seqno, g, z, y]

def keyLt : List Nat → List Nat → Bool
  | a :: x, b :: y => decide (a < b) || (a == b && keyLt x y)
  | _, _ => false

/-- The teams of one stage pipeline, by their first stage; all of them start together. -/
structure Pipe where
  inst : Nat
  z : Nat
  y : Nat
  deriving DecidableEq, Repr

/-- Where one copy of one team goes: stage, copy, cluster. -/
abbrev Seat := Nat × Nat × (Nat × Nat)

/-- The clusters of a pipeline whose first team goes to `c`: class F where admission put them, others on neighbours in the cluster ring, broadcast copies at the same index of each die of the set (R174, R194, R365). -/
def seatsOf (l : LaunchState) (c : Nat × Nat) (p : Pipe) : Option (List Seat) :=
  if l.lr.cls = 0 then
    some ((List.range l.lr.extS).map fun g => (g, 0, placeOf l g p.z p.y))
  else if l.lr.bcast = 0 then
    some ((List.range l.lr.extS).map fun g => (g, 0, ringNext c g))
  else if c.2 + l.lr.extS ≤ 8 ∧ (diesOf l).headD 8 = c.1 then
    some ((List.range l.lr.extS).flatMap fun g => (List.range (diesOf l).length).map fun k => (g, k, (nth (diesOf l) k 0, c.2 + g)))
  else none

/-- A gang stays on one die (R174). -/
def gangFits (i : Inst) (l : LaunchState) (p : Pipe) (x : Seat) : Bool :=
  l.lr.bcast != 0 || i.gangs.all fun g => !(g.1 == x.1 && g.2.1 == p.z) || g.2.2 == x.2.2.1

/-- The first cluster of a pipeline whose stage g goes to `c`. -/
def firstFor (l : LaunchState) (g : Nat) (c : Nat × Nat) : Nat × Nat :=
  if l.lr.cls = 0 then c
  else if l.lr.bcast = 0 then ringNext c (64 - g)
  else ((diesOf l).headD 8, c.2 - g)

/-- A pipeline whose stage g competes for cluster `c`: the seats that go with it, every one of them allowed (R192). -/
def competes (s : State) (c : Nat × Nat) (i : Inst) (l : LaunchState) (p : Pipe) (g : Nat) : Option (List Seat) :=
  match seatsOf l (firstFor l g c) p with
  | some x =>
    if (x.any fun y => y.1 == g && y.2.2 == c) && x.all (fun y => mayUse s l.lr true y.2.2 && gangFits i l p y) then some x else none
  | none => none

/-- Ready pipelines with their instances and launches. -/
def readyPipes (s : State) : List (Inst × LaunchState × Pipe) :=
  s.sched.insts.flatMap fun i => if i.closed then [] else match findLaunch s i.seqno with
    | some l => (i.teamsLeft.filter fun t => t.1 == 0).map fun t => (i, l, { inst := i.id, z := t.2.1, y := t.2.2 : Pipe })
    | none => []

/-- A saved task that may be restored to a cluster: its class allows it, and its team mates that hold cores are there (R174, R323). -/
def mayReturn (s : State) (t : Task) (c : Nat × Nat) : Bool :=
  (match t.place with
    | .ready _ => true
    | _ => false)
  && ((findLaunch s t.info.seqno).any fun l => mayUse s l.lr (placeOf l t.info.stg t.info.z t.info.y == c) c)
  && (allTasks s).all fun u => !(sameTeam u.info t.info) || (match coreOf u with
      | some (d, k, _) => (d, k) == c
      | none => true)

def taskKey (s : State) (t : Task) : List Nat := match findInst s t.info.inst with
  | some i => orderKey i t.info.stg t.info.z t.info.y
  | none => []

/-- The pairs of partition and quota class of the shared pool, from the one after `n` on. -/
def pairFrom (n : Nat) : List Nat := (List.range 1024).map fun k => (n + 1 + k) % 1024

def pairOf (l : Launch) : Nat := 16 * l.part + l.qcls

def poolWeight (s : State) (n : Nat) : Nat := fld (nth (getPart s (n / 16)).sch.quota (n % 16) 0) 23 16

/-- Something ready that competes for a cluster: its order, its pair of the shared pool with the teams that it takes there; of a pipeline its seats. -/
structure Rival where
  key : List Nat
  pair : Nat
  teams : Nat
  seats : Option (Pipe × List Seat)
  deriving DecidableEq, Repr

def leastOf (l : List Rival) : Option Rival :=
  l.foldl (fun a x => match a with
    | some b => if keyLt x.key b.key then some x else some b
    | none => some x) none

/-- The pair whose turn it is in the shared pool, with the teams that it has had in this turn: the pair of the latest turn while the teams of its least rival fit into its WEIGHT, else the next in the rotation. A pipeline of more teams than the WEIGHT has a turn of its own (R197, log 78). -/
def poolPair (s : State) (l : List Rival) : Option (Nat × Nat) :=
  let cur := s.sched.poolTurn / 256
  let served := s.sched.poolTurn % 256
  match leastOf (l.filter fun x => x.pair == cur) with
  | some x => if served + x.teams ≤ poolWeight s cur then some (cur, served) else next cur
  | none => next cur
where
  /-- The next pair of the rotation that has ready teams and a WEIGHT. -/
  next (cur : Nat) : Option (Nat × Nat) :=
    ((pairFrom cur).find? fun n => l.any (fun x => x.pair == n) && poolWeight s n != 0).map fun n => (n, 0)

/-- Everything ready that may go to a cluster: each stage of a pipeline, in the order of the pipeline's first stage, with which it starts (R174, log 58), each saved task that may return. -/
def rivalsAll (s : State) (c : Nat × Nat) : List Rival :=
  let pipes := (readyPipes s).flatMap fun x => (List.range x.2.1.lr.extS).filterMap fun g =>
    (competes s c x.1 x.2.1 x.2.2 g).map fun seats =>
      { key := orderKey x.1 0 x.2.2.z x.2.2.y, pair := pairOf x.2.1.lr, teams := (seats.filter fun y => inPool s y.2.2).length, seats := some (x.2.2, seats) }
  let saved := ((allTasks s).filter fun t => mayReturn s t c).filterMap fun t => (findLaunch s t.info.seqno).map fun l =>
    { key := taskKey s t, pair := pairOf l.lr, teams := 1, seats := none : Rival }
  pipes ++ saved

/-- Whether a pair may start teams on a cluster: in the shared pool, the pair whose turn it is (R197). -/
def inTurn (s : State) (c : Nat × Nat) (pair : Nat) : Bool := !inPool s c || (poolPair s (rivalsAll s c)).any fun x => x.1 == pair

/-- Everything ready that competes for a cluster. In the shared pool only the pair whose turn it is competes. -/
def rivals (s : State) (c : Nat × Nat) : List Rival := (rivalsAll s c).filter fun x => inTurn s c x.pair

/-- After teams of a pair have taken cores of the shared pool (R197). -/
def poolTurned (s0 s : State) (c : Nat × Nat) (pair teams : Nat) : State :=
  if inPool s0 c then
    let served := if (poolPair s0 (rivalsAll s0 c)) == some (pair, s0.sched.poolTurn % 256) ∧ s0.sched.poolTurn / 256 = pair then s0.sched.poolTurn % 256 else 0
    { s with sched := { s.sched with poolTurn := 256 * pair + min 255 (served + teams) } }
  else s

/-- Nothing ready that competes for a cluster comes before a key (R192). -/
def noneBefore (s : State) (c : Nat × Nat) (key : List Nat) : Bool := (leastOf (rivals s c)).all fun x => !keyLt x.key key

/-! ### Dispatch (R173 to R176) -/

/-- log2 of a die-set size. -/
def logOf (n : Nat) : Nat := if n ≤ 1 then 0 else if n = 2 then 1 else if n = 4 then 2 else 3

/-- The level at a task's start: the one in effect then (R170, R176, R198, log 79). -/
def startLevel (l : LaunchState) : Nat := if l.lr.cls = 1 then l.inEffect else 0

/-- What a launch fixes for one task of an instance. -/
def infoFor (l : LaunchState) (i : Inst) (x y z g copy : Nat) : TaskInfo :=
  { launch := l.lr.seqno, inst := i.id, x := x, y := y, z := z, stg := g, copy := copy, setLog := logOf (diesOf l).length
    part := l.lr.part, vf := l.lr.vf, cls := l.lr.cls, askp := askpOf l.lr.cls (startLevel l) l.lr.askip l.lr.athr l.nbv, nbv := l.nbv
    wct := l.lr.wct, recAddr := l.lr.recAddr, seqno := l.lr.seqno, sess := l.lr.sess, msgSlot := i.msgSlot, codelen := l.lr.codelen
    code := l.image, ftab := l.ftab, lmap := l.lmap, sched := l.sched, extX := l.lr.extX, extY := l.lr.extY, extZ := l.lr.extZ
    extS := l.lr.extS, chanFirst := l.lr.chanFirst, chanCount := l.lr.chanCount, rpl := false }

/-- s0 to s7 at a task's start, by s7's field the level and the session (R176). -/
def startArgs (l : LaunchState) (i : Inst) : List W64 :=
  [l.lr.arg0, l.lr.arg1, BitVec.ofNat 64 l.lr.data, BitVec.ofNat 64 l.lr.recAddr, BitVec.ofNat 64 i.release,
   (i.deadline.map (BitVec.ofNat 64)).getD (BitVec.allOnes 64), BitVec.ofNat 64 i.k,
   BitVec.ofNat 64 (startLevel l % 4 * 2 ^ 16 + l.lr.sess.getD 0xffff)]

/-- A task as it starts: PC at its entry fragment, s0 to s7, every other register 0 (R17, R176). -/
def startTask (uid : Nat) (l : LaunchState) (i : Inst) (x y z g copy : Nat) (core : Nat × Nat × Nat) : Task :=
  let t := Task.fresh uid (infoFor l i x y z g copy)
  let regs := ((List.range 8).zip (startArgs l i)).foldl (fun (r : Regs) a => r.write (.s (BitVec.ofNat 6 a.1)) (row64 a.2)) t.regs
  { t with regs := { regs with pc := (fragOf l.ftab (nth l.lr.ents i.ent 0)).getD 0 }, place := .onCore core.1 core.2.1 core.2.2
           owners := startOwners t.info }
where
  /-- Plates that the stage-0 entries of the copy schedule reach are engine-owned (R224, R289). -/
  startOwners (i : TaskInfo) : BitVec 128 :=
    let first := (List.range i.sched.length).filter fun e => entryStage (nth i.sched e 0) == 0
    (first.flatMap fun e => entryPlates i (copyOp (nth i.sched e 0) e)).foldl (fun b p => b ||| plateBits p 1) 0

/-- A mirror pair that mirrors (R366, R372). -/
def mirrored (s : State) (die : Nat) : Bool := (nth s.mir.pairs (die / 2) Pair.reset).state == 0

/-- The standing image of a task set to its present state (R367). -/
def setStanding (s : State) (t : Task) : State :=
  let bars := if keepsBars s t then s.sched.barSets.filter (isSet t.info) else []
  { s with mir := { s.mir with standing := { uid := t.uid, image := landEarly t, bars := bars } :: s.mir.standing.filter fun x => x.uid != t.uid } }

/-- A task starts on its core, as an acquire (R251). -/
def addTask (s : State) (t : Task) : State :=
  let s := l1Acquire s (coreNum t)
  let s := { s with others := s.others ++ [t], sched := { s.sched with nextUid := s.sched.nextUid + 1 } }
  if t.info.cls = 0 ∧ mirrored s (dieOf t) then setStanding s t else s

/-- One copy of one team takes the lowest free cores of its cluster: the device's choice (log 27). -/
def seatTeam (i : Inst) (l : LaunchState) (p : Pipe) (s : Option State) (x : Seat) : Option State :=
  match s with
  | none => none
  | some s =>
    let c := x.2.2
    let cores := freeCores s c
    if l.lr.extX ≤ cores.length ∧ setFree s l.lr.part c then
      some ((List.range l.lr.extX).foldl (fun s n =>
        addTask s (startTask s.sched.nextUid l i n p.y p.z x.1 x.2.1 (c.1, c.2, nth cores n 0))) s)
    else none

/-- The teams of a pipeline start together; then the stage-0 entries of their copy schedules are released (R289). -/
def seatPipe (s : State) (i : Inst) (l : LaunchState) (p : Pipe) (seats : List Seat) : Option State :=
  (seats.foldl (seatTeam i l p) (some s)).map fun s' =>
    let new := (List.range (s'.sched.nextUid - s.sched.nextUid)).map fun n => s.sched.nextUid + n
    let s' := focus (new.foldl (fun s u => releaseReached (focus s u)) s') s.task.uid
    modInst s' i.id fun i => { i with
      teamsLeft := i.teamsLeft.filter fun t => !(t.2.1 == p.z && t.2.2 == p.y)
      gangs := i.gangs ++ seats.map fun x => (x.1, p.z, x.2.2.1) }

/-- The least ready team of those that compete for a cluster starts there with its pipeline, if nothing else comes before it at any of its clusters, its pair is in turn wherever it takes a cluster of the shared pool, and the cores are free (R174, R192, R197). -/
def dispatch (s : State) (c : Nat × Nat) : State :=
  match leastOf (rivals s c) with
  | some { seats := some (p, seats), pair := pair, teams := n, .. } => match findInst s p.inst with
    | some i => match findLaunch s i.seqno with
      | some l =>
        if (seats.head?.map fun x => x.2.2) == some c && seats.all fun x => inTurn s x.2.2 pair && noneBefore s x.2.2 (orderKey i 0 p.z p.y) then
          match seatPipe s i l p seats with
          | some s' => ((seats.find? fun x => inPool s x.2.2).map fun x => poolTurned s s' x.2.2 pair n).getD s'
          | none => s
        else s
      | none => s
    | none => s
  | _ => s

/-! ### The parent of a spawnd child (R205) -/

/-- A task that a spawnd suspended has its status: it is ready to go on, with its group once no member waits for another child. -/
def parentResumes (s : State) (l : LaunchState) (st : Nat) : State := match l.parent with
  | some (uid, res) =>
    let s := modLaunch s l.lr.seqno fun l => { l with parent := none, parentDl := none }
    let s := modTask s uid fun t => fillResult t res (row64 (spawnStatus l.lr.seqno st)) false
    let group := groupOfTask (focus s uid)
    let s := if group.any (awaitsChild s) then s
      else group.foldl (fun s u => modTask s u fun t => { t with place := match t.place with
        | .onChild n => .ready n
        | p => p }) s
    retire s l.lr.seqno
  | none => s

/-! ### Completion and failure (R184) -/

/-- A session that is being unbound goes when its launches have ended (R393). -/
def sweepSessions (s : State) : State :=
  let gone := s.ept.sessions.filter fun x => x.closing && !(s.sched.launches.any fun l => l.lr.sess == some x.num && l.lr.part == x.part)
  let s := gone.foldl (fun s x => modPR s x.part fun q => { q with sessstat := 2 }) s
  { s with ept := { s.ept with sessions := s.ept.sessions.filter fun x => !gone.contains x } }

/-- A closed instance goes, with the tasks of it that have ended, unless a spawnd parent still waits for it; then its launch may be at its end. -/
def closeInst (s : State) (i : Inst) (l : LaunchState) : State :=
  let s := (i.msgSlot.map (freeMsgSlot s l)).getD s
  let s := { s with others := s.others.filter fun t => !(t.info.inst == i.id && isEnded t) }
  let s := if l.parent.isSome then modInst s i.id fun i => { i with closed := true }
    else { s with sched := { s.sched with insts := s.sched.insts.filter fun j => j.id != i.id } }
  let s := { s with sched := { s.sched with passes := s.sched.passes.filter fun p => p.1 != i.id } }
  sweepSessions (retire s l.lr.seqno)

/-- Every task of the instance has ended. -/
def allEnded (i : Inst) : Bool := !i.closed && i.tasksLeft == 0 && i.teamsLeft.isEmpty

/-- Passes of one group that are open at an instance's completion: applied with identities, each short one with an event (R272). -/
def closePasses : Nat → State → LaunchState → Nat → Nat → State
  | 0, s, _, _, _ => s
  | n + 1, s, l, inst, g =>
    if s.sched.contribs.any fun c => c.inst == inst && c.group == g then
      let short := !passFull s inst g
      let s := applyPass s inst g
      closePasses n (if short then raiseEvent s l.lr.part 0x0011 3 g l.lr.recAddr l.lr.seqno else s) l inst g
    else s

/-- The status word is where the device cannot write it now (R239, R370). -/
def statusWaits (s : State) (l : LaunchState) : Bool :=
  virtWaits s l.recPart { rd := false, wr := true, task := false } (l.lr.recAddr + 0xF8) 8

/-- Status word, counter, interrupt, in this order (R184), after the open passes of its groups (R272). -/
def completeInst (s : State) (id : Nat) : State :=
  match findInst s id with
  | none => s
  | some i => match findLaunch s i.seqno with
    | none => s
    | some l =>
      if !allEnded i || i.failed || statusWaits s l then s
      else
        let s := (List.range l.groups.length).foldl (fun s g => closePasses s.sched.contribs.length s l id g) s
        let s := modLaunch s l.lr.seqno fun l => { l with doneK := l.doneK + 1 }
        let s := writeStatus s l.recPart l.lr.recAddr (l.doneK + 1) 0 2
        let s := match l.lr.dnext with
          | some c => decCounter s l.lr.part c
          | none => s
        let s := if l.lr.irq then interruptFn s l.lr.vf else s
        closeInst s i l

/-- A failed instance: open passes are discarded; STATE 3, FAILED; its counter is left alone (R180, R184, R272). -/
def failInst (s : State) (id : Nat) : State :=
  match findInst s id with
  | none => s
  | some i => match findLaunch s i.seqno with
    | none => s
    | some l =>
      if !allEnded i || !i.failed || statusWaits s l then s
      else
        let s := { s with sched := { s.sched with contribs := s.sched.contribs.filter fun c => c.inst != id } }
        closeInst (writeStatus s l.recPart l.lr.recAddr l.doneK stFailed 3) i l

/-! ### The escalation ladder (R328 to R331) -/

/-- A soft request to one task. -/
def askTask (now : Nat) (t : Task) : Task :=
  if onCore t ∧ t.time.ladder = .run then { t with time := { t.time with ladder := .asked now, softPending := true } } else t

/-- A soft request to the tasks that `who` names. -/
def askAll (s : State) (who : Task → Bool) : State := modAllTasks s fun t => if who t then askTask s.clk.ftime t else t

/-- When the task was asked. -/
def askedAt (t : Task) : Option Nat := match t.time.ladder with
  | .asked n | .halting n => some n
  | _ => none

def graceNs (q : Part) : Nat := 1000 * atLeast1 (fld q.sch.grace 15 0)
def killNs (q : Part) : Nat := 1000 * Nat.max (atLeast1 (fld q.sch.grace 15 0)) (fld q.sch.kill 19 0)

/-- Freezes that a halt does not end: done's, a mirror point's, and the waits to leave. -/
def haltable (t : Task) : Bool := t.freeze.all fun f => match f with
  | .done | .mirror _ | .faultWait _ | .sysWait .. | .safePoint _ | .halt => false
  | _ => true

/-- The grace timer in normal service: a halt at the bundle boundary, and a save. In safe-point mode, none (R325). -/
def graceHalt (s : State) : State :=
  let t := s.task
  match t.time.ladder with
  | .asked n =>
    if onCore t && !s.sched.safePt && decide (n + graceNs (getPart s t.info.part) ≤ s.clk.ftime)
        && (groupOfTask s).all (fun u => (findTask s u).any haltable) then
      leaveCore s .halt
    else s
  | _ => s

def killDue (s : State) : State :=
  let t := s.task
  let on := (coreOf t).isSome
  match askedAt t with
  | some n => if on && decide (n + killNs (getPart s t.info.part) ≤ s.clk.ftime) then
      killGroup s (lowestOf s fun t => (askedAt t).any fun n => decide (n + killNs (getPart s t.info.part) ≤ s.clk.ftime))
    else s
  | none => s

/-- A cause of the task's own that waits for its end: it stands before wct. -/
def terminalWait (t : Task) : Bool := t.freeze.any fun f => match f with
  | .faultWait c => c.cause != .pageFault
  | _ => false

/-- wct has run out: freezes end, and the task ends with WCT_EXCEEDED at the boundary; where it cannot yet, its kill timer runs (R331). -/
def wctEnd (s : State) : State :=
  let t := s.task
  if !onCore t || decide (t.time.wctUsed ≤ t.info.wct) || terminalWait t then s
  else
    let l := groupOfTask s
    let rep := lowestOf s fun t => onCore t && decide (t.info.wct < t.time.wctUsed) && !terminalWait t
    let s := l.foldl (fun s u => modTask s u fun t => { t with freeze := [] }) s
    let s := trapGroup { cause := .wctExceeded } rep l s
    if onCore s.task then { s with task := { s.task with time := { s.task.time with ladder := match s.task.time.ladder with
        | .run => .halting s.clk.ftime
        | x => x } } }
    else s

/-- The save of a halt or a safe point is complete: the core is free. -/
def saveDone (s : State) : State := match s.task.place with
  | .saving n _ _ _ => { s with task := { s.task with place := .ready n, time := { s.task.time with ladder := .off } } }
  | _ => s

/-- A task that a spawnd suspends leaves its core, with its group, its context saved as for a page fault (R205; in safe-point mode too, log 87). -/
def childLeave (s : State) : State :=
  if awaitsChild s s.task.uid && onCore s.task then leaveCore s .child else s

/-- A task that could not leave for want of a slot tries again: its trap, its sys, its spawnd (R319). -/
def slotFreed (s : State) : State := if awaitsChild s s.task.uid then childLeave s else retryLeave s

/-! ### Restores (R323) -/

/-- The members of a group with their cores: the focus task on the given core, the others on the lowest free ones; copies on their own dies. -/
def returnSeats (s : State) (l : List Nat) (c : Nat × Nat) (core : Nat) : List (Nat × (Nat × Nat × Nat)) :=
  let me := s.task
  let dies := match findLaunch s me.info.seqno with
    | some x => diesOf x
    | none => []
  let dieFor := fun (t : Task) => if t.info.copy = me.info.copy then c.1 else nth dies t.info.copy c.1
  (l.filterMap (findTask s)).foldl (fun acc t =>
    if t.uid = me.uid then acc ++ [(t.uid, (c.1, c.2, core))]
    else
      let cl := (dieFor t, c.2)
      let free := (freeCoresFor s (fun u => sameTeam u.info t.info) cl).filter fun k => !(acc.any fun a => a.2 == (cl.1, cl.2, k)) && !((cl.1, k) == (c.1, core))
      acc ++ [(t.uid, (cl.1, cl.2, free.headD 8))]) []

/-- A saved task, with its group, takes cores again, if nothing ready that competes for a cluster of theirs comes before it (R192, R197, R323). -/
def restoreAt (s : State) (die cluster core : Nat) : State :=
  let t := s.task
  let c := (die, cluster)
  let mate := fun (u : Task) => sameTeam u.info t.info
  let seats := returnSeats s (groupOfTask s) c core
  let ok := (freeCoresFor s mate c).contains core
    && (seats.all fun x => decide (x.2.2.2 < 8) && (findTask s x.1).any fun u => mayReturn s u (x.2.1, x.2.2.1)
          && (freeCoresFor s (fun v => sameTeam v.info u.info) (x.2.1, x.2.2.1)).contains x.2.2.2
          && noneBefore s (x.2.1, x.2.2.1) (taskKey s u))
    && ((holders s c).any mate || setFree s t.info.part c)
    && (!inPool s c || (rivals s c).any fun x => x.key == taskKey s t && x.seats.isNone)
  if ok then
    let s' := focus (seats.foldl (fun s x => restoreTo (focus s x.1) x.2.1 x.2.2.1 x.2.2.2) s) t.uid
    match findLaunch s t.info.seqno with
    | some l => if (holders s c).any mate then s' else poolTurned s s' c (pairOf l.lr) 1
    | none => s'
  else s

/-! ### Degradation (R198, R199) -/

/-- One period of a launch, 1 ms for a one-shot. -/
def periodOf (l : Launch) : Nat := if l.period = 0 then 1000000 else l.period

/-- A B team of the partition is running or ready on its clusters. -/
def bTeamThere (s : State) (p : Nat) : Bool :=
  let q := getPart s p
  ((allTasks s).any fun t => t.info.part == p && t.info.cls == 2 && (match t.place with
      | .onCore d c _ => q.res.genClusters.contains (d, c) || q.res.fPairs.contains (d / 2, c)
      | .ready _ => true
      | _ => false))
    || (readyPipes s).any fun x => x.2.1.lr.part == p && x.2.1.lr.cls == 2

/-- The scheduler's answer to a LATE or MISS of a class S instance. -/
def degrade (s : State) (seq : Nat) : State :=
  match findLaunch s seq with
  | none => s
  | some l =>
    let p := l.lr.part
    let hold := (getPart s p).sch.bhold
    let s := modPS s p fun q => { q with lastS := s.clk.ftime }
    if !hold && bTeamThere s p then
      let s := modPS s p fun q => { q with bhold := true }
      let s := askAll s fun t => t.info.part == p && t.info.cls == 2
      raiseEvent s p 0x0003 2 0 0 0
    else if decide (l.level < 3) && l.lastChange.all (fun n => decide (n + periodOf l.lr ≤ s.clk.ftime)) then
      let s := modLaunch s seq fun l => { l with level := l.level + 1, lastChange := some s.clk.ftime }
      let s := modPS s p fun q => { q with cntLvl := q.cntLvl + 1 }
      raiseEvent s p 0x0001 2 (l.level + 1) l.lr.recAddr seq
    else s

/-- LATE (R198): at most once for an instance. -/
def lateInst (s : State) (id : Nat) : State :=
  match findInst s id with
  | none => s
  | some i => match findLaunch s i.seqno, i.deadline with
    | some l, some d =>
      if l.lr.cls == 1 && !i.closed && !i.lateRaised && !i.teamsLeft.isEmpty && decide (d < s.clk.ftime + l.lr.wct) then
        let s := modInst s id fun i => { i with lateRaised := true }
        degrade (modPS s l.lr.part fun q => { q with cntLate := q.cntLate + 1 }) l.lr.seqno
      else s
    | _, _ => s

/-- The MISS event of instance k, and for class S what follows from it (R190, R198). -/
def missEvent (s : State) (l : LaunchState) (k : Nat) : State :=
  let s := modPS s l.lr.part fun q => { q with cntMiss := q.cntMiss + 1 }
  let s := raiseEvent s l.lr.part 0x0005 2 k l.lr.recAddr l.lr.seqno
  if l.lr.cls = 1 then degrade s l.lr.seqno else s

/-- The next instance that the device could not release by its deadline, with the deadline: its counter holds it, or its partition is stopped. -/
def heldNext (l : LaunchState) : Option (Nat × Nat) :=
  let k := Nat.max l.nextK l.missK
  if l.cancelled then none
  else match l.lr.sess with
    | some _ => if k = l.nextK then (nextRelease l).bind fun r => (deadlineOf l k r).map fun d => (k, d) else none
    | none => if l.lr.period = 0 ∧ 1 ≤ k then none else (deadlineOf l k 0).map fun d => (k, d)

/-- MISS of an instance that has not been released at d_k: one that its level skips raises none (R190, R199). -/
def missHeld (s : State) (seq : Nat) : State :=
  match findLaunch s seq with
  | none => s
  | some l => match heldNext l with
    | some (k, d) =>
      if d ≤ s.clk.ftime then
        let s := modLaunch s seq fun l => { l with missK := k + 1 }
        if skipsK l k then s else missEvent s l k
      else s
    | none => s

/-- MISS (R190): one event for an instance of any class. An instance that has been released goes by its number, the next one of a launch that has not by the launch's, above 2^63. -/
def missInst (s : State) (id : Nat) : State :=
  if 2 ^ 63 ≤ id then missHeld s (id - 2 ^ 63)
  else match findInst s id with
  | none => s
  | some i => match findLaunch s i.seqno, i.deadline with
    | some l, some d =>
      if !i.closed && !i.missRaised && decide (d ≤ s.clk.ftime) then
        missEvent (modInst s id fun i => { i with missRaised := true }) l i.k
      else s
    | _, _ => s

/-- A level falls after 32 quiet periods; a one-shot launch that L3 held is released at once (R198, R199). -/
def lowerLevel (s : State) (seq : Nat) : State :=
  match findLaunch s seq with
  | none => s
  | some l =>
    let since := Nat.max (l.lastChange.getD 0) (getPart s l.lr.part).sch.lastS
    if l.lr.cls == 1 && decide (1 ≤ l.level) && decide (since + 32 * periodOf l.lr ≤ s.clk.ftime) then
      let s := modLaunch s seq fun l => { l with level := l.level - 1, lastChange := some s.clk.ftime, fromL3 := l.fromL3 || l.level == 3 }
      let s := modPS s l.lr.part fun q => { q with cntLvl := q.cntLvl + 1 }
      let s := raiseEvent s l.lr.part 0x0002 2 (l.level - 1) l.lr.recAddr seq
      if l.level = 3 ∧ l.lr.period = 0 ∧ l.lr.sess = none then releaseInst s seq else s
    else s

/-- B hold ends after 1 ms without a class S event (R198). -/
def endHold (s : State) (p : Nat) : State :=
  let q := (getPart s p).sch
  if q.bhold && decide (q.lastS + 1000000 ≤ s.clk.ftime) then raiseEvent (modPS s p fun q => { q with bhold := false }) p 0x0004 2 0 0 0 else s

/-! ### The events -/

/-- A save is complete (R329). -/
def execContextSaveDone (s : State) : Host.Outcome State Fault Refusal := .next (saveDone s)
/-- A saved task is restored (R323). -/
def execTaskRestore (die cluster core : Nat) (s : State) : Host.Outcome State Fault Refusal := .next (restoreAt s die cluster core)
/-- A doorbell (R387). -/
def execQueueDoorbell (fn queue : Nat) (v : W64) (s : State) : Host.Outcome State Fault Refusal := .next (doorbell s fn queue v)
/-- A queue's head is submitted (R183). -/
def execQueueEntrySubmit (fn queue : Nat) (s : State) : Host.Outcome State Fault Refusal := .next (submitHead s fn queue)
/-- An instance becomes ready (R190). -/
def execInstanceRelease (seq : Nat) (s : State) : Host.Outcome State Fault Refusal := .next (releaseInst s seq)
/-- A team is dispatched (R192). -/
def execTeamDispatch (die cluster : Nat) (s : State) : Host.Outcome State Fault Refusal := .next (dispatch s (die, cluster))
/-- An instance completes (R184). -/
def execInstanceComplete (inst : Nat) (s : State) : Host.Outcome State Fault Refusal := .next (completeInst s inst)
/-- An instance fails (R184). -/
def execInstanceFail (inst : Nat) (s : State) : Host.Outcome State Fault Refusal := .next (failInst s inst)
/-- LATE (R198). -/
def execLate (inst : Nat) (s : State) : Host.Outcome State Fault Refusal := .next (lateInst s inst)
/-- MISS (R190). -/
def execMiss (inst : Nat) (s : State) : Host.Outcome State Fault Refusal := .next (missInst s inst)
/-- A level falls (R198). -/
def execLvlDown (seq : Nat) (s : State) : Host.Outcome State Fault Refusal := .next (lowerLevel s seq)
/-- B hold ends (R198). -/
def execBholdOff (part : Nat) (s : State) : Host.Outcome State Fault Refusal := .next (endHold s part)
/-- wct runs out (R331). -/
def execWctExceeded (s : State) : Host.Outcome State Fault Refusal := .next (wctEnd s)
/-- A soft request (R328). -/
def execSoftRequest (s : State) : Host.Outcome State Fault Refusal := .next { s with task := askTask s.clk.ftime s.task }
/-- The grace timer (R329). -/
def execGraceExpire (s : State) : Host.Outcome State Fault Refusal := .next (graceHalt s)
/-- The kill timer (R330). -/
def execKillExpire (s : State) : Host.Outcome State Fault Refusal := .next (killDue s)
/-- A frame slot frees (R319). -/
def execFrameSlotFree (s : State) : Host.Outcome State Fault Refusal := .next (slotFreed s)

end Sys2Proof.Machine
end

