-- ==== Sys2Proof/Machine/Mirror.lean ====
section
/-! DEFINITION. Mirror pairs: mirror points, heartbeats, the loss of a die, the take-over of its memory, fail-over and resync (R332, R335, R366 to R372). -/

namespace Sys2Proof.Machine

def modPair (s : State) (n : Nat) (f : Pair → Pair) : State :=
  { s with mir := { s.mir with pairs := setNth s.mir.pairs n (f (nth s.mir.pairs n Pair.reset)) } }

def pairAt (s : State) (n : Nat) : Pair := nth s.mir.pairs n Pair.reset

/-- The other die of the pair. -/
def partnerOf (d : Nat) : Nat := if d % 2 = 0 then d + 1 else d - 1

/-! ### Mirror points (R367, R368) -/

/-- A row of a mirrored block copied to the shadow block. -/
def toShadow (s : State) (row : Nat) : State := match shadowBlock s (row / 2 ^ 24) with
  | some b => copyShadow s b row
  | none => s

/-- Rows that a task's tile wrote. -/
def tileRows (s : State) (uid : Nat) : List Nat := (s.mir.written.filter fun w => w.1 == uid).map Prod.snd

/-- The Woad engine's part of a mirror point: everything the tile did has gone home, its rows are in the shadow blocks, the standing image is the task as it goes on. -/
def mirrorTile (s : State) : State :=
  let s := releaseOut s
  let t := s.task
  let s := (tileRows s t.uid).foldl toShadow s
  let s := { s with mir := { s.mir with written := s.mir.written.filter fun w => w.1 != t.uid } }
  let s := modInst s t.info.inst fun i => { i with unreplayable := false }
  let t := { t with freeze := t.freeze.filter fun f => match f with
    | .mirror _ => false
    | _ => true }
  setStanding { s with task := t } t

/-- A mirror point ends, once the task's operations have completed and its stores have issued; at done the task then ends (R108, R367). -/
def mirrorDone (s : State) : State :=
  match s.task.freeze.find? (fun f => match f with
    | .mirror _ => true
    | _ => false) with
  | some (.mirror last) =>
    let s := drainAll s
    if !onCore s.task || onMute s s.task || s.task.memq ≠ [] || !(opsOf s s.task.uid).isEmpty then s
    else if last then endTask (mirrorTile s) true else mirrorTile s
  | _ => s

/-! ### Lines lost (R332, R336) -/

/-- Neighbours that are equal, once each. -/
def dedupAdj : List Nat → List Nat
  | [] => []
  | [a] => [a]
  | a :: b :: t => if a = b then dedupAdj (b :: t) else a :: dedupAdj (b :: t)

/-- One charge for each block that lost lines: how many, and the block's first byte; lines of no partition are charged to the PF (R332). -/
def chargeBlocks (s : State) (rows : List Nat) : State :=
  ((rows.map fun r => r / 2 ^ 24).eraseDups).foldl (fun s b =>
    raiseCharge s ((ownerOf s (b * 2 ^ 31)).getD 0) (rows.filter fun r => r / 2 ^ 24 == b).length (b * 2 ^ 31)) s

/-- Rows that a bound row stands for. -/
def boundRows : Target → List Nat
  | .glob va pa coh fmt base bad => match packedOf fmt with
    | some k => packedRows k base (pa / 128)
    | none => [physRow (.glob va pa coh fmt base bad)]
  | _ => []

/-- Rows whose only up-to-date copy was on a die: dirty lines of its L1s, dirty bound rows, and, of the rows homed there, those that its slice held dirty, which no rule fixes (log 29). -/
def onlyOn (s : State) (d : Nat) : List Nat :=
  let l1 := (s.side.l1.filter fun l => l.core / 64 == d && l.dirty).map L1Line.row
  let st := ((allTasks s).filter fun t => (coreOf t).elim false fun c => c.1 == d).flatMap fun t =>
    (t.stashRows.filter StashRow.dirty).flatMap fun r => boundRows r.src
  let homed := (dedupAdj (s.mem.map fun c => c.1 / 128)).filter fun r => homeDie s (r * 128) == d
  let held := (s.side.slices.filter fun l => l.die == d && homeDie s (l.row * 128) == d).map SliceLine.row
  let maybe := (homed ++ held).eraseDups
  (l1 ++ st ++ ((List.range maybe.length).filter fun i => bitAt (Config.freeRow (s.fresh + i)) 0).map fun i => nth maybe i 0).eraseDups

/-- Every cached copy on a die is gone. -/
def dropCaches (s : State) (d : Nat) : State :=
  { s with side := { s.side with
    l1 := s.side.l1.filter fun l => l.core / 64 != d
    slices := s.side.slices.filter fun l => l.die != d
    dir := (s.side.dir.map fun e => { e with dies := e.dies &&& ~~~ dieBit d, owner := e.owner.filter fun c => c / 64 != d }).filter
      fun e => e.dies != 0 || e.owner.isSome } }

/-- A die's caches are lost: the lines whose only copy they held are poisoned and charged per block. -/
def loseCaches (s : State) (d : Nat) : State :=
  let rows := (onlyOn s d).filter fun r => !poisonedRow s r
  let s := { s with fresh := s.fresh + s.mem.length + s.side.slices.length }
  let s := dropCaches (addPoison s rows) d
  chargeBlocks s rows

/-- A class F task that its standing image can replay (R330, R335, R371). -/
def canReplay (s : State) (t : Task) : Bool :=
  t.info.cls == 0 && (s.mir.standing.any fun x => x.uid == t.uid) && (findInst s t.info.inst).any fun i => !i.unreplayable && !i.failed

/-- A task of a lost die: replayed where its instance can be, else ended with MACHINE_CHECK, one record for a group; the ranks that wait for one of its collectives learn of it (R187, R298, R309, R336, R371). -/
def loseTask (s : State) (uid : Nat) (replay report : Bool) : State :=
  let s := focus s uid
  let pending := pendingColls s
  let s := { s with task := { s.task with stashRows := [], memq := [], flights := [], egress := [] } }
  if replay && canReplay s s.task then let s := dropOps s uid; { s with task := toReplay s.task }
  else
    let s := abandonOps (pending.foldl abortPeers s) uid
    let s := if report then raiseRec s (trapRec s.task { cause := .machineCheck }) false else s
    endTask { s with task := { s.task with spec := Madder.idle } } false

/-- Tasks that hold a core of a die. -/
def tasksOn (s : State) (d : Nat) : List Nat := ((allTasks s).filter fun t => (coreOf t).elim false fun c => c.1 == d).map Task.uid

def loseTasks (s : State) (d : Nat) (replay : Bool) : State :=
  let first := (tasksOn s d).filter fun u => let s := focus s u; lowestOf s (fun t => !(replay && canReplay s t)) == u
  focus ((tasksOn s d).foldl (fun s u => loseTask s u replay (first.contains u)) s) s.task.uid

/-- A forced reset's first moment: tasks and caches of the die go (R336). -/
def dropDie (s : State) (d : Nat) (replay : Bool) : State := loseTasks (loseCaches s d) d replay

/-! ### Loss of a die (R369, R370) -/

/-- A class F task of a pair that no loss has stopped: on a core of that die, or off its core with a launch that has F clusters of the pair. -/
def pairTask (s : State) (n live : Nat) (t : Task) : Bool :=
  t.info.cls == 0 && !inReplay t && !isEnded t
    && (match coreOf t with
      | some c => c.1 == live
      | none => (findLaunch s t.info.seqno).any fun l => l.clusters.any fun c => c.1 / 2 == n)

/-- The pair goes on with one die, which has the primary role; class F launches keep their cluster indices on it. Their tasks that the loss has not stopped, off their cores too, go on without mirroring (R372). -/
def declare (s : State) (d : Nat) : State :=
  let s := modPair s (d / 2) fun p => { p with fails := (p.fails + 1) % 2 ^ 32, lost := d, state := 1, taken := false, roleOdd := d % 2 == 0, shown := (p.state, p.lost) }
  let here := ((allTasks s).filter fun t => pairTask s (d / 2) (partnerOf d) t || (coreOf t).any fun c => c.1 == partnerOf d).map Task.uid
  { s with
    parts := s.parts.map fun q => { q with res := { q.res with
      fOdd := q.res.fOdd.filter (fun c => c.1 != d / 2) ++ if d % 2 = 0 then q.res.fPairs.filter fun c => c.1 == d / 2 else [] } }
    mir := { s.mir with
      standing := s.mir.standing.filter fun x => !here.contains x.uid
      written := s.mir.written.filter fun w => !here.contains w.1 }
    sched := { s.sched with launches := s.sched.launches.map fun l =>
      { l with clusters := l.clusters.map fun c => if c.1 = d then (partnerOf d, c.2) else c } } }

/-- The Mordant die isolates a die: its tasks and caches are gone, a forced reset begins. -/
def isolate (s : State) (d : Nat) : State :=
  let up := (pairAt s (d / 2)).state == 0
  let s := modPair (declare s d) (d / 2) fun p => { p with isolated := some d }
  let busy := fld s.sched.dierst 5 4 == 1 || fld s.sched.dierst 5 4 == 2
  let s := if busy then s else { s with sched := { s.sched with dierst := BitVec.ofNat 64 (2 * 16 + 8 + d) } }
  dropDie s d up

/-- No heartbeat from a die for 200 µs; where both are silent the odd die is isolated (R369). While that time has not passed since its latest heartbeat, the die sends no other one: this is how the outside has a die fail (log 81). -/
def heartbeatLost (s : State) (d : Nat) : State :=
  let p := pairAt s (d / 2)
  let silent := fun (k : Nat) => decide (nth p.hbAt k 0 + 200000 ≤ s.clk.ftime)
  if 8 ≤ d ∨ !(p.state == 0 || p.state == 2) ∨ p.isolated.isSome then s
  else if !silent (d % 2) then { s with mir := { s.mir with mute := if s.mir.mute.contains d then s.mir.mute else d :: s.mir.mute } }
  else isolate s (if silent ((d + 1) % 2) then d / 2 * 2 + 1 else d)

/-- Memory of block `dst` becomes what block `src` holds. -/
def copyBlock (s : State) (dst src : Nat) : State :=
  let cells := s.mem.filter fun c => c.1 / 2 ^ 31 == src
  let base := sclearRange s.mem (dst * 2 ^ 31) ((dst + 1) * 2 ^ 31)
  let rows := (s.side.poison.filter fun r => r / 2 ^ 24 == src).map fun r => dst * 2 ^ 24 + r % 2 ^ 24
  { s with
    mem := cells.foldl (fun m c => sset m (dst * 2 ^ 31 + c.1 % 2 ^ 31) c.2) base
    side := { s.side with poison := rows ++ s.side.poison.filter fun r => r / 2 ^ 24 != dst
                          lost := s.side.lost.filter fun n => n / 1024 != dst } }

/-- Regions of a block. -/
def regionsOf (b : Nat) : List Nat := (List.range 1024).map fun k => b * 1024 + k

def moveBlock (s : State) (b die : Nat) : State := (regionsOf b).foldl (fun s n => modRegion s n fun r => { r with home := die }) s

/-- Regions of the blocks that partitions own, mirrored blocks and shadow blocks aside, that are homed on a die. -/
def plainRegions (s : State) (d : Nat) : List Nat :=
  s.parts.flatMap fun q => (q.res.blocks.filter fun b => !(q.res.pairs.any fun p => p.1 == b || p.2 == b)).flatMap fun b =>
    (regionsOf b).filter fun n => (regionOf s n).home == d

/-- Every line of some regions is poisoned, and charged per block (R332, R370). -/
def loseRegions (s : State) (l : List Nat) : State :=
  let had := fun (n : Nat) => if s.side.lost.contains n then 16384 - (s.side.healed.filter fun r => r / 2 ^ 14 == n).length
    else (s.side.poison.filter fun r => r / 2 ^ 14 == n).length
  let s' := { s with side := { s.side with
    lost := l ++ s.side.lost.filter fun n => !l.contains n
    healed := s.side.healed.filter fun r => !l.contains (r / 2 ^ 14)
    poison := s.side.poison.filter fun r => !l.contains (r / 2 ^ 14) } }
  ((l.map fun n => n / 1024).eraseDups).foldl (fun s b =>
    let n := ((l.filter fun n => n / 1024 == b).map fun n => 16384 - had n).sum
    if n = 0 then s else raiseCharge s ((ownerOf s (b * 2 ^ 31)).getD 0) n (b * 2 ^ 31)) s'

/-- Mirrored blocks of the lost die take their shadow blocks as home; other lines homed on an isolated die are poisoned (R370). Rows that a lost tile wrote in mirrored blocks of another home still wait for its replay to roll them back (R371). -/
def takeOver (s : State) (d : Nat) : State :=
  let p := pairAt s (d / 2)
  if 8 ≤ d ∨ p.taken ∨ p.lost ≠ d then s
  else
    let mine := (s.parts.flatMap fun q => q.res.pairs).filter fun b => homeDie s (b.1 * 2 ^ 31) == d
    let s := mine.foldl (fun s b => moveBlock (copyBlock s b.1 b.2) b.1 (partnerOf d)) s
    let here := fun (w : Nat × Nat) => mine.any fun b => b.1 == w.2 / 2 ^ 24
    let gone := ((allTasks s).filter inReplay).map Task.uid
    let s := { s with mir := { s.mir with written := s.mir.written.filter fun w => !(gone.contains w.1 && here w) } }
    let s := if p.isolated = some d then loseRegions s (plainRegions s d) else s
    let ended := fld s.sched.dierst 5 4 == 3 && fld s.sched.dierst 2 0 == d
    modPair s (d / 2) fun p => { p with taken := true, isolated := if ended then none else p.isolated }

/-! ### Fail-over (R335, R371) -/

/-- A row of a mirrored block takes its shadow's data. -/
def fromShadow (s : State) (row : Nat) : State := match shadowBlock s (row / 2 ^ 24) with
  | some b =>
    let r := b * 2 ^ 24 + row % 2 ^ 24
    if poisonedRow s r then s
    else
      let s := collapseFor s (rqDevice ((ownerOf s (row * 128)).getD 0)) [row]
      clearPoison (logSpan { s with mem := writeRow s.mem (row * 128) (readRow s.mem (r * 128)) } (row * 128) 128) [row]
  | none => s

/-- The mirrored inputs of a replay: rows that the tile wrote go back, poisoned rows are read from the shadow (R335, R371). -/
def rewind (s : State) (uid : Nat) : State :=
  let s := (tileRows s uid).foldl fromShadow s
  let s := (s.side.poison.filter fun r => (shadowBlock s (r / 2 ^ 24)).isSome).foldl fromShadow s
  { s with mir := { s.mir with written := s.mir.written.filter fun w => w.1 != uid } }

/-- A task resumes on its shadow core from its standing image, at the bundle after its last mirror point, with RPL = 1; in SINGLE it goes on without one (R371, R372). -/
def replayTask (s : State) (t : Task) : State :=
  match t.place, s.mir.standing.find? fun x => x.uid == t.uid with
  | .replay d c k, some x =>
    let p := partnerOf d
    let free := freeCores' s (p, c)
    match if free.contains k then some k else free.head? with
    | none => s
    | some k =>
      let s := rewind s t.uid
      let s := focus s t.uid
      let img := { x.image with
        info := { x.image.info with rpl := true }, place := .onCore p c k
        time := { x.image.time with ladder := .run, softPending := false }
        frame := t.frame, freeze := x.image.freeze.filter fun f => f != .stall }
      let sets := if x.bars.isEmpty then s.sched.barSets else x.bars ++ s.sched.barSets.filter fun b => !isSet t.info b
      let s := { s with task := img, sched := { s.sched with barSets := sets } }
      let s := if (pairAt s (d / 2)).state = 0 then s
        else { s with mir := { s.mir with standing := s.mir.standing.filter fun x => x.uid != t.uid } }
      releaseReached (l1Acquire s (coreNum img))
  | _, _ => s
where
  /-- Cores that no task holds, class F or not. -/
  freeCores' (s : State) (c : Nat × Nat) : List Nat :=
    (List.range 8).filter fun k => !((holders s c).any fun t => (coreOf t).elim false fun x => x.2.2 == k)

/-- A task that waits for its replay, of an instance that has failed meanwhile: it ends (R309, R330). Of a lost die's task there is no record yet (R336). -/
def endReplay (s : State) (t : Task) : State :=
  let s := focus s t.uid
  let lost := match t.place with
    | .replay d _ _ => (pairAt s (d / 2)).state != 0 && (pairAt s (d / 2)).lost == d
    | _ => false
  let s := if lost then raiseRec s (trapRec s.task { cause := .machineCheck }) false else s
  endTask { s with task := { s.task with spec := Madder.idle } } false

/-- The tasks of an instance that wait for their replay resume, once the lost die's memory has been taken over; one FAILOVER event (R316, R370). An instance that has failed meanwhile is not replayed (R330). -/
def failOver (s : State) (inst : Nat) : State :=
  let l := (allTasks s).filter fun t => t.info.inst == inst && inReplay t
  let dieFor := fun (t : Task) => match t.place with
    | .replay d _ _ => d
    | _ => 0
  match l with
  | [] => s
  | t :: _ =>
    if (l.any fun u => let p := pairAt s (dieFor u / 2); !p.taken && p.lost == dieFor u)
        || (allTasks s).any fun u => u.info.inst == inst && u.freeze.contains .replayWait then s
    else if (findInst s inst).any Inst.failed then focus (l.foldl endReplay s) s.task.uid
    else
      let me := s.task.uid
      let s := focus (l.foldl replayTask s) me
      raiseEvent s t.info.part 0x0020 2 (partnerOf (dieFor t)) t.info.recAddr t.info.seqno

/-! ### Heartbeats, resync (R369, R372) -/

/-- A die's Woad engine sends its heartbeat; its partner receives it. -/
def heartbeat (s : State) (d : Nat) : State :=
  if 8 ≤ d ∨ (pairAt s (d / 2)).isolated = some d then s
  else
    let s := { s with mir := { s.mir with mute := s.mir.mute.filter (· != d) } }
    modPair s (d / 2) fun p => { p with hbAt := setNth p.hbAt (d % 2) s.clk.ftime }

/-- Heartbeats go out every 10 µs, but from a die that has fallen silent (R369). -/
def heartbeatDue (s : State) (d : Nat) : State :=
  let p := pairAt s (d / 2)
  if (p.state = 0 ∨ p.state = 2) ∧ !s.mir.mute.contains d ∧ nth p.hbAt (d % 2) 0 + 10000 ≤ s.clk.ftime then heartbeat s d else s

/-- RESYNC acts in SINGLE with the lost die released again. -/
def startResync (s : State) (n : Nat) : State :=
  let p := pairAt s n
  if decide (n < 4) && p.state == 1 && p.taken && dieOpen s p.lost then
    modPair { s with mir := { s.mir with mute := s.mir.mute.filter (· != p.lost) } } n fun p => { p with state := 2 }
  else s

/-- The resync's end: every mirrored block is on both dies again, standing images stand, the pair mirrors. -/
def endResync (s : State) (n : Nat) : State :=
  let p := pairAt s n
  if 4 ≤ n ∨ p.state ≠ 2 then s
  else
    let live := partnerOf p.lost
    let pairs := s.parts.flatMap fun q => q.res.pairs
    let s := (pairs.filter fun b => homeDie s (b.1 * 2 ^ 31) == live).foldl (fun s b => moveBlock (logSpan (copyBlock s b.2 b.1) (b.2 * 2 ^ 31) (2 ^ 31)) b.2 p.lost) s
    let s := modPair s n fun p => { p with state := 0, hbAt := [s.clk.ftime, s.clk.ftime] }
    let l := (allTasks s).filter fun t => pairTask s n live t && t.place != .waiting
    let s := { s with mir := { s.mir with written := s.mir.written.filter fun w => !(l.map Task.uid).contains w.1 } }
    l.foldl setStanding s

/-! ### The events -/

/-- A mirror point ends (R367). -/
def execMirrorPointDone (s : State) : Host.Outcome State Fault Refusal := .next (mirrorDone s)
/-- A heartbeat (R369). -/
def execWoadHeartbeat (die : Nat) (s : State) : Host.Outcome State Fault Refusal := .next (heartbeat s die)
/-- A partner is declared lost (R369). -/
def execPartnerLost (die : Nat) (s : State) : Host.Outcome State Fault Refusal := .next (heartbeatLost s die)
/-- The memory of a lost die is taken over (R370). -/
def execShadowTakeover (die : Nat) (s : State) : Host.Outcome State Fault Refusal := .next (takeOver s die)
/-- An instance resumes on the partner (R371). -/
def execFailover (inst : Nat) (s : State) : Host.Outcome State Fault Refusal := .next (failOver s inst)
/-- RESYNC (R372). -/
def execResync (pair : Nat) (s : State) : Host.Outcome State Fault Refusal := .next (startResync s pair)
/-- A resync ends (R372). -/
def execResyncDone (pair : Nat) (s : State) : Host.Outcome State Fault Refusal := .next (endResync s pair)

end Sys2Proof.Machine
end

