-- ==== Sys2Proof/Machine/Faults.lean ====
section
/-! DEFINITION. Fault rings, the resume registers, errors in stored data, die resets, the dirty log and the stop of a partition (R314 to R318, R324, R332 to R338, R388). -/

namespace Sys2Proof.Machine

/-! ### Rings (R315 to R318) -/

def ringAt (s : State) (r : Nat) : Ring := nth s.rings r (Ring.reset r)

/-- Records a ring holds. -/
def ringSize (g : Ring) : Nat := 2 ^ (fld g.cfg 3 1 + 6)
def ringWeight (g : Ring) : Nat := fld g.cfg 15 12
def ringOn (g : Ring) : Bool := bitAt g.cfg 0
def ringFull (g : Ring) : Bool := (g.tail + 1) % ringSize g == g.head % ringSize g

/-- The ring's function: the PF for rings 0 and 1. -/
def ringFn (r : Nat) : Nat := r - 1

/-- A base inside the function's blocks or its I/O range (R317). -/
def ringBaseOk (s : State) (r : Nat) (g : Ring) : Bool := frameOk (getPart s (ringFn r)) (g.base * 64)

/-- A ring that has a record pending and a place for it; a VF ring is granted (R377, log 33). -/
def ringReady (s : State) (r : Nat) : Bool :=
  let g := ringAt s r
  (r < 2 || heldUnits (getPart s (ringFn r)) 10 0 != 0) && ringOn g && !g.waiting.isEmpty && !ringFull g && ringBaseOk s r g
    && !physWaits s (g.base * 64 + 64 * (g.tail % ringSize g)) 64

/-- The ring that the reporting port serves next, with the records of its turn: weighted round-robin in ascending order, a ring of WEIGHT 0 only when no other has a record pending (R318). -/
def ringTurn (s : State) : Option (Nat × Nat) :=
  let cur := s.sched.ringTurn / 16
  let served := s.sched.ringTurn % 16
  if ringReady s cur && decide (served < ringWeight (ringAt s cur)) then some (cur, served)
  else match ((List.range 65).map fun k => (cur + 1 + k) % 65).find? fun r => ringReady s r && ringWeight (ringAt s r) != 0 with
    | some r => some (r, 0)
    | none => ((List.range 65).find? fun r => ringReady s r
        && (List.range 65).all fun q => q == r || (ringAt s q).waiting.isEmpty).map fun r => (r, 0)

/-- The oldest record of the ring in turn is written, its PHASE with it, and visible at device scope (R315, R318). A ring that software has placed outside its function's blocks and I/O range harms no other partition: nothing is written there (R6, R317). -/
def writeRecord (s : State) (r : Nat) : State :=
  let g := ringAt s r
  match ringTurn s, g.waiting with
  | some (q, served), x :: rest =>
    if q ≠ r then s
    else
      let i := g.tail % ringSize g
      let w := x.words.toNat + (if g.phase then 2 ^ 15 else 0)
      let s := if frameOk (getPart s (ringFn r)) (g.base * 64 + 64 * i) then writePhys s (ringFn r) (g.base * 64 + 64 * i) 64 w else s
      let s := modRing s r fun g => { g with
        waiting := rest, tail := (i + 1) % ringSize g, phase := if i + 1 = ringSize g then !g.phase else g.phase }
      let s := { s with sched := { s.sched with ringTurn := 16 * r + (served + 1) % 16 } }
      if bitAt g.cfg 8 then interruptFn s (ringFn r) else s
  | _, _ => s

/-- WEIGHT_0: a VF ring of weight 0 has held a record for more than 1 ms; once for each record (R316). -/
def warnRing (s : State) (r : Nat) : State :=
  let g := ringAt s r
  if decide (2 ≤ r ∧ r < 65) && ringWeight g == 0 && (g.waiting.any fun x => !x.warned && decide (x.at_ + 1000000 < s.clk.ftime)) then
    let s := raiseEvent s (ringFn r) 0x0012 3 g.waiting.length 0 0
    modRing s r fun g => { g with waiting := g.waiting.map fun x => { x with warned := true } }
  else s

/-! ### FLT_RESUME (R312, R324) -/

/-- The task that waits in a slot of a partition on a retryable record. -/
def waiterOf (s : State) (p slot : Nat) : Option Task :=
  (allTasks s).find? fun t => t.info.part == p && (match t.place with
    | .onRecord n => n == slot
    | _ => false)

/-- The tasks of a group leave and resume together (R187). -/
def groupOfWaiter (s : State) (t : Task) : List Nat := groupOfTask (focus s t.uid)

/-- FLT_RESUME with END = 0: the task is ready, with FLT_RESVAL in its sysr and in its frame, as long as the frame lies in the partition's blocks (R6). The first one for a slot of a fused group resumes the whole group, and that slot's task alone gets FLT_RESVAL (log 96). -/
def resumeSlot (s : State) (p : Nat) (v : W64) : State :=
  if fld v 63 16 ≠ 0 then s
  else match waiterOf s p (fld v 15 0) with
    | none => s
    | some t =>
      let x := (getPart s p).sch.resval
      let s := modTask s t.uid fun t => { t with time := { t.time with sysr := x } }
      let s := if ownerOf s t.frame.sysrAt = some p then writePhys s p t.frame.sysrAt 8 x.toNat else s
      (groupOfWaiter s t).foldl (fun s u => modTask s u fun t => { t with place := match t.place with
        | .onRecord n => .ready n
        | q => q }) s

/-- FLT_RESUME with END = 1: KILLED. -/
def endSlot (s : State) (p : Nat) (v : W64) : State :=
  if fld v 63 17 ≠ 0 ∨ !bitAt v 16 then s
  else match waiterOf s p (fld v 15 0) with
    | none => s
    | some t => focus (killGroup (focus s t.uid) t.uid) s.task.uid

/-! ### SCH_PREEMPT, SCH_CANCEL (R388) -/

def preempt (s : State) (p : Nat) (v : W64) : State :=
  askAll s fun t => t.info.part == p && t.info.seqno == v.toNat

/-- A cancelled launch releases no further instance. What becomes of a launch that has released none is the model's choice (log 80): its counter, if it still waits for one, is bound no more, and the task that a spawnd suspended for it goes on with FAILED. -/
def cancel (s : State) (p : Nat) (v : W64) : State :=
  match findLaunch s v.toNat with
  | some l =>
    if l.lr.part = p then
      let s := modPS (modLaunch s v.toNat fun l => { l with cancelled := true }) p fun q => { q with bound := q.bound.filter fun b => b.2 != v.toNat }
      let s := if s.sched.insts.any fun i => i.seqno == v.toNat then s else parentResumes s { l with cancelled := true } stFailed
      retire s v.toNat
    else s
  | none => s

/-! ### Errors (R35, R244, R332, R333) -/

/-- A row poisoned and charged, once. -/
def poisonRow (s : State) (row : Nat) : State :=
  if poisonedRow s row then s else raiseCharge (addPoison s [row]) ((ownerOf s (row * 128)).getD 0) 1 (row * 128)

/-- A scratchpad row of the focus task: a bound row is refetched, or its home poisoned when dirty; any other row is poisoned where it is. -/
def errPlate (s : State) (r : Nat) : State :=
  match s.task.stashRows.find? fun x => x.row == r with
  | some x =>
    let s := { s with task := { s.task with stashRows := s.task.stashRows.filter fun y => y.row != r } }
    if x.dirty then (boundRows x.src).foldl poisonRow s else s
  | none => { s with task := putPlate s.task r (sget s.task.plates r) true }

/-- What an uncorrectable error does where it strikes. -/
def errorAt (s : State) : ErrAt → State
  | .replica row => dropReplica s row
  | .cleanCopy row => { s with side := { s.side with
      l1 := s.side.l1.filter fun l => l.row != row || l.dirty, slices := s.side.slices.filter fun l => l.row != row } }
  | .home row => poisonRow s row
  | .dirtyL1 row =>
    if s.side.l1.any fun l => l.row == row && l.dirty then
      let s := setDir { s with side := { s.side with l1 := s.side.l1.filter fun l => l.row != row || !l.dirty } } { dirOf s row with owner := none }
      poisonRow s row
    else s
  | .scratch p r => if p < 128 ∧ r < 128 then errPlate s (128 * p + r) else s

/-- MACHINE_CHECK waits for the next boundary of the task on the core. -/
def coreError (s : State) : State :=
  if onCore s.task then { s with task := pend s.task { cause := .machineCheck, at_ := some s.clk.ftime } } else s

/-! ### SCH_DIERST (R336) -/

def dierstBusy (s : State) : Bool := fld s.sched.dierst 5 4 == 1 || fld s.sched.dierst 5 4 == 2

/-- An orderly reset: dispatch stops, soft requests; class F instances that can be replayed fail over to the partner once their stores have issued, the others run the ladder (R336, R369). -/
def orderly (s : State) (d : Nat) : State :=
  if 8 ≤ d ∨ dierstBusy s then s
  else
    let s := { s with sched := { s.sched with dierst := BitVec.ofNat 64 (16 + d) } }
    let s := if (pairAt s (d / 2)).state = 0 then
        let fs := ((allTasks s).filter fun t => onCore t && dieOf t == d && canReplay s t).map Task.uid
        focus (fs.foldl (fun s u => replayLeave (focus (modTask s u fun t => { t with freeze := [.replayWait], pending := [] }) u)) (declare s d)) s.task.uid
      else s
    askAll s fun t => dieOf t == d && onCore t

/-- A forced reset (R336). -/
def forced (s : State) (d : Nat) : State :=
  if 8 ≤ d ∨ dierstBusy s then s
  else
    let s := { s with sched := { s.sched with dierst := BitVec.ofNat 64 (2 * 16 + 8 + d) } }
    let up := (pairAt s (d / 2)).state == 0
    dropDie (if up then modPair (declare s d) (d / 2) fun p => { p with isolated := some d } else s) d up

/-- The quiesce walk: dirty lines of the die's caches go home, its replicas are dropped. -/
def quiesce (s : State) (d : Nat) : State :=
  let lines := s.side.l1.filter fun l => l.core / 64 == d && l.dirty
  dropCaches (lines.foldl (fun s l => writeBack s l none) s) d

/-- Sides that keep an operation running without its task's core. -/
def runsAlone (o : EngOp) : Bool := !o.stopped && !((sideWords o).any localSide)

/-- A die's tasks have left it, and the operations that its engines run for them without their cores have completed. -/
def dieEmpty (s : State) (d : Nat) : Bool :=
  (tasksOn s d).isEmpty && s.sched.ops.all fun o => !runsAlone o || (findTask s o.owner).all fun t => (rqEng s t).die != d

/-- A reset goes on: an orderly one, once the die is empty, through the quiesce walk to STATE 2; a reset in STATE 2 ends, that of a lost die too, whether or not its memory has been taken over; an isolated die whose reset had to wait for another one is reset then (R336, R370, R415). -/
def resetEnd (s : State) : State :=
  let d := fld s.sched.dierst 2 0
  let p := pairAt s (d / 2)
  if fld s.sched.dierst 5 4 = 1 then
    if dieEmpty s d then { quiesce s d with sched := { (quiesce s d).sched with dierst := BitVec.ofNat 64 (2 * 16 + d) } } else s
  else if fld s.sched.dierst 5 4 ≠ 2 then
    match (List.range 8).find? fun d => let p := pairAt s (d / 2); p.isolated == some d && p.taken with
    | some d => { s with sched := { s.sched with dierst := BitVec.ofNat 64 (2 * 16 + 8 + d) } }
    | none => s
  else
    let force := bitAt s.sched.dierst 3
    let s := { s with sched := { s.sched with dierst := BitVec.ofNat 64 (3 * 16 + 8 * b2n force + d) } }
    let s := if p.isolated = some d ∧ p.taken then modPair s (d / 2) fun p => { p with isolated := none } else s
    raiseEvent s 0 0x0022 2 (d + 2 ^ 8 * b2n force) 0 0

/-! ### The dirty log (R337) -/

/-- The place of a block among a partition's blocks, ascending. -/
def blockRank (q : Part) (b : Nat) : Nat := (q.res.blocks.filter fun x => decide (x < b)).length

/-- One frame's bit set. In the I/O window the byte leaves as a write of the bits to set (log 30). -/
def setFrameBit (s : State) (p frame : Nat) : State :=
  let q := getPart s p
  let base := fld q.sch.dlog 51 12 * 4096
  let bit := frame % 2 ^ 19
  let a := base + blockRank q (frame / 2 ^ 19) * 2 ^ 16 + bit / 8
  let old := if a / 2 ^ 51 = 1 then 0 else byteAt s.mem a
  writePhys s p a 1 (old ||| 2 ^ (bit % 8))

/-- A report: every pending bit reaches the bitmap. -/
def report (s : State) (p : Nat) : State :=
  let l := (getPart s p).sch.dirtyFrames.filter fun f => (getPart s p).res.blocks.contains (f / 2 ^ 19)
  let s := l.foldl (fun s f => setFrameBit s p f) s
  modPS s p fun q => { q with dirtyFrames := [] }

/-- A write of PAR_DLOG. -/
def writeDlog (s : State) (p : Nat) (v : W64) : State :=
  let s := modPS s p fun q => { q with dlog := BitVec.ofNat 64 (fld v 51 12 * 4096 + b2n (bitAt v 0)) }
  if bitAt v 0 then report s p else s

/-! ### PAR_STOP (R338) -/

/-- ADDR = 0: admission resumes; the saved teams can be restored. -/
def resumePart (s : State) (p : Nat) : State := modPS s p fun q => if q.stopping = 3 then q else { q with stopping := 0 }

/-- A stop: STOPPING, then soft requests to every running team. -/
def stopPart (s : State) (p : Nat) (v : W64) : State :=
  if fld v 51 3 = 0 then resumePart s p
  else if (getPart s p).sch.stopping = 1 ∨ (getPart s p).sch.stopping = 3 then s
  else
    let s := modPS s p fun q => { q with stop := BitVec.ofNat 64 (fld v 51 3 * 8), stopping := 1, anyKilled := false }
    let s := writePhys s p (fld v 51 3 * 8) 8 1
    askAll s fun t => t.info.part == p

/-- Nothing of the partition is on a core, and its operations without local sides have completed. -/
def quiet (s : State) (p : Nat) : Bool :=
  ((allTasks s).all fun t => t.info.part != p || (coreOf t).isNone)
    && s.sched.ops.all fun o => !runsAlone o || (findTask s o.owner).all fun t => t.info.part != p

/-- STOPPED: the last report, the status word, the event, the PF's interrupt. -/
def stopEnd (s : State) (p : Nat) : State :=
  let q := (getPart s p).sch
  if q.stopping ≠ 1 ∨ !quiet s p then s
  else
    let s := report s p
    let s := writePhys s p q.stop.toNat 8 (if q.anyKilled then 3 else 2)
    let s := raiseEvent s p 0x0021 2 0 0 0
    interruptFn (modPS s p fun q => { q with stopping := 2 }) 0

/-! ### The events -/

/-- A record is written (R318). -/
def execRingRecordWrite (ring : Nat) (s : State) : Host.Outcome State Fault Refusal := .next (writeRecord s ring)
/-- WEIGHT_0 (R316). -/
def execWeight0 (ring : Nat) (s : State) : Host.Outcome State Fault Refusal := .next (warnRing s ring)
/-- FLT_RESUME (R324). -/
def execFltResume (part : Nat) (v : W64) (s : State) : Host.Outcome State Fault Refusal := .next (resumeSlot s part v)
/-- FLT_RESUME with END (R324). -/
def execFltResumeEnd (part : Nat) (v : W64) (s : State) : Host.Outcome State Fault Refusal := .next (endSlot s part v)
/-- A write of FLT_RDROP (R317). -/
def execFltRdrop (ring : Nat) (s : State) : Host.Outcome State Fault Refusal :=
  .next (if ring < 65 then modRing s ring fun g => { g with drop := 0 } else s)
/-- SCH_PREEMPT (R388). -/
def execSchPreempt (part : Nat) (v : W64) (s : State) : Host.Outcome State Fault Refusal := .next (preempt s part v)
/-- SCH_CANCEL (R388). -/
def execSchCancel (part : Nat) (v : W64) (s : State) : Host.Outcome State Fault Refusal := .next (cancel s part v)
/-- An uncorrectable error in stored data (R244). -/
def execUncorrectableError (e : ErrAt) (s : State) : Host.Outcome State Fault Refusal := .next (errorAt s e)
/-- An uncorrectable error of a core (R160, R333). -/
def execMachineCheck (s : State) : Host.Outcome State Fault Refusal := .next (coreError s)
/-- An orderly reset (R336). -/
def execDierstOrderly (die : Nat) (s : State) : Host.Outcome State Fault Refusal := .next (orderly s die)
/-- A forced reset (R336). -/
def execDierstForced (die : Nat) (s : State) : Host.Outcome State Fault Refusal := .next (forced s die)
/-- A die reset ends (R336). -/
def execDieReset (s : State) : Host.Outcome State Fault Refusal := .next (resetEnd s)
/-- PAR_DLOG (R337). -/
def execParDlog (part : Nat) (v : W64) (s : State) : Host.Outcome State Fault Refusal := .next (writeDlog s part v)
/-- PAR_STOP (R338). -/
def execParStop (part : Nat) (v : W64) (s : State) : Host.Outcome State Fault Refusal := .next (stopPart s part v)
/-- PAR_STOP with ADDR = 0 (R338). -/
def execParStopResume (part : Nat) (s : State) : Host.Outcome State Fault Refusal := .next (resumePart s part)

end Sys2Proof.Machine
end

