-- ==== Sys2Proof/Machine/MemDev.lean ====
section
/-! DEFINITION. The registers of memory: heap, page tables and their invalidation, regions and epochs, way maps, HBM slots, and the power and link shares (R211, R212, R219, R232 to R243, R374, R381, R382). -/

namespace Sys2Proof.Machine

/-! ### Invalidations (R219, R228) -/

/-- A task's bound rows with a virtual row in a set go home and become EMPTY. -/
def flushRows (hit : Nat → Bool) (s : State) (uid : Nat) : State :=
  let s := focus s uid
  let here := fun (r : StashRow) => (vasOf r.src).any hit
  let rows := s.task.stashRows.filter here
  let s := (rows.filter StashRow.dirty).foldl writeHome s
  { s with task := emptyRows s.task here }

def tasksOf (s : State) (p : Nat) : List Nat := ((allTasks s).filter fun t => t.info.part == p).map Task.uid

/-- Every task of a partition, by number, in turn; the focus stays. -/
def eachTask (s : State) (p : Nat) (f : State → Nat → State) : State := focus ((tasksOf s p).foldl f s) s.task.uid

/-- The virtual addresses that the invalidation in progress covers. -/
def covers (v : W64) (va : Nat) : Bool :=
  bitAt v 63 || (let lo := fld v 56 12
                 let n := if fld v 11 1 = 0 then 2048 else fld v 11 1
                 decide (lo ≤ va / 4096) && decide (va / 4096 < lo + n))

/-- A TLB entry that covers such an address. -/
def entryHit (v : W64) (e : TlbEntry) : Bool :=
  bitAt v 63 || (let lo := fld v 56 12 * 4096
                 let hi := (fld v 56 12 + if fld v 11 1 = 0 then 2048 else fld v 11 1) * 4096
                 decide (e.vbase < hi) && decide (lo < e.vbase + e.size))

/-- An address that the invalidation or one of the entries it drops covers. -/
def vaHit (s : State) (p : Nat) (v : W64) (va : Nat) : Bool :=
  covers v va || s.side.tlb.any fun e => e.part == p && entryHit v e && decide (e.vbase ≤ va) && decide (va < e.vbase + e.size)

/-- The fields of PAR_TLBINV that a write sets. -/
def invMask : W64 := 0x81fffffffffffffe

/-- PAR_TLBINV of everything. -/
def invAll : W64 := 0x8000000000000000

def startInv (s : State) (p : Nat) (v : W64) : State :=
  modPM s p fun q => if q.tlbBusy then q else { q with tlbinv := v &&& invMask, tlbBusy := true }

/-- The operations of a task that an invalidation waits for: those of its queue, and those that its round holds back with their targets translated. -/
def invWaits (s : State) (hit : Nat → Bool) (uid : Nat) : Bool :=
  (findTask s uid).any fun t =>
    (t.memq.any fun e => (opVas e.kind).any hit) || t.spec.buf.any fun e => (opVas e.2.kind).any hit

/-- Contributions of the partition to a reduction pass that is still open, their target translated (R271). -/
def passWaits (s : State) (p : Nat) (hit : Nat → Bool) : Bool :=
  s.sched.contribs.any fun c => (vasOf c.tgt).any hit
    && ((s.sched.insts.find? fun i => i.id == c.inst).bind fun i => findLaunch s i.seqno).any fun l => l.lr.part == p

/-- Accesses of a partition, translated already, that are not complete. -/
def accWaits (s : State) (p : Nat) (hit : Nat → Bool) : Bool := (tasksOf s p).any (invWaits s hit) || passWaits s p hit

/-- Covered accesses complete, bound rows go home, translations are dropped, BUSY clears. -/
def endInv (s : State) (p : Nat) : State :=
  let v := (getPart s p).mem.tlbinv
  if !(getPart s p).mem.tlbBusy then s
  else
    let hit := vaHit s p v
    let s := eachTask s p fun s u => if invWaits s hit u then drainAll (focus s u) else s
    if accWaits s p hit then s
    else
      let s := eachTask s p (flushRows hit)
      let s := { s with side := { s.side with tlb := s.side.tlb.filter fun e => !(e.part == p && entryHit v e) } }
      modPM s p fun q => { q with tlbBusy := false }

/-- A write of PAR_PTROOT is an invalidation of everything. The spec has a write of PAR_TLBINV ignored while BUSY is 1 and does not say what a write of PAR_PTROOT does then; here the one in progress becomes one of everything (log 82). -/
def writeRoot (s : State) (p : Nat) (v : W64) : State :=
  modPM s p fun q => { q with
    ptroot := BitVec.ofNat 64 (fld v 51 13 * 2 ^ 13 + b2n (bitAt v 0)), tlbinv := invAll, tlbBusy := true }

/-! ### The heap (R211, R212) -/

/-- The staged range of n pieces of 2 MiB lies in device memory of the partition. -/
def rangeOwned (q : Part) (lo : Int) (n : Nat) : Bool :=
  n == 0 || (decide (0 ≤ lo) && decide (lo.toNat + n ≤ 2 ^ 18) && (List.range 256).all fun b =>
    !(decide (lo.toNat < (b + 1) * 1024) && decide (b * 1024 < lo.toNat + n)) || ownsPa q (b * 2 ^ 31))

def hattrMask : W64 := 0x3fff83

/-- The staged triple and a written PAR_HATTR are acceptable. -/
def heapOk (q : Part) (v : W64) : Bool :=
  let base := fld q.mem.hbaseSt 56 21
  let lim := fld q.mem.hlimSt 56 21
  let off := sgn 43 (fld q.mem.hoffSt 63 21)
  decide (base ≤ lim) && decide (lim * 2 ^ 21 ≤ 0x1ffffffffe00000) && rangeOwned q (base + off) (lim - base)
    && fld v 14 13 != 3 && decide (fld v 12 7 ≤ 5) && (base == lim || (fld v 21 15 != 0 && q.res.keys.contains (fld v 21 15)))

/-- A partition forgets its translations: accesses go on to completion, bound rows go home, TLBs are emptied; where an access is still under way, BUSY shows until it is done. -/
def forget (s : State) (p : Nat) : State :=
  let s := eachTask s p fun s u => drainAll (focus s u)
  let s := eachTask s p (flushRows fun _ => true)
  let s := { s with side := { s.side with tlb := s.side.tlb.filter fun e => e.part != p } }
  if accWaits s p fun _ => true then modPM s p fun q => { q with tlbinv := invAll, tlbBusy := true } else s

/-- A commit, accepted or refused: accesses issued from now on use the new triple, those issued before go on where they were translated to. -/
def commitHeap (s : State) (p : Nat) (v : W64) : State :=
  if heapOk (getPart s p) v then
    modPM (forget s p) p fun q => { q with hbase := q.hbaseSt, hlim := q.hlimSt, hoff := q.hoffSt, hattr := v &&& hattrMask, herr := false }
  else modPM s p fun q => { q with herr := true }

/-! ### Regions (R233 to R239) -/

/-- Blocks of a partition that are neither mirrored nor shadow blocks. -/
def plainBlocks (q : Part) : List Nat := q.res.blocks.filter fun b => !(q.res.pairs.any fun p => p.1 == b || p.2 == b)

/-- Accesses of a region in this epoch. -/
def accesses (r : RegionState) : Nat := r.accDie.sum

/-- The unpinned region of a partition on a stack that had the fewest accesses, the lowest of them: the device's choice among equals (log 31). -/
def partnerRegion (s : State) (q : Part) (stack not_ : Nat) : Option Nat :=
  ((plainBlocks q).flatMap regionsOf).foldl (fun (a : Option Nat) n =>
    let r := regionOf s n
    if r.home != stack || r.ppin || n == not_ then a
    else match a with
      | some m => if accesses r < accesses (regionOf s m) then some n else a
      | none => some n) none

/-- Replicas outside a region's degree are dropped (R233). -/
def dropReplicas (s : State) (n : Nat) : State :=
  let r := regionOf s n
  { s with side := { s.side with slices := s.side.slices.filter fun l =>
      !(l.row / 2 ^ 14 == n && l.die != r.home && !inDegree r.deg r.home l.die) } }

/-- No slice holds a line of a region, its home line too. -/
def dropLines (s : State) (n : Nat) : State :=
  { s with side := { s.side with slices := s.side.slices.filter fun l => l.row / 2 ^ 14 != n } }

def setDegree (s : State) (owner n deg : Nat) : State :=
  if (regionOf s n).deg = deg then s
  else
    let s := dropReplicas (modRegion s n fun r => { r with deg := deg, epochs := 0 }) n
    modPM s owner fun q => { q with degChange := q.degChange + 1 }

/-- The exchange of two regions begins: both are collapsed, and accesses to them wait. -/
def startExchange (s : State) (p a b : Nat) (byPlace : Bool) : State :=
  let s := collapseRegion (collapseRegion s p a) p b
  modPM s p fun q => { q with exchange := some (a, b, byPlace) }

/-- PAR_RGNSTAT of a region. -/
def rgnStat (r : RegionState) (st : Nat) : W64 :=
  BitVec.ofNat 64 (2 ^ 15 * b2n r.dpin + 2 ^ 14 * b2n r.ppin + 2 ^ 12 * (r.deg % 4) + 2 ^ 8 * (r.home % 8) + st)

def setRgnStat (s : State) (p n st : Nat) : State := modPM s p fun q => { q with rgnstat := rgnStat (regionOf s n) st }

/-- The exchange is done: the map is updated, degrees restart, lines of the old homes go; a PLACE pins. PAR_MIGRATE counts one migration for an exchange, which moves two regions: the spec leaves open which it counts. DESIGN CHOICE (log 82): the restart of the degrees is not a degree change, so it neither counts in PAR_DEG_CHANGE nor holds back the next four epochs' decisions. -/
def endExchange (s : State) (p : Nat) : State :=
  match (getPart s p).mem.exchange with
  | none => s
  | some (a, b, byPlace) =>
    let ha := (regionOf s a).home
    let hb := (regionOf s b).home
    let restart := fun (r : RegionState) => { r with deg := if r.dpin then r.deg else 0, epochs := 4 }
    let s := modRegion s a fun r => { restart r with home := hb, ppin := r.ppin || byPlace }
    let s := dropLines (dropLines (modRegion s b fun r => { restart r with home := ha }) a) b
    let s := modPM s ((ownerOf s (a * 2 ^ 21)).getD p) fun q => { q with migrate := q.migrate + 1 }
    let s := modPM s p fun q => { q with exchange := none }
    if byPlace then setRgnStat s p a 2 else s

/-- A region command in the page of partition p (R237), by the PF or by the partition's own function: refused, or done, or busy with an exchange. The PF may address any region; one that no partition owns has none to exchange with. -/
def rgnCmd (s : State) (p : Nat) (pf : Bool) (v : W64) : State :=
  let op := fld v 63 60
  let n := fld v 17 0
  let owner := ownerOf s (n * 2 ^ 21)
  let no := modPM s p fun q => { q with rgnstat := BitVec.ofNat 64 3 }
  if fld (getPart s p).mem.rgnstat 1 0 = 1 then s
  else if 5 ≤ op ∨ fld v 59 57 ≠ 0 ∨ fld v 51 18 ≠ 0 ∨ (!pf ∧ owner ≠ some p) then no
  else match op with
      | 0 => setRgnStat s p n 2
      | 1 =>
        let w := owner.getD p
        if !((plainBlocks (getPart s w)).contains (n / 1024)) then no
        else if (regionOf s n).home = fld v 56 54 then setRgnStat (modRegion s n fun r => { r with ppin := true }) p n 2
        else
          let s := endExchange (endExchange s w) p
          match partnerRegion s (getPart s w) (fld v 56 54) n with
          | some m => setRgnStat (startExchange s p n m true) p n 1
          | none => modPM s p fun q => { q with rgnstat := BitVec.ofNat 64 3 }
      | 2 => setRgnStat (modRegion s n fun r => { r with ppin := false }) p n 2
      | 3 => setRgnStat (setDegree (modRegion s n fun r => { r with dpin := true }) (owner.getD p) n (fld v 53 52)) p n 2
      | _ => setRgnStat (modRegion s n fun r => { r with dpin := false }) p n 2

/-- A write of PAR_RGNCMD with a given OP by a page's own function: in the page of partition 0 that is the PF. -/
def rgnOp (s : State) (p op : Nat) (v : W64) : State := if fld v 63 60 = op then rgnCmd s p (p == 0) v else s

/-- The degree rule of R236 for one region. -/
def newDegree (r : RegionState) : Nat :=
  if r.dpin || decide (r.epochs < 4) then r.deg
  else if r.deg < 3 ∧ 64 ≤ r.missr ∧ 16 * r.coll ≤ r.missr then r.deg + 1
  else if 0 < r.deg ∧ (4 * r.coll > r.hits ∨ r.hits + r.missr < 8) then r.deg - 1
  else r.deg

/-- The die that an unpinned region should move to (R239). -/
def moveTo (r : RegionState) : Option Nat :=
  (List.range 8).find? fun d => d != r.home && decide (512 ≤ accesses r) && decide (3 * accesses r ≤ 4 * nth r.accDie d 0)

/-- One partition's exchange at an epoch's end, if one is due (R239). DESIGN CHOICE (log 31): where several regions are due, the spec does not say which goes first; the first in the model's list of regions goes. -/
def epochMove (s : State) (p : Nat) : State :=
  let q := getPart s p
  if q.mem.exchange.isSome || s.sched.launches.any (fun l => l.lr.cls == 0 && l.lr.part == p && l.lr.hbmd != 0) then s
  else match s.side.regions.findSome? fun r =>
      if (plainBlocks q).contains (r.num / 1024) && !r.ppin then (moveTo r).bind fun d => (partnerRegion s q d r.num).map fun m => (r.num, m) else none with
    | some (a, b) => startExchange s p a b false
    | none => s

/-- An epoch of 64 µs has ended. -/
def epochStep (s : State) : State :=
  if s.clk.ftime / 64000 ≤ s.side.epoch then s
  else
    let nums := s.side.regions.map RegionState.num
    let s := (s.parts.map Part.id).foldl epochMove s
    let s := nums.foldl (fun s n =>
      let r := regionOf s n
      let d := newDegree r
      let s := modRegion s n fun r => { r with epochs := r.epochs + 1 }
      setDegree s ((ownerOf s (n * 2 ^ 21)).getD 0) n d) s
    let s := nums.foldl (fun s n => modRegion s n fun r => { r with hits := 0, missr := 0, coll := 0, accDie := List.replicate 9 0 }) s
    { s with side := { s.side with epoch := s.clk.ftime / 64000 } }

/-! ### Ways and HBM slots (R232, R240, R241) -/

/-- Byte k of a way map, its reserved bit 0. -/
def wayByte (v : BitVec 128) (k : Nat) : Nat := bitsOf v (8 * k) 8 / 128 * 128 + bitsOf v (8 * k) 6

def writeWays (s : State) (die : Nat) (v : BitVec 128) : State :=
  let l := (List.range 16).map (wayByte v)
  if die < 8 ∧ 2 ≤ (l.filter fun b => decide (b < 128)).length then
    { s with side := { s.side with ways := setNth s.side.ways die (BitVec.ofNat 128 (packN 8 l)) } }
  else s

/-- The class F slots of a partition on a staged table. -/
def fSlotsOf (t : List Byte) (p : Nat) : List Nat :=
  (List.range 64).filter fun j => let b := nth t j 0; bitAt b 7 && bitAt b 6 && fld b 5 0 == p

/-- 0, 2, 4, 8, 16 or 32 slots, evenly spaced. -/
def spaced (l : List Nat) : Bool := match l with
  | [] => true
  | j0 :: _ => [2, 4, 8, 16, 32].contains l.length && decide (j0 < 64 / l.length)
      && l == (List.range l.length).map fun k => j0 + k * (64 / l.length)

def slotsOk (s : State) (t : List Byte) : Bool :=
  (List.range 64).all (fun p => spaced (fSlotsOf t p))
    && t.all fun b => !bitAt b 7 || !(getPart s (fld b 5 0)).res.blocks.isEmpty

/-- A frame starts: best-effort caps and F flits count anew, staged tables are committed or refused (R241, R242, R374). -/
def hbmFrame (s : State) : State :=
  if s.clk.ftime / 1280 ≤ s.side.hbmFrame then s
  else
    let s := { s with
      side := { s.side with hbmFrame := s.clk.ftime / 1280 }
      parts := s.parts.map fun q => { q with mem := { q.mem with beRows := 0 }, res := { q.res with lnkF := List.replicate 40 0 } } }
    (List.range 8).foldl (fun s k =>
      if !nth s.side.hbmCommit k false then s
      else
        let t := nth s.side.hbmStaged k []
        let ok := slotsOk s t
        { s with side := { s.side with
          hbmActive := if ok then setNth s.side.hbmActive k t else s.side.hbmActive
          hbmErr := setNth s.side.hbmErr k (!ok), hbmCommit := setNth s.side.hbmCommit k false } }) s

def slotCommit (s : State) (k : Nat) : State :=
  if k < 8 then { s with side := { s.side with hbmCommit := setNth s.side.hbmCommit k true } } else s

/-! ### Power and links (R374, R381, R382, R403) -/

def issueOf (q : Part) : Nat := fld q.res.pwrToken 19 0
def fresOf (q : Part) : Nat := fld q.res.pwrToken 39 20
def balOf (q : Part) : Nat := fld q.res.pwrStat 19 0

/-- PWR_STAT. -/
def pwrStatOf (frz bal : Nat) : W64 := BitVec.ofNat 64 (frz % 2 ^ 32 * 2 ^ 32 + bal % 2 ^ 20)

/-- A partition's tokens for an interval: ISSUE, its part above FRES scaled by one common factor where the budget has fallen (R403, log 32). -/
def allot (s : State) (q : Part) : Nat :=
  let all := (s.parts.map issueOf).sum
  let f := (s.parts.map fresOf).sum
  if all ≤ s.boot.pwrBudget ∨ all ≤ f then issueOf q
  else fresOf q + (issueOf q - fresOf q) * (s.boot.pwrBudget - f) / (all - f)

/-- A 1 ms interval begins: what the meters left of the tokens is the new pool; throttled work goes on. -/
def powerStep (s : State) : State :=
  if s.clk.ftime / 1000000 ≤ s.boot.interval then s
  else
    let left := (s.parts.map fun q => Config.meter (64 * s.boot.interval + q.id) % (balOf q + 1)).sum
    { s with
      boot := { s.boot with pool := left, interval := s.clk.ftime / 1000000, poolWait := [] }
      parts := s.parts.map fun q => { q with res := { q.res with frozen := false, pwrStat := pwrStatOf (fld q.res.pwrStat 63 32) (allot s q) } } }

/-- Weight for drawing from the pool. -/
def drawWeight (q : Part) : Nat := fld q.res.pwrToken 47 40

/-- The partition that draws next, with the draws of its turn: weighted round-robin among those that wait, WEIGHT draws in a turn; one of WEIGHT 0 only when no other waits (R382, log 7). -/
def drawNext (s : State) : Option (Nat × Nat) :=
  let w := s.boot.poolWait
  let cur := s.boot.drawTurn / 256
  let done := s.boot.drawTurn % 256
  if w.contains cur && decide (done < drawWeight (getPart s cur)) then some (cur, done)
  else match ((List.range 64).map fun k => (cur + 1 + k) % 64).find? fun p => w.contains p && drawWeight (getPart s p) != 0 with
    | some p => some (p, 0)
    | none => w.head?.map fun p => (p, 0)

/-- What the meters say is left of a partition's tokens, never more than before: a free value below a bound (log 7). -/
def meterLeft (s : State) (most : Nat) : Nat := (Config.freeRow s.fresh).toNat % (most + 1)

/-- Nothing is left to draw: a partition's general work stands still until the next interval, counted once (R382). -/
def powerStop (s : State) (p : Nat) : State :=
  modPR s p fun r => { r with frozen := true, pwrStat := pwrStatOf (fld r.pwrStat 63 32 + b2n (!r.frozen)) (fld r.pwrStat 19 0) }

/-- A partition's own tokens for general work are spent: it waits to draw from the pool, or, with nothing left to draw, its general work stands still until the next interval. What class F has left of FRES is the meters' word (log 7). -/
def throttle (s : State) (p : Nat) : State :=
  let q := getPart s p
  let left := meterLeft s (min (balOf q) (fresOf q))
  let s := modPR { s with fresh := s.fresh + 1 } p fun r => { r with pwrStat := pwrStatOf (fld r.pwrStat 63 32) left }
  if s.boot.pool = 0 ∨ q.res.frozen then powerStop s p
  else { s with boot := { s.boot with poolWait := p :: s.boot.poolWait.filter (· != p) } }

/-- The partition in turn draws 16 tokens, or what the pool has; with nothing left to draw it stands still (R382). -/
def poolServe (s : State) : State := match drawNext s with
  | none => s
  | some (p, done) =>
    let got := min 16 s.boot.pool
    let s := { s with boot := { s.boot with
      pool := s.boot.pool - got, poolWait := s.boot.poolWait.filter (· != p), drawTurn := 256 * p + (done + 1) % 256 } }
    if got = 0 then powerStop s p
    else modPR s p fun r => { r with pwrStat := pwrStatOf (fld r.pwrStat 63 32) (fld r.pwrStat 19 0 + got) }

/-- The meters have charged a partition's activity so far (R381): PWR_STAT as a read finds it. -/
def meterNow (s : State) (p : Nat) : State :=
  let left := meterLeft s (balOf (getPart s p))
  modPR { s with fresh := s.fresh + 1 } p fun r => { r with pwrStat := pwrStatOf (fld r.pwrStat 63 32) left }

def tokenMask : W64 := 0xffffffffffff

def writeToken (s : State) (p : Nat) (v : W64) : State :=
  let others := ((s.parts.filter fun q => q.id != p).map issueOf).sum
  if fld v 39 20 ≤ fld v 19 0 ∧ others + fld v 19 0 ≤ s.boot.pwrBudget then modPR s p fun q => { q with pwrToken := v &&& tokenMask } else s

def vcwMask : W64 := 0xffff0000ffff

def writeVcw (s : State) (p port : Nat) (v : W64) : State :=
  let others := ((s.parts.filter fun q => q.id != p).map fun q => fld (nth q.res.lnk port 0) 47 32).sum
  if port < 40 ∧ others + fld v 47 32 ≤ 36000 then modPR s p fun q => { q with lnk := setNth q.lnk port (v &&& vcwMask) } else s

/-! ### The events -/

/-- PAR_HATTR (R212). -/
def execParHattr (part : Nat) (v : W64) (s : State) : Host.Outcome State Fault Refusal := .next (commitHeap s part v)
/-- PAR_PTROOT (R219). -/
def execParPtroot (part : Nat) (v : W64) (s : State) : Host.Outcome State Fault Refusal := .next (writeRoot s part v)
/-- PAR_TLBINV (R219). -/
def execParTlbinv (part : Nat) (v : W64) (s : State) : Host.Outcome State Fault Refusal := .next (startInv s part v)
/-- An invalidation ends (R219). -/
def execTlbinvDone (part : Nat) (s : State) : Host.Outcome State Fault Refusal := .next (endInv s part)
/-- PAR_RGNCMD, query (R237). -/
def execRgnQuery (part : Nat) (v : W64) (s : State) : Host.Outcome State Fault Refusal := .next (rgnOp s part 0 v)
/-- PAR_RGNCMD, PLACE (R237). -/
def execPlace (part : Nat) (v : W64) (s : State) : Host.Outcome State Fault Refusal := .next (rgnOp s part 1 v)
/-- PAR_RGNCMD, UNPLACE (R237). -/
def execUnplace (part : Nat) (v : W64) (s : State) : Host.Outcome State Fault Refusal := .next (rgnOp s part 2 v)
/-- PAR_RGNCMD, DEGPIN (R237). -/
def execDegpin (part : Nat) (v : W64) (s : State) : Host.Outcome State Fault Refusal := .next (rgnOp s part 3 v)
/-- PAR_RGNCMD, DEGUNPIN (R237). -/
def execDegunpin (part : Nat) (v : W64) (s : State) : Host.Outcome State Fault Refusal := .next (rgnOp s part 4 v)
/-- An epoch ends (R236, R239). -/
def execEpochEnd (s : State) : Host.Outcome State Fault Refusal := .next (epochStep s)
/-- PAR_WAYMAP (R232). -/
def execParWaymap (die : Nat) (v : BitVec 128) (s : State) : Host.Outcome State Fault Refusal := .next (writeWays s die v)
/-- HBM_SLOTCMT (R241). -/
def execHbmSlotcmt (stack : Nat) (s : State) : Host.Outcome State Fault Refusal := .next (slotCommit s stack)
/-- An HBM frame starts (R240, R241). -/
def execHbmFrameStart (s : State) : Host.Outcome State Fault Refusal := .next (hbmFrame s)
/-- A power interval begins (R381, R382). -/
def execPowerInterval (s : State) : Host.Outcome State Fault Refusal := .next (powerStep s)
/-- A partition is throttled (R382). -/
def execPowerThrottle (part : Nat) (s : State) : Host.Outcome State Fault Refusal := .next (throttle s part)
/-- PWR_TOKEN (R381). -/
def execPwrToken (part : Nat) (v : W64) (s : State) : Host.Outcome State Fault Refusal := .next (writeToken s part v)
/-- LNK_VCW (R374). -/
def execLnkVcw (part port : Nat) (v : W64) (s : State) : Host.Outcome State Fault Refusal := .next (writeVcw s part port v)
/-- A translation that took longer than one ck is complete (R35). -/
def execTranslationComplete (s : State) : Host.Outcome State Fault Refusal := .next (endStall s)
/-- A region exchange is complete (R239). -/
def execExchangeComplete (part : Nat) (s : State) : Host.Outcome State Fault Refusal := .next (endExchange s part)

end Sys2Proof.Machine
end

