-- ==== Sys2Proof/Machine/Partition.lean ====
section
/-! DEFINITION. Partitions: the commands of PAR_CMD, the block handshake and scrub, the function-level reset, inbound accesses (R375 to R380, R384, R417). -/

namespace Sys2Proof.Machine

/-! ### PAR_CMD (R378) -/

def setCmd (s : State) (reason st : Nat) : State := { s with boot := { s.boot with cmdstat := BitVec.ofNat 64 (2 ^ 8 * reason + st) } }

def cmdDone (s : State) : State := setCmd s 0 2
def cmdRefused (s : State) (reason : Nat) : State := setCmd s reason 3

def cmdPart (v : W64) : Nat := fld v 59 54
def cmdForce (v : W64) : Bool := bitAt v 53
def cmdType (v : W64) : Nat := fld v 47 40
def cmdInst (v : W64) : Nat := fld v 39 32
def cmdArg (v : W64) : Nat := fld v 31 0

/-- A compute die that the Mordant die has released (R402). -/
def released (s : State) (d : Nat) : Bool := fld s.boot.boot 1 0 == 2 || bitAt s.boot.boot (12 + d)

/-- Common to every command: nothing while busy; a wrong OP or a reserved field is refused with reason 3. -/
def parCmd (s : State) (op : Nat) (v : W64) (act : State → State) : State :=
  if fld s.boot.cmdstat 1 0 = 1 ∨ fld v 63 60 ≠ op then s
  else if op = 0 ∨ 8 ≤ op ∨ fld v 52 48 ≠ 0 then cmdRefused s 3
  else act s

/-- CREATE: the partition with its dependence counters and nothing else. -/
def createPart (s : State) (v : W64) : State :=
  let p := cmdPart v
  if (getPart s p).live then cmdRefused s 4 else cmdDone (modPart s p fun _ => Part.reset p true)

/-! ### Resources (R377) -/

/-- TOTAL and GRAIN of a resource, on one instance of its scope. -/
def totalOf (ty inst : Nat) : Option (Nat × Nat) := match ty with
  | 1 => if inst < 8 then some (8, 1) else none
  | 2 => if inst < 4 then some (8, 1) else none
  | 3 => if inst < 8 then some (16, 1) else none
  | 4 => if inst < 8 then some (32, 1) else none
  | 5 => if inst < 8 then some (64, 1) else none
  | 6 => if inst < 40 then some (36000, 1) else none
  | 7 => if inst < 2 then some (1024, 8) else none
  | 8 => if inst < 2 then some (8192, 1) else none
  | 9 => if inst < 1 then some (17500, 1) else none
  | 10 => if inst < 1 then some (63, 1) else none
  | 11 => if inst < 64 then some (8, 1) else none
  | 12 => if inst < 1 then some (262144, 4096) else none
  | 13 => if inst < 1 then some (127, 1) else none
  | 14 => if inst < 1 then some (256, 4) else none
  | _ => none

/-- A resource that GRANT and REVOKE of PAR_CMD take: the others have registers or commands of their own, and are refused as a bad field (R377, R378). -/
def grantOf (ty inst : Nat) : Option (Nat × Nat) :=
  if [3, 4, 5, 6, 9, 12, 13].contains ty then none else totalOf ty inst

/-- The dies that a resource's instance names are released: compute dies, and for Ethernet queues and sessions an I/O die (R377, R402). -/
def instReleased (s : State) (ty inst : Nat) : Bool := match ty with
  | 1 => released s inst
  | 2 => released s (2 * inst) && released s (2 * inst + 1)
  | 7 | 8 => fld s.boot.boot 1 0 == 2 || bitAt s.boot.boot (9 + inst)
  | 11 => released s (inst / 8)
  | _ => true

/-- A cluster that a partition holds, in either way, or has not left yet. -/
def clusterHeld (s : State) (c : Nat × Nat) : Bool := !inPool s c

/-- Clusters of a die that nobody holds; pairs of a mirror pair of which neither side is held. -/
def freeClusters (s : State) (die : Nat) : List Nat := (List.range 8).filter fun c => !clusterHeld s (die, c)
def freePairs (s : State) (pair : Nat) : List Nat :=
  (List.range 8).filter fun c => !clusterHeld s (2 * pair, c) && !clusterHeld s (2 * pair + 1, c)

/-- Nobody owns the block, and it is not on its way out. -/
def blockFree (s : State) (b : Nat) : Bool :=
  s.parts.all fun q => !q.res.blocks.contains b && !q.res.scrubbing.contains b && !q.res.going.contains b

/-- FREE of an instance (R376): what no partition holds. -/
def freeUnits (s : State) (ty inst : Nat) : Nat := match ty with
  | 1 => (freeClusters s inst).length
  | 2 => (freePairs s inst).length
  | 3 => ((List.range 16).filter fun w => decide (wayOf s inst w < 128)).length
  | 4 => ((List.range 32).filter fun k => blockFree s (32 * inst + k)).length
  | 5 => ((nth s.side.hbmActive inst []).filter fun b => !bitAt b 7).length
  | 6 => 36000 - (s.parts.map fun q => fld (nth q.res.lnk inst 0) 47 32).sum
  | 9 => 17500 - (s.parts.map issueOf).sum
  | 12 => 262144 - 4096 * (s.parts.filter Part.live).length
  | 13 => 127 - (s.parts.map fun q => q.res.keys.length).sum
  | _ => (totalOf ty inst).elim 0 fun t => t.1 - (s.parts.map fun q => heldUnits q ty inst).sum

/-- Units of a counted resource that a partition holds, set. -/
def setHeld (s : State) (p ty inst n : Nat) : State :=
  modPR s p fun q => { q with held := (ty, inst, n) :: q.held.filter fun h => !(h.1 == ty && h.2.1 == inst) }

/-- An F cluster pair granted now has its primary on the odd die: only where the even die is lost, since the primary is the one on the even die at grant (R366, log 34). -/
def oddServes (s : State) (pair : Nat) : Bool :=
  let p := pairAt s pair
  (p.state == 1 || p.state == 2) && p.roleOdd

/-- GRANT: free units, the lowest clusters first (log 34). -/
def grantRes (s : State) (v : W64) : State :=
  let p := cmdPart v
  let ty := cmdType v
  let inst := cmdInst v
  let n := cmdArg v
  match grantOf ty inst with
  | none => cmdRefused s 3
  | some (_, grain) =>
    if !(getPart s p).live || !instReleased s ty inst then cmdRefused s 4
    else if n % grain ≠ 0 then cmdRefused s 3
    else if freeUnits s ty inst < n then cmdRefused s 1
    else cmdDone (match ty with
      | 1 => modPR s p fun q => { q with genClusters := q.genClusters ++ ((freeClusters s inst).take n).map fun c => (inst, c) }
      | 2 =>
        let new := ((freePairs s inst).take n).map fun c => (inst, c)
        modPR s p fun q => { q with fPairs := q.fPairs ++ new, fOdd := if oddServes s inst then new ++ q.fOdd else q.fOdd }
      | _ => setHeld s p ty inst (heldUnits (getPart s p) ty inst + n))

/-- Clusters leave a partition when they are empty; their teams are asked, or killed under FORCE. -/
def takeClusters (s : State) (p : Nat) (l : List (Nat × Nat)) (force : Bool) : State :=
  let on := fun (t : Task) => t.info.part == p && (coreOf t).elim false fun c => l.contains (c.1, c.2.1)
  let s := modPR s p fun q => { q with
    genClusters := q.genClusters.filter fun c => !l.contains c
    fPairs := q.fPairs.filter fun c => !(l.contains (2 * c.1, c.2) || l.contains (2 * c.1 + 1, c.2))
    fOdd := q.fOdd.filter fun c => !(l.contains (2 * c.1, c.2) || l.contains (2 * c.1 + 1, c.2))
    leaving := l ++ q.leaving.filter fun c => !l.contains c }
  if force then killEach s (((allTasks s).filter on).map Task.uid)
  else askAll s on

/-- A class F launch is admitted on an F cluster pair. -/
def pairUsed (s : State) (p : Nat) (c : Nat × Nat) : Bool :=
  s.sched.launches.any fun l => l.lr.part == p && l.clusters.any fun x => x.1 / 2 == c.1 && x.2 == c.2

/-- Sessions of a partition on an I/O die. -/
def boundOn (s : State) (p io : Nat) : Nat := (s.ept.sessions.filter fun x => x.part == p && x.num / 8192 == io).length

/-- A counted resource with `left` units would still serve what is in use. -/
def stillServes (s : State) (p ty inst left : Nat) : Bool :=
  let q := getPart s p
  match ty with
  | 7 => !(q.res.ethOpen.any fun e => e.io == inst)
  | 8 => decide (boundOn s p inst ≤ left)
  | 10 => decide (1 ≤ left) || !bitAt (nth s.rings (p + 1) (Ring.reset 2)).cfg 0 || p == 0
  | 11 => decide (setsUsed s p (inst / 8, inst % 8) ≤ left)
  | _ => decide (4 ≤ left) || !(q.sch.queues.any fun x => x.en)

/-- REVOKE. -/
def revokeRes (s : State) (v : W64) : State :=
  let p := cmdPart v
  let ty := cmdType v
  let inst := cmdInst v
  let n := cmdArg v
  let q := getPart s p
  match grantOf ty inst with
  | none => cmdRefused s 3
  | some (_, grain) =>
    if !q.live || !instReleased s ty inst then cmdRefused s 4
    else if n % grain ≠ 0 then cmdRefused s 3
    else match ty with
      | 1 =>
        let mine := q.res.genClusters.filter fun c => c.1 == inst
        if mine.length < n then cmdRefused s 3 else cmdDone (takeClusters s p (mine.take n) (cmdForce v))
      | 2 =>
        let mine := q.res.fPairs.filter fun c => c.1 == inst
        let idle := mine.filter fun c => !pairUsed s p c
        if mine.length < n then cmdRefused s 3
        else if idle.length < n then cmdRefused s 2
        else cmdDone (takeClusters s p ((idle.take n).flatMap fun c => [(2 * c.1, c.2), (2 * c.1 + 1, c.2)]) false)
      | _ =>
        let h := heldUnits q ty inst
        if h < n then cmdRefused s 3
        else if stillServes s p ty inst (h - n) then cmdDone (setHeld s p ty inst (h - n)) else cmdRefused s 2

/-! ### Blocks (R379) -/

/-- PAR_BLKREQ. -/
def blkReq (kind b : Nat) : W64 := BitVec.ofNat 64 (2 ^ 63 + 2 ^ 8 * kind + b)

/-- A pending request to remove a block. -/
def removing (q : Part) : Bool := bitAt q.res.blkreq 63 && !bitAt q.res.blkreq 8

/-- BLKADD: a free block; the guest is told unless it has a removal to answer first (log 35). -/
def blockAdd (s : State) (v : W64) : State :=
  let p := cmdPart v
  let b := cmdArg v % 256
  if !(getPart s p).live || !released s (b / 32) then cmdRefused s 4
  else if !blockFree s b then cmdRefused s 1
  else cmdDone (modPR s p fun q => { q with
    blocks := q.blocks ++ [b], blkreq := if removing (getPart s p) then q.blkreq else blkReq 1 b })

/-- What the device itself still uses in a block: the heap's range, the frame pool, a ring, a dirty-log bitmap, a session's ring, a mirror pair. -/
def blockUsed (s : State) (p b : Nat) : Bool :=
  let q := getPart s p
  let meets := fun (lo hi : Nat) => decide (lo < (b + 1) * 2 ^ 31) && decide (b * 2 ^ 31 < hi)
  let ring := fun (r : Nat) => let g := ringAt s r; ringOn g && meets (g.base * 64) (g.base * 64 + 64 * ringSize g)
  (decide (heapLo q < heapHi q) && meets (heapPa q (heapLo q)) (heapPa q (heapLo q) + (heapHi q - heapLo q)))
    || (frameCount q != 0 && meets (slotPa q 0) (slotPa q (frameCount q)))
    || (List.range 65).any ring
    || (s.parts.any fun x => bitAt x.sch.dlog 0 && meets (fld x.sch.dlog 51 12 * 4096) (fld x.sch.dlog 51 12 * 4096 + x.res.blocks.length * 2 ^ 16))
    || (s.ept.sessions.any fun x => x.ringPa.any fun a => a / 2 ^ 31 == b)
    || (q.res.pairs.any fun x => x.1 == b || x.2 == b)

/-- Lines of a block leave every cache. -/
def collapseBlock (s : State) (p b : Nat) : State :=
  let lines := s.side.l1.filter fun l => l.row / 2 ^ 24 == b
  let s := lines.foldl (fun s l => writeBack s l none) s
  let s := { s with side := { s.side with
    l1 := s.side.l1.filter fun l => l.row / 2 ^ 24 != b
    slices := s.side.slices.filter fun l => l.row / 2 ^ 24 != b } }
  ((s.side.dir.filter fun e => e.row / 2 ^ 24 == b).map DirEntry.row).foldl (fun s r => collapse s p (homeDie s (r * 128)) r keepNone) s

/-- A target lies in a block. -/
def inBlock (b : Nat) (t : Target) : Bool := (rowsOf t ++ (match t with
  | .stash _ _ src => rowsOf src
  | _ => [])).any fun r => r / 2 ^ 24 == b

/-- An access of a partition, translated before a block left it, is still under way to it: queued, held back by a round, given to an open reduction pass, or in a bound row that has still to go home (R379, R417). -/
def blockBusy (s : State) (p b : Nat) : Bool :=
  ((allTasks s).any fun t => t.info.part == p
      && (((t.memq ++ t.spec.buf.map Prod.snd).any fun e => (opTargets t e.kind).any (inBlock b))
        || t.stashRows.any fun r => inBlock b r.src))
    || s.sched.contribs.any fun c => inBlock b c.tgt

/-- A block leaves: the whole partition is invalidated, the block's lines collapse, later accesses meet PROT, and the block waits for those under way before its scrub begins. -/
def blockLeave (s : State) (p b : Nat) : State :=
  let s := collapseBlock (forget s p) p b
  modPR s p fun q => { q with blocks := q.blocks.filter (· != b), going := b :: q.going }

/-- Nothing is under way to a block that has left any more: its scrub begins. -/
def blockGone (s : State) (p b : Nat) : State :=
  if !(getPart s p).res.going.contains b || blockBusy s p b then s
  else modPR (collapseBlock s p b) p fun q => { q with going := q.going.filter (· != b), scrubbing := b :: q.scrubbing }

/-- BLKREM: the guest is asked, or the block leaves at once under FORCE. -/
def blockRem (s : State) (v : W64) : State :=
  let p := cmdPart v
  let b := cmdArg v % 256
  let q := getPart s p
  if !q.live || !released s (b / 32) then cmdRefused s 4
  else if !q.res.blocks.contains b then cmdRefused s 3
  else if blockUsed s p b then cmdRefused s 2
  else if cmdForce v then cmdDone (blockLeave s p b)
  else if removing q ∧ q.res.blkreq ≠ blkReq 0 b then cmdRefused s 2
  else cmdDone (interruptFn (modPR s p fun q => { q with blkreq := blkReq 0 b }) p)

/-- PAR_BLKACK. -/
def blockAck (s : State) (p : Nat) (v : W64) : State :=
  let q := getPart s p
  let b := fld v 7 0
  if !bitAt q.res.blkreq 63 || fld q.res.blkreq 7 0 != b then s
  else
    let rem := removing q && q.res.blocks.contains b
    let s := modPR s p fun q => { q with blkreq := BitVec.ofNat 64 (fld q.blkreq 62 0) }
    if rem then blockLeave s p b else s

/-- Every row of a block becomes zero, and nothing of its past stays. -/
def scrub (s : State) (b : Nat) : State :=
  { s with
    mem := sclearRange s.mem (b * 2 ^ 31) ((b + 1) * 2 ^ 31)
    side := { s.side with
      poison := s.side.poison.filter fun r => r / 2 ^ 24 != b
      lost := s.side.lost.filter fun n => n / 1024 != b
      healed := s.side.healed.filter fun r => r / 2 ^ 24 != b
      keyed := s.side.keyed.filter fun e => e.1 / 2 ^ 24 != b
      regions := s.side.regions.filter fun r => r.num / 1024 != b } }

/-- A scrub ends: the block is free. -/
def scrubDone (s : State) (b : Nat) : State :=
  match s.parts.find? fun q => q.res.scrubbing.contains b with
  | some q => modPR (scrub s b) q.id fun r => { r with scrubbing := r.scrubbing.filter (· != b) }
  | none => s

/-- BLKPAIR: the shadow block becomes the copy of the block (R366). -/
def blockPair (s : State) (v : W64) : State :=
  let p := cmdPart v
  let b := cmdArg v % 256
  let sb := cmdArg v / 256 % 256
  let q := getPart s p
  let paired := fun (x : Nat) => q.res.pairs.any fun y => y.1 == x || y.2 == x
  if !q.live || !released s (b / 32) || !released s (sb / 32) then cmdRefused s 4
  else if !q.res.blocks.contains b || !q.res.blocks.contains sb || sb / 32 != partnerOf (b / 32) then cmdRefused s 3
  else if paired b || paired sb then cmdRefused s 2
  else
    let s := collapseBlock (collapseBlock s p b) p sb
    cmdDone (modPR (copyBlock s sb b) p fun q => { q with pairs := q.pairs ++ [(b, sb)] })

/-! ### The end of a partition's work (R378, R380) -/

/-- Every task of a partition is killed. -/
def killAll (s : State) (p : Nat) : State :=
  let s := { s with sched := { s.sched with launches := s.sched.launches.map fun l => if l.lr.part = p then { l with parent := none, parentDl := none } else l } }
  killEach s (((allTasks s).filter fun t => t.info.part == p && !isEnded t && t.place != .waiting).map Task.uid)

/-- Every open instance of a partition fails; teams that have not started never do. -/
def failAll (s : State) (p : Nat) : State :=
  let of := fun (i : Inst) => (findLaunch s i.seqno).any fun l => l.lr.part == p
  let ids := (s.sched.insts.filter of).map Inst.id
  let s := ids.foldl (fun s n => modInst s n fun i => { i with teamsLeft := [], tasksLeft := 0, failed := true }) s
  ids.foldl failInst s

/-- FLR (R380): tasks killed, queues, slots, units, frames and queued records freed; grants, blocks and bound sessions stay. A DESTROY that is busy goes on (R378). -/
def flr (s : State) (p : Nat) : State :=
  if p = 0 ∨ !(getPart s p).live then s
  else
    let s := killAll s p
    let s := { s with sched := { s.sched with launches := s.sched.launches.map fun l =>
      if l.lr.part = p then { l with cancelled := l.cancelled || l.lr.sess.isNone, msgs := [] } else l } }
    let s := failAll s p
    let s := ((s.sched.launches.filter fun l => l.lr.part == p).map fun l => l.lr.seqno).foldl retire s
    let s := modPS s p fun q => { q with
      queues := q.queues.map fun x => { x with head := x.tail, wait := none }, slotsUsed := [], stopping := if q.stopping = 3 then 3 else 0, bound := q.bound.filter fun b =>
        s.sched.launches.any fun l => l.lr.seqno == b.2 }
    { s with
      rings := s.rings.map fun g => { g with waiting := g.waiting.filter fun x => bitsOf x.words 64 6 != p }
      ept := { s.ept with
        sessions := s.ept.sessions.map fun x => if x.part = p then { x with slots := [] } else x } }

/-- A slot table without a partition's slots. -/
def unslot (p : Nat) (t : List Byte) : List Byte := t.map fun b => if bitAt b 7 && fld b 5 0 == p then 0 else b

/-- A destroyed partition: everything it held is free, ways, slots and its ring among them, and its blocks are scrubbed. -/
def teardown (s : State) (p : Nat) : State :=
  let s := failAll (killAll s p) p
  let q := getPart s p
  let blocks := q.res.blocks ++ q.res.scrubbing ++ q.res.going
  let s := { s with
    sched := { s.sched with
      launches := s.sched.launches.filter fun l => l.lr.part != p
      insts := s.sched.insts.filter fun i => (findLaunch s i.seqno).all fun l => l.lr.part != p }
    others := s.others.filter fun t => t.info.part != p || t.place == .waiting
    ept := { s.ept with sessions := s.ept.sessions.filter fun x => x.part != p }
    boot := { s.boot with keys := s.boot.keys.filter fun k => k.2 != p }
    side := { s.side with
      tlb := s.side.tlb.filter fun e => e.part != p
      ways := s.side.ways.map fun v => BitVec.ofNat 128 (packN 8 ((List.range 16).map fun w =>
        let b := bitsOf v (8 * w) 8
        if b / 128 = 1 ∧ b % 64 = p then 0 else b))
      hbmActive := s.side.hbmActive.map (unslot p)
      hbmStaged := s.side.hbmStaged.map (unslot p) }
    rings := setNth s.rings (p + 1) (Ring.reset (p + 1)) }
  let s := blocks.foldl (fun s b => scrub (collapseBlock s p b) b) s
  modPart s p fun _ => Part.reset p false

/-- DESTROY: the partition stops first, with no status word; the PF's partition stays. -/
def destroyPart (s : State) (v : W64) : State :=
  let p := cmdPart v
  if p = 0 then cmdRefused s 3
  else if !(getPart s p).live then cmdRefused s 4
  else
    let s := modPS s p fun q => { q with stopping := 3 }
    setCmd (askAll s fun t => t.info.part == p) 0 1

/-- The last step of a destroy, once the partition is quiet. -/
def destroyEnd (s : State) (p : Nat) : State :=
  if (getPart s p).sch.stopping = 3 ∧ quiet s p then cmdDone (teardown s p) else s

/-! ### Inbound accesses (R384) -/

/-- The bytes of an inbound access: their addresses, where every one of them may be reached. -/
def inboundAddr (s : State) (p off n : Nat) : Option Nat :=
  let q := getPart s p
  let pa := fld q.mem.inbase 36 18 * 2 ^ 21 + off
  let ok := q.live && q.res.keys.contains (fld q.mem.inbase 6 0) && decide (off + n ≤ 2 ^ 36)
    && (List.range (n / 2 ^ 31 + 2)).all fun k => let a := min (pa + k * 2 ^ 31) (pa + (n - 1)); isDevice a && ownsPa q a
  if ok then some pa else none

/-- The requester of an inbound access: a function of that partition, reaching the device at an I/O die (R373, R384). -/
def inRq (r : InReq) : Rq := { rqDevice r.part with die := 8 + r.io % 2 }

/-- A read: coherent data, or a completer abort. -/
def inRead (s : State) (q : Rq) (off n : Nat) : State :=
  let p := q.part
  let answer := fun (c : Completion) => { s with boot := { s.boot with inbound := s.boot.inbound ++ [c] } }
  match inboundAddr s p off n with
  | none => answer { part := p, data := [], abort := true, poisoned := false }
  | some pa =>
    let rows := ((List.range n).map fun k => (pa + k) / 128).eraseDups
    let s := rows.foldl (fun s r => fetchRow s q 2 r) s
    let answer := fun (c : Completion) => { s with boot := { s.boot with inbound := s.boot.inbound ++ [c] } }
    answer { part := p, data := (List.range n).map fun k => BitVec.ofNat 8 (byteAt (cohMem s ((pa + k) / 128)) (pa + k))
             abort := false, poisoned := rows.any (poisonedRow s) }

/-- A write, row by row: it collapses replicas; a refused write is dropped and counted. -/
def inWrite (s : State) (q : Rq) (off : Nat) (data : List Byte) : State :=
  let p := q.part
  if data.isEmpty then s
  else match inboundAddr s p off data.length with
  | none => modPM s p fun q => { q with indrop := q.indrop + 1 }
  | some pa =>
    let rows := ((List.range data.length).map fun k => (pa + k) / 128).eraseDups
    rows.foldl (fun s r =>
      let mine := (List.range data.length).filter fun k => (pa + k) / 128 == r
      let s := collapseFor s q [r]
      let s := if mine.length = 128 then clearPoison s [r] else s
      writeDev s none (r * 128) 128 fun m => mine.foldl (fun m k => sset m (pa + k) (nth data k 0)) m) s

/-- Rows of an inbound access that it cannot have now. -/
def inWaits (s : State) (r : InReq) : Bool := match inboundAddr s r.part r.off r.len with
  | none => false
  | some pa => (List.range ((pa + r.len - 1) / 128 + 1 - pa / 128)).any fun k => heldRow s (inRq r) (pa / 128 + k)

/-- Traffic of a partition that has a bound stream is refused outside it: `via` is the port and the stream that it came on (R383). -/
def streamOk (s : State) (p : Nat) (via : Option (Nat × Nat)) : Bool :=
  let l := (getPart s p).res.ide
  l.isEmpty || via.any l.contains

def inNow (s : State) (r : InReq) : State := match r.data with
  | none => inRead s (inRq r) r.off r.len
  | some d => inWrite s (inRq r) r.off d

/-- Two accesses of one requester that reach one I/O die: the later is served after the earlier (R412). -/
def inLine (a b : InReq) : Bool := a.req == b.req && a.io == b.io

/-- An inbound access: nothing where its I/O die has not been released (R398); refused outside the partition's streams as one outside its blocks is (log 50); one whose rows it cannot have yet waits, and those of its requester behind it, whatever their partition. -/
def inbound (s : State) (r : InReq) (via : Option (Nat × Nat)) : State :=
  if !bitAt s.boot.boot (9 + r.io % 2) then s
  else if !streamOk s r.part via then
    match r.data with
    | none => { s with boot := { s.boot with inbound := s.boot.inbound ++ [{ part := r.part, data := [], abort := true, poisoned := false }] } }
    | some d => if d.isEmpty then s else modPM s r.part fun q => { q with indrop := q.indrop + 1 }
  else if s.boot.inq.any (inLine r) || inWaits s r then
    { s with boot := { s.boot with inq := s.boot.inq ++ [r] } }
  else inNow s r

/-- The oldest inbound access of some requester can go on. -/
def inNext (s : State) : State :=
  match s.boot.inq.find? fun r => s.boot.inq.find? (inLine r) == some r && !inWaits s r with
  | some r => inNow { s with boot := { s.boot with inq := s.boot.inq.erase r } } r
  | none => s

/-! ### The events -/

/-- CREATE (R378). -/
def execCreate (v : W64) (s : State) : Host.Outcome State Fault Refusal := .next (parCmd s 1 v fun s => createPart s v)
/-- DESTROY (R378). -/
def execDestroy (v : W64) (s : State) : Host.Outcome State Fault Refusal := .next (parCmd s 2 v fun s => destroyPart s v)
/-- GRANT (R378). -/
def execGrant (v : W64) (s : State) : Host.Outcome State Fault Refusal := .next (parCmd s 3 v fun s => grantRes s v)
/-- REVOKE (R378). -/
def execRevoke (v : W64) (s : State) : Host.Outcome State Fault Refusal := .next (parCmd s 4 v fun s => revokeRes s v)
/-- BLKADD (R379). -/
def execBlkadd (v : W64) (s : State) : Host.Outcome State Fault Refusal := .next (parCmd s 5 v fun s => blockAdd s v)
/-- BLKREM (R379). -/
def execBlkrem (v : W64) (s : State) : Host.Outcome State Fault Refusal := .next (parCmd s 6 v fun s => blockRem s v)
/-- BLKPAIR (R378). -/
def execBlkpair (v : W64) (s : State) : Host.Outcome State Fault Refusal := .next (parCmd s 7 v fun s => blockPair s v)
/-- STOPPED, or the end of a destroy (R338, R378). -/
def execStopped (part : Nat) (s : State) : Host.Outcome State Fault Refusal := .next (destroyEnd (stopEnd s part) part)
/-- PAR_BLKACK (R379). -/
def execParBlkack (part : Nat) (v : W64) (s : State) : Host.Outcome State Fault Refusal := .next (blockAck s part v)
/-- A scrub ends (R379). -/
def execBlockScrubDone (block : Nat) (s : State) : Host.Outcome State Fault Refusal := .next (scrubDone s block)
/-- A function-level reset (R380). -/
def execFunctionLevelReset (vf : Nat) (s : State) : Host.Outcome State Fault Refusal := .next (flr s vf)
/-- An inbound read (R384). -/
def execInboundRead (who : Traffic) (off : Nat) (len : Nat) (s : State) : Host.Outcome State Fault Refusal :=
  .next (inbound s { part := who.part, req := who.req, io := who.io, off := off, len := len, data := none } who.via)
/-- An inbound write (R384). -/
def execInboundWrite (who : Traffic) (off : Nat) (data : List Byte) (s : State) : Host.Outcome State Fault Refusal :=
  .next (inbound s { part := who.part, req := who.req, io := who.io, off := off, len := data.length, data := some data } who.via)

end Sys2Proof.Machine
end

