-- ==== Sys2Proof/Machine/Endpoint.lean ====
section
/-! DEFINITION. The Ultra Ethernet endpoint: sessions, ingress messages, chunks on the wire, Ethernet queues, the fleet-time servo, collective packets (R389 to R397). -/

namespace Sys2Proof.Machine

/-! ### Sessions (R392, R393) -/

/-- Fields of a session image. -/
def imgValid (x : BitVec 512) : Bool := bitAt x 0
def imgHold (x : BitVec 512) : Bool := bitAt x 1
def imgRing (x : BitVec 512) : Nat := bitsOf x 64 64
def imgPeer (x : BitVec 512) : Nat := bitsOf x 128 57
def imgRec (x : BitVec 512) : Nat := bitsOf x 192 64
def imgRrec (x : BitVec 512) : Nat := bitsOf x 256 64
def imgSlack (x : BitVec 512) : Nat := bitsOf x 320 64

/-- Reserved fields of the image, and a slot count beyond 10 (log 88). -/
def imgBad (x : BitVec 512) : Bool :=
  bitsOf x 4 28 != 0 || bitsOf x (32 + 24) 8 != 0 || bitsOf x (64 + 4) 8 != 0 || decide (10 < bitsOf x 64 4)

/-- Physical addresses of the ring's slots, as the binding captures them; packed pages and the I/O window hold no ring (log 88). -/
def ringSlots (s : State) (p base : Nat) : Nat → Option (List Nat)
  | 0 => some []
  | n + 1 => match ringSlots s p base n, translate s p accEngWrite ((base + n * 4096) % 2 ^ 57) with
    | some l, .ok (_, .glob _ pa _ fmt _ _) => if (packedOf fmt).isSome then none else some (l ++ [pa])
    | _, _ => none

/-- The rows of a peer record of 32 bytes, as the binding captures their translation. -/
def peerRows (s : State) (p va : Nat) : List Target :=
  (List.range ((va % 128 + 159) / 128)).filterMap fun k => match translate s p accData ((va / 128 * 128 + 128 * k) % 2 ^ 57) with
    | .ok (_, t) => some t
    | .error _ => none

/-- A row that the partition still owns; a page of the I/O window is no block (R6). -/
def stillOwned (s : State) (p : Nat) : Target → Bool
  | .glob va pa coh fmt base bad => (rowsOf (.glob va pa coh fmt base bad)).all fun r => ownerOf s (r * 128) == some p
  | _ => true

/-- IPv6 address and UDP port of a session's peer: bytes 0 to 17 of the record as it stands when a chunk leaves; a row of it that the partition no longer owns gives an undefined value (R6, R393; log 94). -/
def peerDest (s : State) (x : Session) : State × BitVec 144 :=
  let (s, rows) := x.peer.foldl (fun (s, l) t =>
    if stillOwned s x.part t then let (s, r, _) := devRead s (rqDevice x.part) (partVer1 s x.part) t; (s, l ++ [r.toNat])
    else ({ s with fresh := s.fresh + 1 }, l ++ [(Config.freeRow s.fresh).toNat])) (s, [])
  (s, BitVec.ofNat 144 (packN 1024 rows / 2 ^ (8 * x.peerOff)))

/-- What a record of a session brought. -/
structure SessRec where
  lr : Launch
  raw : Nat
  img : Images
  clusters : List (Nat × Nat)
  deriving DecidableEq, Repr

/-- A record read and judged for a session: of class F or S for actions, of class S for reasoning. -/
def sessRecord (s : State) (p n a : Nat) (reason : Bool) : Except Nat SessRec :=
  let ra := a % 2 ^ 57 / 256 * 256
  match readImg s p ra 256 with
  | .error _ => .error stBadrec
  | .ok raw =>
    let lr := parseLaunch ra raw
    if lr.sess ≠ some n ∨ lr.part ≠ p ∨ 2 ≤ lr.cls ∨ (reason ∧ lr.cls ≠ 1) then .error stBadrec
    else match judge s p lr raw with
      | .refuse st _ => .error st
      | .takes img c => .ok { lr := lr, raw := raw, img := img, clusters := c }

def sessStat (s : State) (p reason st : Nat) : State := modPR s p fun q => { q with sessstat := BitVec.ofNat 64 (2 ^ 8 * reason + st) }

/-- A session record admitted: its launch, with a unit where it is of class S. -/
def admitSess (s : State) (p : Nat) (r : SessRec) : State × Nat :=
  let l := newLaunch s p r.lr r.img r.clusters
  let who := headMark 64 0
  admitLaunch (submitRec s l r.raw who) l who (if r.lr.cls = 0 then .none else .own)

/-- The records of a refused binding, as far as they were read: submitted and refused (R180). -/
def refuseRecs (s : State) (p st : Nat) (l : List Nat) : State :=
  (l.map fun a => a % 2 ^ 57 / 256 * 256).foldl (fun s a => writeStatus (writeStatus s p a 0 0 0) p a 0 st 4) s

/-- Units free for a number of class S records of one quota class. -/
def unitsFor (s : State) (p : Nat) (l : List SessRec) : Bool :=
  (l.filter fun r => r.lr.cls == 1).all fun r =>
    let q := (getPart s p).sch
    let need := (l.filter fun x => x.lr.cls == 1 && x.lr.qcls == r.lr.qcls).length
    decide (nth q.unitsHeld r.lr.qcls 0 + need ≤ fld (nth q.quota r.lr.qcls 0) 15 0)

/-- BIND (R393): accepted or refused as a whole; in phase 0 no session is bound (R402, log 94). -/
def bindSession (s : State) (p n : Nat) : State :=
  let q := getPart s p
  let no := fun (st : Nat) => sessStat s p st 3
  if fld s.boot.boot 1 0 = 0 then no stNoadmit
  else if s.ept.sessions.any (fun x => x.num == n) || decide (heldUnits q 8 (n / 8192) ≤ boundOn s p (n / 8192)) then no stBusy
  else match readImg s p (fld q.res.sessaddr 56 6 * 64) 64 with
    | .error _ => no stBadrec
    | .ok raw =>
      let x := BitVec.ofNat 512 raw
      if imgBad x then no stBadrec
      else match ringSlots s p (imgRing x % 2 ^ 57 / 4096 * 4096) (2 ^ (imgRing x % 16)), readImg s p (imgPeer x) 32 with
        | some slots, .ok peer =>
          if rf peer 18 14 ≠ 0 then no stBadrec
          else
          let captured := peerRows s p (imgPeer x)
          let read := imgRec x :: if imgRrec x = 0 then [] else [imgRrec x]
          let no := fun (st : Nat) => sessStat (refuseRecs s p st read) p st 3
          match sessRecord s p n (imgRec x) false with
            | .error st => no st
            | .ok r =>
              let rest : Except Nat (List SessRec) :=
                if imgRrec x = 0 then .ok [] else (sessRecord s p n (imgRrec x) true).map fun y => [y]
              match rest with
              | .error st => no st
              | .ok l =>
                if l.any fun y => y.lr.dwait.isSome && y.lr.dwait == r.lr.dwait then no stBusy
                else if !unitsFor s p (r :: l) then no stQuota
                else
                  let (s, seq) := admitSess s p r
                  let (s, rseq) := match l with
                    | y :: _ => let (s, k) := admitSess s p y; (s, some k)
                    | [] => (s, none)
                  sessStat { s with ept := { s.ept with sessions := s.ept.sessions ++
                    [{ num := n, part := p, image := BitVec.ofNat 512 (raw % 2 ^ 384), lv := false, last := 0, rv := false, rxseq := 0
                       ringPa := slots, peer := captured, peerOff := imgPeer x % 128, slots := [], nextSlot := 0, recSeq := seq, reasonSeq := rseq, closing := false }] } } p 0 2
        | _, _ => no stBadrec

/-- UNBIND: releases stop; the session goes when its instances have ended. A number that the function has not bound is refused (log 88). -/
def unbindSession (s : State) (p n : Nat) : State :=
  match s.ept.sessions.find? fun x => x.num == n && x.part == p with
  | none => sessStat s p stBadrec 3
  | some x =>
    let seqs := x.recSeq :: x.reasonSeq.toList
    let waiting := ((s.sched.launches.filter fun l => seqs.contains l.lr.seqno).flatMap LaunchState.msgs).map fun m => m.2.1
    let s := { s with
      sched := { s.sched with launches := s.sched.launches.map fun l => if seqs.contains l.lr.seqno then { l with cancelled := true, msgs := [] } else l }
      ept := { s.ept with sessions := s.ept.sessions.map fun y =>
        if y.num = n ∧ y.part = p then { y with closing := true, slots := y.slots.filter fun a => !waiting.contains a } else y } }
    sweepSessions (seqs.foldl retire (sessStat s p 0 1))

/-- The image with its D fields (R392). -/
def imageOut (x : Session) : Nat :=
  x.image.toNat + (x.rxseq.toNat + 2 ^ 32 * b2n x.rv) * 2 ^ 384 + (x.last.toNat + 2 ^ 32 * b2n x.lv) * 2 ^ 448

/-- READ. -/
def readSession (s : State) (p n : Nat) : State :=
  let a := fld (getPart s p).res.sessaddr 56 6 * 64
  match s.ept.sessions.find? fun x => x.num == n && x.part == p, translate s p accEngWrite a with
  | some x, .ok _ => sessStat (writeVirt s p a 64 (imageOut x)) p 0 2
  | _, _ => sessStat s p stBadrec 3

/-- What a command must reach in memory cannot be had now: the image; for BIND also what it names. -/
def sessBlocked (s : State) (p op : Nat) : Bool :=
  let a := fld (getPart s p).res.sessaddr 56 6 * 64
  if op = 1 then
    virtWaits s p accData a 64 || (match readImg s p a 64 with
      | .error _ => false
      | .ok raw =>
        let x := BitVec.ofNat 512 raw
        virtWaits s p accData (imgPeer x) 32
          || (imgRec x :: if imgRrec x = 0 then [] else [imgRrec x]).any fun r => recordWaits s p (r % 2 ^ 57 / 256 * 256) none)
  else op == 3 && virtWaits s p accEngWrite a 64

/-- A write of EPT_SESSCMD with a given OP; nothing while busy; a reserved field refuses, with no reason (log 88). A command whose rows it cannot have yet is busy with them. -/
def sessCmd (s : State) (p op : Nat) (v : W64) (act : State → Nat → Nat → State) : State :=
  if fld (getPart s p).res.sessstat 1 0 = 1 ∨ fld v 63 62 ≠ op then s
  else if fld v 61 14 ≠ 0 then sessStat s p 0 3
  else if sessBlocked s p op then modPR (sessStat s p 0 1) p fun q => { q with sessWait := some v }
  else act s p (fld v 13 0)

/-- A write of EPT_SESSCMD by its OP. -/
def writeSessCmd (s : State) (p : Nat) (v : W64) : State := match fld v 63 62 with
  | 1 => sessCmd s p 1 v bindSession
  | 2 => sessCmd s p 2 v unbindSession
  | 3 => sessCmd s p 3 v readSession
  | _ => s

/-- A command that waits for rows is tried again. -/
def sessRetry (s : State) (p : Nat) : State :=
  match (getPart s p).res.sessWait with
  | some v => if sessBlocked s p (fld v 63 62) then s
    else writeSessCmd (modPR (sessStat s p 0 0) p fun q => { q with sessWait := none }) p v
  | none => s

/-! ### Ingress (R394, R395) -/

/-- The I/O die that carries a session is up. -/
def ioUp (s : State) (n : Nat) : Bool := if n < 8192 then bitAt s.boot.boot 9 else bitAt s.boot.boot 10

def sendWire (s : State) (m : WireMsg) : State := { s with ept := { s.ept with wire := s.ept.wire ++ [m] } }

/-- (a − b) mod 2^32 is 0 or at least 2^31: not newer. -/
def notNewer (a b : BitVec 32) : Bool := let d := (a - b).toNat; d == 0 || decide (2 ^ 31 ≤ d)

/-- Row 0 of a slot. -/
def slotHead (n : Nat) (strm : Bool) (seq : BitVec 32) (txts : W64) (len now : Nat) : Nat :=
  seq.toNat + 2 ^ 32 * (n % 2 ^ 14 + 2 ^ 15 * b2n strm) + 2 ^ 48 * len + 2 ^ 64 * (now % 2 ^ 64) + 2 ^ 128 * txts.toNat

/-- 4 KiB of a slot: the head row, the payload from row 1, zeros. Where the block of the slot has left the partition nothing is written: the breach alters no other partition's memory (R6, R393). -/
def writeSlot (s : State) (p pa head : Nat) (payload : List Byte) : State :=
  let rows := (List.range 32).map fun k => pa / 128 + k
  if ownerOf s pa ≠ some p then s
  else
  let s := collapseFor s (rqDevice p) rows
  let put := fun (m : List Host.Cell) =>
    let m := writeN (sclearRange m pa (pa + 4096)) pa 128 head
    (List.range payload.length).foldl (fun m k => sset m (pa + 128 + k) (nth payload k 0)) m
  writeRows (clearPoison s rows) none rows put

/-- A session changed. -/
def modSession (s : State) (n p : Nat) (f : Session → Session) : State :=
  { s with ept := { s.ept with sessions := s.ept.sessions.map fun x => if x.num = n ∧ x.part = p then f x else x } }

/-- The endpoint handles a message that arrived at ftime `at_`, which its instance's release takes (R190, R394); in phase 0 every message is answered with HOLD (R402). A session that is being unbound answers as an unbound one (log 88). -/
def handleMsg (s : State) (m : RxMsg) : State :=
  let n := m.sess
  let strm := m.strm
  let seq := m.seq
  let payload := m.payload
  let hold := sendWire s { sess := n, seq := seq, hold := true, deadline := 0, acts := 0, dest := m.src }
  if !ioUp s n then s
  else if fld s.boot.boot 1 0 = 0 then hold
  else match s.ept.sessions.find? fun x => x.num == n && imgValid x.image && !x.closing with
  | none => hold
  | some x =>
    if imgHold x.image then hold
    else if x.rv ∧ notNewer seq x.rxseq then modPR s x.part fun q => { q with rxdup := q.rxdup + 1 }
    else
      let pa := nth x.ringPa x.nextSlot 0
      let dst := if strm then x.reasonSeq else some x.recSeq
      match dst with
      | none => modPR s x.part fun q => { q with rxdrop := q.rxdrop + 1 }
      | some dst =>
        if decide (3968 < payload.length) || x.slots.contains pa then modPR s x.part fun q => { q with rxdrop := q.rxdrop + 1 }
        else
          let s := writeSlot s x.part pa (slotHead n strm seq m.txts payload.length m.at_) payload
          let s := modSession s n x.part fun x => { x with
            rv := true, rxseq := seq, slots := x.slots ++ [pa], nextSlot := (x.nextSlot + 1) % x.ringPa.length }
          modLaunch s dst fun l => { l with msgs := l.msgs ++ [(m.at_, pa, payload.length)] }

/-- A message's slot cannot be written now, or an earlier message of its session waits. -/
def msgWaits (s : State) (m : RxMsg) (before : List RxMsg) : Bool :=
  (before.any fun x => x.sess == m.sess)
    || ((s.ept.sessions.find? fun x => x.num == m.sess).any fun x => physWaits s (nth x.ringPa x.nextSlot 0) 4096)

/-- A message arrives. -/
def ingress (s : State) (m : RxMsg) : State :=
  if msgWaits s m s.ept.rxWait then { s with ept := { s.ept with rxWait := s.ept.rxWait ++ [m] } } else handleMsg s m

/-- The oldest message that waits is handled, once it can be. -/
def ingressRetry (s : State) : State :=
  match s.ept.rxWait with
  | m :: rest => if msgWaits s m [] then s else handleMsg { s with ept := { s.ept with rxWait := rest } } m
  | [] => s

/-- A row of the released message reaches the core of the focus task (R395). -/
def rowArrives (s : State) : State :=
  if s.task.info.msgSlot.isSome && decide (s.task.time.rxReady < 32) then
    endStall { s with task := { s.task with time := { s.task.time with rxReady := s.task.time.rxReady + 1 } } }
  else s

/-! ### Egress (R396, R397) -/

/-- The oldest chunk of the core's egress buffer leaves for the endpoint. -/
def chunkOut (s : State) : State :=
  match s.task.egress with
  | [] => s
  | c :: rest => endStall { s with task := { s.task with egress := rest }, ept := { s.ept with egressQ := s.ept.egressQ ++ [c] } }

/-- The first chunk of a session taken from the egress queues. -/
def takeChunk (n : Nat) : List (Nat × Nat × Nat × Row) → Option ((Nat × Nat × Nat × Row) × List (Nat × Nat × Nat × Row))
  | [] => none
  | c :: t => if c.1 = n then some (c, t) else (takeChunk n t).map fun r => (r.1, c :: r.2)

/-- The peer record's rows cannot be had now. -/
def peerWaits (s : State) (n : Nat) : Bool := (s.ept.sessions.find? fun x => x.num == n).any fun x => x.peer.any (tgtWaits s (rqDevice x.part))

/-- The endpoint's verdict on a chunk whose first bit would leave at `at_` (R397). A session that has been unbound sends nothing (log 36). -/
def egress (s : State) (n at_ : Nat) : State :=
  match takeChunk n s.ept.egressQ with
  | none => s
  | some ((_, q, dl, row), rest) =>
    if peerWaits s n then s
    else
    let s := { s with ept := { s.ept with egressQ := rest } }
    match s.ept.sessions.find? fun x => x.num == n with
    | none => s
    | some x =>
      let seq := BitVec.ofNat 32 q
      if x.lv ∧ notNewer seq x.last then modPR s x.part fun r => { r with eptDup := r.eptDup + 1 }
      else
        let s := modSession s n x.part fun x => { x with last := seq, lv := true }
        if dl ≠ 0 ∧ dl + imgSlack x.image < at_ then
          raiseEvent (modPR s x.part fun r => { r with eptLate := r.eptLate + 1 }) x.part 0x0006 2 q 0 0
        else
          let (s, dest) := peerDest s x
          sendWire (modPR s x.part fun r => { r with eptSent := r.eptSent + 1 })
            { sess := n, seq := seq, hold := false, deadline := BitVec.ofNat 64 dl, acts := BitVec.ofNat 128 row.toNat, dest := dest }

/-! ### Queues, servo, packets (R389 to R391) -/

/-- An Ethernet queue that has carried no packet for 1 ms closes and returns to the grant. -/
def closeQueue (s : State) (p io node : Nat) : State := modPR s p fun q => { q with ethOpen := q.ethOpen.filter fun e =>
  !(e.io == io && e.node == node && decide (e.used + 1000000 ≤ s.clk.ftime)) }

/-- EPT_TSTAT. -/
def tstatOf (off : BitVec 32) (ever lock : Bool) : W64 := BitVec.ofNat 64 (2 ^ 32 * off.toNat + 2 * b2n ever + b2n lock)

/-- The servo locks, or measures its offset again: the first time ftime steps forward to TAI, later the offset is slewed away; OFFSET is positive where ftime is behind (log 95). -/
def servoLocks (s : State) (tai : Nat) (off : BitVec 32) : State :=
  let first := !bitAt s.ept.tstat 1
  { s with
    ept := { s.ept with tstat := tstatOf off true true }
    clk := if first then (if s.clk.ftime < tai then { s.clk with ftime := tai, sub := 0, slew := 0 } else s.clk) else { s.clk with slew := off.toInt } }

/-- Lock is lost: ftime holds over, with nothing to correct any more. -/
def servoLoses (s : State) : State :=
  { s with clk := { s.clk with slew := 0 }, ept := { s.ept with tstat := tstatOf (BitVec.ofNat 32 (fld s.ept.tstat 63 32)) (bitAt s.ept.tstat 1) false } }

/-- The queues to the node of a packet's rank have carried it, where an operation of the group here knows its nodes (R390). -/
def packetUses (s : State) (p : Nat) (gid : BitVec 32) (rank : Nat) : State :=
  match (s.sched.ops.find? fun o => o.after == gid.toNat + 1 && !o.nodes.isEmpty).bind fun o => o.nodes[rank]? with
  | some node => ethUsed (ethUsed s p 0 node) p 1 node
  | none => s

/-- A collective packet for a listed (job, GID) pair is kept, one for each rank and tag; any other is refused (R389). One that says its rank is gone reaches the ranks here, unless that rank's contribution is held already (R298). -/
def packetIn (s : State) (p : Nat) (job : BitVec 24) (gid : BitVec 32) (tag : W64) (rank : Nat) (head : CollHead) (data : List Row) : State :=
  let q := getPart s p
  if q.live && fld q.res.job 23 0 == job.toNat && listsGid q gid.toNat
      && !(s.sched.packets.any fun x => x.job == job.toNat && x.gid == gid && x.tag == tag && x.rank == rank) then
    let s := packetUses s p gid rank
    if head.gone then rankGone s (gid.toNat + 1) tag.toNat job.toNat head.ranks rank
    else { s with sched := { s.sched with packets := s.sched.packets ++
      [{ part := p, job := job.toNat, gid := gid, tag := tag, rank := rank, head := head, data := data }] } }
  else s

/-! ### The events -/

/-- BIND (R393). -/
def execBind (part : Nat) (v : W64) (s : State) : Host.Outcome State Fault Refusal := .next (sessCmd s part 1 v bindSession)
/-- UNBIND (R393). -/
def execUnbind (part : Nat) (v : W64) (s : State) : Host.Outcome State Fault Refusal := .next (sessCmd s part 2 v unbindSession)
/-- READ (R393). -/
def execSessRead (part : Nat) (v : W64) (s : State) : Host.Outcome State Fault Refusal := .next (sessCmd s part 3 v readSession)
/-- A message arrives (R394). -/
def execIngressMessage (sess : Nat) (strm : Bool) (seq : BitVec 32) (txts : W64) (msg : Datagram) (s : State) :
    Host.Outcome State Fault Refusal :=
  .next (ingress s { sess := sess, strm := strm, seq := seq, txts := txts, at_ := s.clk.ftime, src := msg.src, payload := msg.payload })
/-- A chunk at the head of its session's queue (R397). -/
def execChunkEgress (sess : Nat) (firstBit : Nat) (s : State) : Host.Outcome State Fault Refusal := .next (egress s sess firstBit)
/-- An idle Ethernet queue closes (R390). -/
def execEthQueueClose (part io node : Nat) (s : State) : Host.Outcome State Fault Refusal := .next (closeQueue s part io node)
/-- The servo locks (R391). -/
def execServoLock (tai : Nat) (offset : BitVec 32) (s : State) : Host.Outcome State Fault Refusal := .next (servoLocks s tai offset)
/-- The servo loses lock (R391). -/
def execServoLockLoss (s : State) : Host.Outcome State Fault Refusal := .next (servoLoses s)
/-- A chunk leaves its core (R396). -/
def execChunkToEndpoint (s : State) : Host.Outcome State Fault Refusal := .next (chunkOut s)
/-- A message row reaches the core (R395). -/
def execRxqRowArrival (s : State) : Host.Outcome State Fault Refusal := .next (rowArrives s)
/-- A collective packet (R389). -/
def execCollectivePacket (part : Nat) (job : BitVec 24) (gid : BitVec 32) (tag : W64) (rank : Nat) (data : CollBody) (s : State) :
    Host.Outcome State Fault Refusal := .next (packetIn s part job gid tag rank data.head data.rows)

end Sys2Proof.Machine
end

