-- ==== Sys2Proof/Machine/Boot.lean ====
section
/-! DEFINITION. The Mordant die: power-good, the release of the dies, boot phases, keys, SPDM, PLDM, heat; and the host's register maps (R383, R398 to R406, R417). -/

namespace Sys2Proof.Machine

/-! ### Power-good, release, phases (R398, R399, R402, R417) -/

/-- Images staged for the next boot come into force: entry 10 + d is in force for die d of the release order. -/
def stagedNow (l : List (Nat × Nat)) : List (Nat × Nat) :=
  let new := (l.filter fun e => decide (e.1 < 10)).map fun e => (e.1 + 10, e.2)
  new ++ l.filter fun e => decide (10 ≤ e.1) && !(new.any fun n => n.1 == e.1)

/-- Everything as after reset; what the outside has still to deliver and the images staged for this boot stay. -/
def powerOn (s : State) : State :=
  { State.reset with
    agenda := s.agenda, fresh := s.fresh, seq := s.seq, side := { MemSide.reset with ioReads := s.side.ioReads }
    boot := { Boot.reset with staged := stagedNow s.boot.staged, blocksUsed := s.boot.blocksUsed } }

/-- A die of the release order. -/
inductive Chip where
  | x0 | x1 | c (d : Nat)
  deriving DecidableEq, Repr

/-- X0, C0, C1, X1, C2, …, C7. -/
def releaseOrder : List Chip := [.x0, .c 0, .c 1, .x1, .c 2, .c 3, .c 4, .c 5, .c 6, .c 7]

/-- Measurement block index (R400). -/
def chipIndex : Chip → Nat
  | .x0 => 3
  | .x1 => 4
  | .c d => 5 + d

/-- The bit of MRD_BOOT that a release sets, and the one that a failure sets; X0 has none. -/
def chipBits : Chip → Nat × Option Nat
  | .x0 => (9, none)
  | .x1 => (10, some 11)
  | .c d => (12 + d, some (20 + d))

def setBoot (s : State) (n : Nat) : State := { s with boot := { s.boot with boot := s.boot.boot ||| BitVec.ofNat 64 (2 ^ n) } }

/-- The stack of a compute die holds nothing from before power-good. -/
def scrubStack (s : State) (d : Nat) : State := (List.range 32).foldl (fun s k => scrub s (32 * d + k)) s

/-- A pair whose two dies are released enters MIRRORED (R372). -/
def joinPair (s : State) (n : Nat) : State :=
  if bitAt s.boot.boot (12 + 2 * n) && bitAt s.boot.boot (13 + 2 * n) && (pairAt s n).state == 3 then
    modPair s n fun p => { p with state := 0, hbAt := [s.clk.ftime, s.clk.ftime] }
  else s

/-- The next die of the order is measured, and released where the check passes. -/
def releaseDie (s : State) (image : BitVec 256) (pass : Bool) : State :=
  match releaseOrder[s.boot.next]? with
  | none => s
  | some c =>
    if !s.boot.powered then s
    else
      let img := ((s.boot.staged.find? fun e => e.1 == 10 + s.boot.next).map Prod.snd).getD image.toNat
      let s := { s with boot := { s.boot with
        next := s.boot.next + 1, measures := s.boot.measures ++ [(chipIndex c, img)] } }
      if pass then match c with
        | .c d => joinPair (setBoot (scrubStack s d) (chipBits c).1) (d / 2)
        | _ => setBoot s (chipBits c).1
      else match (chipBits c).2 with
        | some b => setBoot s b
        | none => s

/-- The first pair whose two dies pass is C0 and C1, or a later one where one of these has failed. -/
def firstPairUp (s : State) : Bool :=
  let up := fun (n : Nat) => bitAt s.boot.boot (12 + 2 * n) && bitAt s.boot.boot (13 + 2 * n)
  let failed := fun (n : Nat) => bitAt s.boot.boot (20 + 2 * n) || bitAt s.boot.boot (21 + 2 * n)
  match (List.range 4).find? fun n => !failed n with
  | some n => up n
  | none => false

/-- The device enters its next phase where the entry condition holds: phase 1 needs X1 up (R402, log 89). -/
def nextPhase (s : State) : State :=
  match fld s.boot.boot 1 0 with
  | 0 => if bitAt s.boot.boot 9 && firstPairUp s && bitAt s.boot.boot 10 then setBoot s 0 else s
  | 1 => if s.boot.next = 10 then { s with boot := { s.boot with boot := s.boot.boot + 1 } } else s
  | _ => s

/-! ### Keys (R401) -/

/-- The key slot of the latest write of a row. -/
def keyOfRow (s : State) (row : Nat) : Nat := ((s.side.keyed.find? fun e => decide (e.1 ≤ row) && decide (row < e.1 + e.2.1)).map fun e => e.2.2).getD 0

/-- A partition's rows that were written under a slot's key, with their shadows. -/
def keyRows (s : State) (p slot : Nat) : List Nat :=
  let l := ((s.side.keyed.filter fun e => e.2.2 == slot).flatMap fun e => (List.range e.2.1).map (e.1 + ·)).filter fun r =>
    keyOfRow s r == slot && ownerOf s (r * 128) == some p
  let l := l.eraseDups
  l ++ l.filterMap fun r => (shadowBlock s (r / 2 ^ 24)).map fun b => b * 2 ^ 24 + r % 2 ^ 24

/-- Rows written under a key that is gone hold undefined values (log 37). -/
def loseKey (s : State) (p slot : Nat) : State :=
  let s := (keyRows s p slot).foldl (fun s r => { s with mem := writeRow s.mem (r * 128) (Config.freeRow s.fresh), fresh := s.fresh + 1 }) s
  { s with side := { s.side with keyed := s.side.keyed.filter fun e => e.2.2 != slot } }

/-- Common to the key commands: the PF reaches the device, the OP is the one, no reserved field is set, a slot is named. -/
def keyCmd (s : State) (op : Nat) (v : W64) (act : State → Nat → Nat → State) : State :=
  if !bitAt s.boot.boot 9 || fld v 63 62 != op || fld v 61 14 != 0 || bitAt v 7 || fld v 6 0 == 0 then s
  else act s (fld v 13 8) (fld v 6 0)

def keyAlloc (s : State) (p slot : Nat) : State :=
  if !(getPart s p).live || (s.parts.any fun q => q.res.keys.contains slot) || (s.boot.keys.any fun k => k.1 == slot && k.2 != p) then s
  else
    let s := modPR s p fun q => { q with keys := slot :: q.keys }
    { s with boot := { s.boot with keys := (slot, p) :: s.boot.keys.filter fun k => k.1 != slot } }

def keyFree (s : State) (p slot : Nat) : State :=
  if (getPart s p).res.keys.contains slot then
    modPR (loseKey s p slot) p fun q => { q with keys := q.keys.filter (· != slot) }
  else s

def keyRekey (s : State) (p slot : Nat) : State := if (getPart s p).res.keys.contains slot then loseKey s p slot else s

/-! ### SPDM (R400), IDE (R383) -/

/-- The responder answers a mailbox whose die is up: port 0 is X0's PF, port 1 X1's function; on port 2, the sideband, it answers as the Mordant die itself is up from power-good (R400, R404). -/
def spdmUp (s : State) (port : Nat) : Bool := port == 2 || (decide (port < 2) && bitAt s.boot.boot (9 + port))

def spdmReply (s : State) (port code data : Nat) : State :=
  { s with boot := { s.boot with replies := s.boot.replies ++ [(port, code, data)] } }

/-- The next block that the Mordant die produces. -/
def spdmFree (s : State) (port code : Nat) : State :=
  let s := spdmReply s port code (Config.mordantBlock s.boot.blocksUsed).toNat
  { s with boot := { s.boot with blocksUsed := s.boot.blocksUsed + 1 } }

def setSpdm (s : State) (port st : Nat) : State := { s with boot := { s.boot with spdmState := setNth s.boot.spdmState port st } }

/-- A request that the connection's state allows (log 24): `least` is the state that it needs, at the exact value where `exact`. An unexpected request is answered with ERROR, code 0x7F. -/
def spdmAsk (s : State) (port least : Nat) (exact : Bool) (act : State → State) : State :=
  let st := nth s.boot.spdmState port 0
  if !spdmUp s port then s
  else if st < least ∨ (exact ∧ st ≠ least) then spdmReply s port 0x7f 0
  else act s

/-- The measurement of a block index (R400). -/
def measureOf (s : State) (index : Nat) : Option Nat := (s.boot.measures.find? fun m => m.1 == index).map Prod.snd

/-- GET_MEASUREMENTS: what was measured at boot; the Mordant die's own and the grants' digests are outside values. -/
def measureReply (s : State) (port index : Nat) : State :=
  match measureOf s index with
  | some x => spdmReply s port 0x60 x
  | none => if index = 1 ∨ index = 2 ∨ index = 13 then spdmFree s port 0x60 else spdmReply s port 0x7f 0

/-- IDE_KM: a stream of an endpoint gets its key, bound to a partition's traffic; the sideband carries no stream. -/
def bindStream (s : State) (port stream p : Nat) : State :=
  if 2 ≤ port ∨ 64 ≤ stream ∨ !(getPart s p).live then spdmReply s port 0x7f 0
  else
    let s := { s with parts := s.parts.map fun q => { q with res := { q.res with ide := q.res.ide.filter fun e => e != (port, stream) } } }
    spdmReply (modPR s p fun q => { q with ide := (port, stream) :: q.ide }) port 0x7e 0

/-! ### Management and heat (R403, R404) -/

/-- PLDM monitoring, answered on port 2: sensor 3 is PWR_BUDGET, the others are readings. -/
def monitor (s : State) (sensor : Nat) : State :=
  if sensor = 3 then spdmReply s 2 3 s.boot.pwrBudget
  else
    let s := spdmReply s 2 sensor (Config.sensor s.boot.blocksUsed).toNat
    { s with boot := { s.boot with blocksUsed := s.boot.blocksUsed + 1 } }

/-- PLDM firmware update: an image for a die of the release order, for the next boot. -/
def stage (s : State) (die : Nat) (image : BitVec 256) : State :=
  if die < 10 then { s with boot := { s.boot with staged := (die, image.toNat) :: s.boot.staged.filter fun e => e.1 != die } } else s

/-- A die above 100 °C lowers PWR_BUDGET, and never raises it while it is hot; once every die has cooled it is the reset value again (log 24). -/
def overheat (s : State) (die : Nat) (tok : BitVec 20) : State :=
  if 11 ≤ die ∨ !s.boot.powered then s
  else if tok.toNat < 17500 then
    { s with boot := { s.boot with pwrBudget := min tok.toNat s.boot.pwrBudget, hot := die :: s.boot.hot.filter (· != die) } }
  else
    let hot := s.boot.hot.filter (· != die)
    { s with boot := { s.boot with hot := hot, pwrBudget := if hot.isEmpty then 17500 else s.boot.pwrBudget } }

/-- At 110 °C the compute and I/O dies lose power at once; the Mordant die's own values stay. -/
def powerCut (s : State) : State :=
  { powerOn s with
    clk := s.clk
    boot := { Boot.reset with
      powered := false, staged := s.boot.staged, hot := s.boot.hot, measures := s.boot.measures, blocksUsed := s.boot.blocksUsed
      replies := s.boot.replies } }

/-! ### The register maps (R405, R406) -/

/-- Bits hi to lo of a written value, in place. -/
def keepBits (v : W64) (hi lo : Nat) : W64 := BitVec.ofNat 64 (fld v hi lo * 2 ^ lo)

/-- PAR_CMD by its OP. -/
def writeCmd (s : State) (v : W64) : State :=
  let op := fld v 63 60
  let act : State → State := fun s => match op with
    | 1 => createPart s v
    | 2 => destroyPart s v
    | 3 => grantRes s v
    | 4 => revokeRes s v
    | 5 => blockAdd s v
    | 6 => blockRem s v
    | _ => blockPair s v
  parCmd s op v act

/-- MRD_KEYCMD by its OP. -/
def writeKeyCmd (s : State) (v : W64) : State := match fld v 63 62 with
  | 1 => keyCmd s 1 v keyAlloc
  | 2 => keyCmd s 2 v keyFree
  | 3 => keyCmd s 3 v keyRekey
  | _ => s

/-- Ring registers: BASE and LOGN stay while EN is 1; TAIL is read-only (R317). -/
def writeRing (s : State) (r reg : Nat) (v : W64) : State :=
  if 65 ≤ r then s
  else modRing s r fun g => match reg with
    | 0 => if ringOn g then g else { g with base := fld v 51 6 }
    | 1 =>
      let logn := if ringOn g then fld g.cfg 3 1 else fld v 3 1
      { g with cfg := keepBits v 15 12 ||| keepBits v 8 8 ||| BitVec.ofNat 64 (2 * logn) ||| keepBits v 0 0 }
    | 2 => { g with head := fld v 15 0 }
    | 4 => { g with drop := 0 }
    | _ => g

/-- Launch-queue registers (R387). A queue taken out of use has read no entry: its head is read again. -/
def writeQueue (s : State) (p n reg : Nat) (v : W64) : State := match reg with
  | 0 => modQueue s p n fun q => if q.en then q else { q with base := fld v 56 3 }
  | 1 => modQueue s p n fun q => { q with
      logn := if q.en then q.logn else fld v 4 1, en := bitAt v 0, wait := if bitAt v 0 then q.wait else none }
  | 3 => doorbell s p n v
  | _ => s

/-- Registers of a partition page that the partition's own VF may write. -/
def vfMayWrite (off : Nat) : Bool :=
  decide (off ≤ 0x30) || [0x88, 0xc0, 0xc8, 0xe0, 0xe8, 0x248, 0x250].contains off || (decide (0x180 ≤ off) && decide (off < 0x200))

/-- The memory registers of a page; `pf` says that the PF writes. -/
def writeMemReg (s : State) (p : Nat) (pf : Bool) (off : Nat) (v : W64) : State := match off with
  | 0x000 => modPM s p fun q => { q with hbaseSt := keepBits v 56 21 }
  | 0x008 => modPM s p fun q => { q with hlimSt := keepBits v 56 21 }
  | 0x010 => modPM s p fun q => { q with hoffSt := keepBits v 63 21 }
  | 0x018 => commitHeap s p v
  | 0x020 => writeRoot s p v
  | 0x028 => startInv s p v
  | 0x030 => rgnCmd s p pf v
  | 0x090 => modPM s p fun q => { q with iorange := keepBits v 50 12 }
  | 0x098 => modPM s p fun q => { q with iolim := keepBits v 50 12 }
  | 0x0a0 => modPM s p fun q => { q with inbase := keepBits v 36 18 ||| keepBits v 6 0 }
  | 0x0f8 => modPM s p fun q => { q with bew := keepBits v 23 0 }
  | _ => s

/-- The scheduler, fault and frame registers of a page. -/
def writeSchedReg (s : State) (p off : Nat) (v : W64) : State := match off with
  | 0x068 => modPS s p fun q => { q with fltcfg := keepBits v 0 0 }
  | 0x070 => writeDlog s p v
  | 0x078 => stopPart s p v
  | 0x088 => blockAck s p v
  | 0x0b0 => modPS s p fun q => { q with framebase := keepBits v 51 22 }
  | 0x0b8 => modPS s p fun q => { q with framecnt := keepBits v 15 0 }
  | 0x0c0 => modPS s p fun q => { q with resval := v }
  | 0x0c8 => if bitAt v 16 then endSlot s p v else resumeSlot s p v
  | 0x0d0 => modPS s p fun q => { q with grace := keepBits v 15 0 }
  | 0x0d8 => modPS s p fun q => { q with kill := keepBits v 19 0 }
  | 0x0e0 => preempt s p v
  | 0x0e8 => cancel s p v
  | 0x0f0 => modPS s p fun q => { q with blim := keepBits v 31 0 }
  | _ => s

/-- The endpoint and power registers of a page. -/
def writeResReg (s : State) (p off : Nat) (v : W64) : State := match off with
  | 0x248 => modPR s p fun q => { q with sessaddr := keepBits v 56 6 }
  | 0x250 => writeSessCmd s p v
  | 0x260 => modPR s p fun q => { q with job := keepBits v 23 0 }
  | 0x300 => writeToken s p v
  | _ => s

/-- A write in the page of a partition that exists (R406, log 38). -/
def writePage (s : State) (p : Nat) (pf : Bool) (off : Nat) (v : W64) : State :=
  if 64 ≤ p ∨ !(getPart s p).live ∨ off % 8 ≠ 0 ∨ !(pf || vfMayWrite off) then s
  else if 0x100 ≤ off ∧ off < 0x180 then modPS s p fun q => { q with quota := setNth q.quota ((off - 0x100) / 8) (keepBits v 23 0) }
  else if 0x180 ≤ off ∧ off < 0x200 then writeQueue s p ((off - 0x180) / 32) ((off - 0x180) % 32 / 8) v
  else if 0x280 ≤ off ∧ off < 0x300 then modPR s p fun q => { q with gidmap := setNth q.gidmap ((off - 0x280) / 8) (keepBits v 32 0) }
  else if 0x400 ≤ off then writeVcw s p ((off - 0x400) / 8) v
  else writeResReg (writeSchedReg (writeMemReg s p pf off v) p off v) p off v

/-- The eight bytes of an HBM_SLOT word, staged. -/
def stageSlots (s : State) (stack word : Nat) (v : W64) : State :=
  let put := fun (t : List Byte) => (List.range 8).foldl (fun t j => setNth t (8 * word + j) (BitVec.ofNat 8 (bitsOf v (8 * j) 8))) t
  { s with side := { s.side with hbmStaged := setNth s.side.hbmStaged stack (put (nth s.side.hbmStaged stack [])) } }

/-- One half of a die's way map. -/
def writeWayHalf (s : State) (die : Nat) (high : Bool) (v : W64) : State :=
  let old := nth s.side.ways die 0
  writeWays s die (if high then v ++ BitVec.ofNat 64 old.toNat else BitVec.ofNat 64 (old.toNat / 2 ^ 64) ++ v)

/-- The device registers at the front of PF BAR0. -/
def writeDevReg (s : State) (off : Nat) (v : W64) : State := match off with
  | 0x08 => writeKeyCmd s v
  | 0x10 => if fld s.boot.boot 1 0 = 2 then { s with sched := { s.sched with safePt := bitAt v 0 } } else s
  | 0x18 => if bitAt v 3 then forced s (fld v 2 0) else orderly s (fld v 2 0)
  | 0x20 => writeCmd s v
  | 0x38 => { s with ept := { s.ept with node := keepBits v 20 0 } }
  | 0x40 => { s with ept := { s.ept with tcfg := keepBits v 2 0 } }
  | _ => s

/-- A write in PF BAR0. -/
def writePf (s : State) (off : Nat) (v : W64) : State :=
  if off % 8 ≠ 0 then s
  else if off < 0x1000 then writeDevReg s off v
  else if off < 0x1800 then
    if off % 0x100 < 0x10 then writeWayHalf s ((off - 0x1000) / 0x100) (off % 16 == 8) v else s
  else if 0x2000 ≤ off ∧ off < 0x2800 then
    let stack := (off - 0x2000) / 0x100
    if off % 0x100 < 0x40 then stageSlots s stack (off % 0x100 / 8) v
    else if off % 0x100 = 0x40 then slotCommit s stack else s
  else if 0x3000 ≤ off ∧ off < 0x3080 then
    if off % 0x20 = 8 ∧ bitAt v 0 then startResync s ((off - 0x3000) / 0x20) else s
  else if 0x20000 ≤ off ∧ off < 0x60000 then writePage s ((off - 0x20000) / 0x1000) true (off % 0x1000) v
  else if 0x60000 ≤ off then writeRing s ((off - 0x60000) / 0x40) ((off - 0x60000) % 0x40 / 8) v
  else s

/-- A write in VF BAR0. -/
def writeVf (s : State) (vf off : Nat) (v : W64) : State :=
  if vf = 0 ∨ 64 ≤ vf ∨ off % 8 ≠ 0 then s
  else if off < 0x1000 then writePage s vf false off v
  else if off < 0x1040 ∧ (getPart s vf).live then writeRing s (vf + 1) ((off - 0x1000) / 8) v
  else s

/-- A register write of a function: X0 presents none before it is released (R399); it is traffic of the function's partition (R383). -/
def regWrite (s : State) (vf : Option Nat) (off : Nat) (v : W64) (via : Option (Nat × Nat)) : State :=
  if !bitAt s.boot.boot 9 || !streamOk s (vf.getD 0) via then s
  else match vf with
    | none => writePf s off v
    | some n => writeVf s n off v

/-! ### Reads of the register maps (R376, R405, R406) -/

/-- The entries of the capability table: type and instance (R377). -/
def capEntries : List (Nat × Nat) :=
  ([(1, 8), (2, 4), (3, 8), (4, 8), (5, 8), (6, 40), (7, 2), (8, 2), (9, 1), (10, 1), (11, 64), (12, 1), (13, 1), (14, 1)] : List (Nat × Nat)).flatMap
    fun x => (List.range x.2).map fun i => (x.1, i)

/-- SCOPE of a type. -/
def capScope (ty : Nat) : Nat :=
  if ty = 1 ∨ ty = 3 then 1 else if ty = 4 ∨ ty = 5 then 2 else if ty = 6 then 3 else if ty = 7 ∨ ty = 8 then 4
  else if ty = 2 then 5 else if ty = 11 then 6 else 0

/-- Offset of the register that grants a resource; where every partition's page has one, that of partition 0 (log 38). -/
def capAlloc (ty inst : Nat) : Nat := match ty with
  | 3 => 0x1000 + 0x100 * inst
  | 5 => 0x2000 + 0x100 * inst
  | 6 => 0x20400 + 8 * inst
  | 9 => 0x20300
  | 13 => 0x08
  | _ => 0x20

/-- Word k of the capability table (R376). -/
def capWord (s : State) (k : Nat) : W64 := match capEntries[k / 4]? with
  | none => 0
  | some (ty, inst) =>
    let t := (totalOf ty inst).getD (0, 1)
    BitVec.ofNat 64 (match k % 4 with
      | 0 => ty + 2 ^ 8 + 2 ^ 16 * inst + 2 ^ 32 * capScope ty + 2 ^ 48 * t.2
      | 1 => t.1
      | 2 => freeUnits s ty inst
      | _ => capAlloc ty inst)

/-- WOAD_STAT (R372); STATE and LOST of a loss read as such from its take-over on (R415). -/
def woadStat (p : Pair) : W64 :=
  let x := if p.state = 1 ∧ !p.taken then p.shown else (p.state, p.lost)
  BitVec.ofNat 64 (p.fails % 2 ^ 32 * 2 ^ 32 + x.2 % 8 * 2 ^ 8 + x.1 % 4)

/-- The memory registers of a page as they read: staged values where a write stages one (R212), 0 in fields that are only written (log 38). -/
def readMemReg (s : State) (p off : Nat) : W64 :=
  let m := (getPart s p).mem
  match off with
  | 0x000 => m.hbaseSt
  | 0x008 => m.hlimSt
  | 0x010 => m.hoffSt
  | 0x018 => m.hattr ||| BitVec.ofNat 64 (2 ^ 63 * b2n m.herr)
  | 0x020 => m.ptroot
  | 0x028 => BitVec.ofNat 64 (b2n m.tlbBusy)
  | 0x038 => m.rgnstat
  | 0x040 => m.replHit
  | 0x048 => m.replFill
  | 0x050 => m.replColl
  | 0x058 => m.degChange
  | 0x060 => m.migrate
  | 0x090 => m.iorange
  | 0x098 => m.iolim
  | 0x0a0 => m.inbase
  | 0x0a8 => m.indrop
  | 0x0f8 => m.bew
  | _ => 0

/-- The scheduler, fault and frame registers of a page as they read. -/
def readSchedReg (s : State) (p off : Nat) : W64 :=
  let q := (getPart s p).sch
  match off with
  | 0x068 => q.fltcfg
  | 0x070 => q.dlog
  | 0x078 => q.stop
  | 0x080 => (getPart s p).res.blkreq
  | 0x0b0 => q.framebase
  | 0x0b8 => q.framecnt
  | 0x0d0 => q.grace
  | 0x0d8 => q.kill
  | 0x0f0 => q.blim
  | 0x200 => q.cntLate
  | 0x208 => q.cntMiss
  | 0x210 => q.cntLvl
  | 0x218 => q.cntSkip
  | _ => 0

/-- The endpoint and power registers of a page as they read. -/
def readResReg (s : State) (p off : Nat) : W64 :=
  let r := (getPart s p).res
  match off with
  | 0x220 => r.rxdup
  | 0x228 => r.rxdrop
  | 0x230 => r.eptDup
  | 0x238 => r.eptLate
  | 0x240 => r.eptSent
  | 0x248 => r.sessaddr
  | 0x258 => r.sessstat
  | 0x260 => r.job
  | 0x300 => r.pwrToken
  | 0x308 => r.pwrStat
  | _ => 0

/-- A launch queue's registers as they read. -/
def readQueue (q : LQueue) (reg : Nat) : W64 := match reg with
  | 0 => BitVec.ofNat 64 (8 * q.base)
  | 1 => BitVec.ofNat 64 (2 * q.logn + b2n q.en)
  | 2 => BitVec.ofNat 64 q.head
  | _ => 0

/-- A read in the page of a partition; one that does not exist reads 0 (R406, log 38). -/
def readPage (s : State) (p off : Nat) : W64 :=
  let q := getPart s p
  if 64 ≤ p ∨ !q.live ∨ off % 8 ≠ 0 then 0
  else if 0x100 ≤ off ∧ off < 0x180 then nth q.sch.quota ((off - 0x100) / 8) 0
  else if 0x180 ≤ off ∧ off < 0x200 then readQueue (queueAt s p ((off - 0x180) / 32)) ((off - 0x180) % 32 / 8)
  else if 0x280 ≤ off ∧ off < 0x300 then nth q.res.gidmap ((off - 0x280) / 8) 0
  else if 0x400 ≤ off then nth q.res.lnk ((off - 0x400) / 8) 0
  else readMemReg s p off ||| readSchedReg s p off ||| readResReg s p off

/-- A ring's registers as they read (R317). -/
def readRing (s : State) (r reg : Nat) : W64 :=
  let g := ringAt s r
  if 65 ≤ r then 0
  else match reg with
    | 0 => BitVec.ofNat 64 (64 * g.base)
    | 1 => g.cfg
    | 2 => BitVec.ofNat 64 g.head
    | 3 => BitVec.ofNat 64 g.tail
    | 4 => g.drop
    | _ => 0

/-- The device registers as they read. -/
def readDevReg (s : State) (off : Nat) : W64 := match off with
  | 0x00 => s.boot.boot
  | 0x10 => BitVec.ofNat 64 (b2n s.sched.safePt)
  | 0x18 => s.sched.dierst &&& ~~~ 8#64
  | 0x28 => s.boot.cmdstat
  | 0x30 => BitVec.ofNat 64 s.boot.pwrBudget
  | 0x38 => s.ept.node
  | 0x40 => s.ept.tcfg
  | 0x48 => s.ept.tstat
  | _ => 0

/-- A read in PF BAR0. -/
def readPf (s : State) (off : Nat) : W64 :=
  if off % 8 ≠ 0 then 0
  else if off < 0x1000 then readDevReg s off
  else if off < 0x1800 then
    if off % 0x100 < 0x10 then BitVec.ofNat 64 (bitsOf (nth s.side.ways ((off - 0x1000) / 0x100) 0) (off % 0x10 * 8) 64) else 0
  else if 0x2000 ≤ off ∧ off < 0x2800 then
    let stack := (off - 0x2000) / 0x100
    if off % 0x100 < 0x40 then BitVec.ofNat 64 (packN 8 ((List.range 8).map fun j => (nth (nth s.side.hbmStaged stack []) (off % 0x100 + j) 0).toNat))
    else if off % 0x100 = 0x40 then BitVec.ofNat 64 (b2n (nth s.side.hbmErr stack false)) else 0
  else if 0x3000 ≤ off ∧ off < 0x3080 then
    if off % 0x20 = 0 then woadStat (pairAt s ((off - 0x3000) / 0x20)) else 0
  else if 0x10000 ≤ off ∧ off < 0x20000 then capWord s ((off - 0x10000) / 8)
  else if 0x20000 ≤ off ∧ off < 0x60000 then readPage s ((off - 0x20000) / 0x1000) (off % 0x1000)
  else if 0x60000 ≤ off then readRing s ((off - 0x60000) / 0x40) ((off - 0x60000) % 0x40 / 8)
  else 0

/-- A read in VF BAR0. -/
def readVf (s : State) (vf off : Nat) : W64 :=
  if vf = 0 ∨ 64 ≤ vf ∨ off % 8 ≠ 0 then 0
  else if off < 0x1000 then readPage s vf off
  else if off < 0x1040 ∧ (getPart s vf).live then readRing s (vf + 1) ((off - 0x1000) / 8)
  else 0

/-- The page offset of PWR_STAT that a read names, with its partition. -/
def statRead (vf : Option Nat) (off : Nat) : Option Nat := match vf with
  | none => if 0x20000 ≤ off ∧ off < 0x60000 ∧ off % 0x1000 = 0x308 then some ((off - 0x20000) / 0x1000) else none
  | some n => if off = 0x308 then some n else none

/-- A register read of a function, and the device after it: no register's read has an effect, but for PWR_STAT the meters are read first (R381). None where X0 presents no function, or the traffic is refused (R383, R399). -/
def regRead (s : State) (vf : Option Nat) (off : Nat) (via : Option (Nat × Nat)) : Option (W64 × State) :=
  if !bitAt s.boot.boot 9 || !streamOk s (vf.getD 0) via then none
  else
    let s := (statRead vf off).elim s (meterNow s)
    some (match vf with
      | none => readPf s off
      | some n => readVf s n off, s)

/-! ### The events -/

/-- Power-good (R391, R398). -/
def execPowerGood (s : State) : Host.Outcome State Fault Refusal := .next (powerOn s)
/-- A die is measured and released (R398). -/
def execDieRelease (image : BitVec 256) (pass : Bool) (s : State) : Host.Outcome State Fault Refusal := .next (releaseDie s image pass)
/-- A boot phase is entered (R402). -/
def execBootPhase (s : State) : Host.Outcome State Fault Refusal := .next (nextPhase s)
/-- MRD_KEYCMD ALLOC (R401). -/
def execAlloc (v : W64) (s : State) : Host.Outcome State Fault Refusal := .next (keyCmd s 1 v keyAlloc)
/-- MRD_KEYCMD FREE (R401). -/
def execFree (v : W64) (s : State) : Host.Outcome State Fault Refusal := .next (keyCmd s 2 v keyFree)
/-- MRD_KEYCMD REKEY (R401). -/
def execRekey (v : W64) (s : State) : Host.Outcome State Fault Refusal := .next (keyCmd s 3 v keyRekey)
/-- GET_VERSION starts the connection again; the answer names version 1.3 (R400). -/
def execGetVersion (port : Nat) (s : State) : Host.Outcome State Fault Refusal :=
  .next (spdmAsk s port 0 false fun s => setSpdm (spdmReply s port 0x04 0x1300) port 1)
/-- GET_CAPABILITIES (R400). -/
def execGetCapabilities (port : Nat) (s : State) : Host.Outcome State Fault Refusal :=
  .next (spdmAsk s port 1 true fun s => setSpdm (spdmFree s port 0x61) port 2)
/-- NEGOTIATE_ALGORITHMS (R400). -/
def execNegotiateAlgorithms (port : Nat) (s : State) : Host.Outcome State Fault Refusal :=
  .next (spdmAsk s port 2 true fun s => setSpdm (spdmFree s port 0x63) port 3)
/-- GET_DIGESTS (R400). -/
def execGetDigests (port : Nat) (s : State) : Host.Outcome State Fault Refusal :=
  .next (spdmAsk s port 3 false fun s => spdmFree s port 0x01)
/-- GET_CERTIFICATE (R400). -/
def execGetCertificate (port : Nat) (s : State) : Host.Outcome State Fault Refusal :=
  .next (spdmAsk s port 3 false fun s => spdmFree s port 0x02)
/-- CHALLENGE: a signature over the nonce (R400). -/
def execChallenge (port : Nat) (_nonce : BitVec 256) (s : State) : Host.Outcome State Fault Refusal :=
  .next (spdmAsk s port 3 false fun s => spdmFree s port 0x03)
/-- GET_MEASUREMENTS (R400). -/
def execGetMeasurements (port : Nat) (index : Nat) (s : State) : Host.Outcome State Fault Refusal :=
  .next (spdmAsk s port 3 false fun s => measureReply s port index)
/-- KEY_EXCHANGE (R400). -/
def execKeyExchange (port : Nat) (_data : BitVec 256) (s : State) : Host.Outcome State Fault Refusal :=
  .next (spdmAsk s port 3 false fun s => setSpdm (spdmFree s port 0x64) port 4)
/-- FINISH: the session is established (R400). -/
def execFinish (port : Nat) (_mac : BitVec 256) (s : State) : Host.Outcome State Fault Refusal :=
  .next (spdmAsk s port 4 true fun s => setSpdm (spdmFree s port 0x65) port 5)
/-- IDE_KM (R383). -/
def execIdeKm (port stream part : Nat) (s : State) : Host.Outcome State Fault Refusal :=
  .next (spdmAsk s port 5 true fun s => bindStream s port stream part)
/-- PLDM monitoring (R404). -/
def execPldmMonitor (sensor : Nat) (s : State) : Host.Outcome State Fault Refusal := .next (monitor s sensor)
/-- PLDM firmware update (R404). -/
def execPldmFwUpdate (die : Nat) (image : BitVec 256) (s : State) : Host.Outcome State Fault Refusal := .next (stage s die image)
/-- Above 100 °C (R403). -/
def execThermalOver (die : Nat) (tok : BitVec 20) (s : State) : Host.Outcome State Fault Refusal := .next (overheat s die tok)
/-- At 110 °C (R403). -/
def execThermalTrip (s : State) : Host.Outcome State Fault Refusal := .next (powerCut s)
/-- A register write of a function (R405, R406). -/
def execRegisterWrite (who : Access) (off : Nat) (v : W64) (s : State) : Host.Outcome State Fault Refusal :=
  .next (regWrite s who.vf off v who.via)

end Sys2Proof.Machine
end

