-- ==== Sys2Proof/Machine/Ctl.lean ====
section
/-! DEFINITION. The control unit: branches, loop, done, safe points, waits, fusion, traps, control registers, the return from a user-level interrupt (R102 to R110, R185 to R189, R307 to R313). -/

namespace Sys2Proof.Machine

/-! ### Branches -/

/-- A taken branch issued at T: its target issues at T + 3 (R27). -/
def branchTo (g : Trig) (s : State) (target : Nat) : State :=
  { s with task := { s.task with regs := { s.task.regs with pc := target % 8192, cyc := g.cyc + 3 } } }

def ctlAct (h : Head) (fn : TrigFn) : Nat → Act := trigAct unitCtl h fn

/-- The bundle index t[12:0]. -/
def target (x : W64) : Nat := fld x 12 0

def trigJmp : TrigFn := fun g s => .ok (branchTo g s (target (lo64 g.val)))

def trigJmpi : TrigFn := fun g s => .ok (branchTo g (eat s [.ctla]) (target (rdCtl g s .ctla + lo64 g.val)))

/-- call writes s31 as a move of its bundle (R103). -/
def trigCall : TrigFn := fun g s =>
  let s := { s with task := moveReg s.task (.s 31) (BitVec.ofNat 1024 ((g.s0.task.regs.pc + 1) % 8192)) g.s0.seq }
  .ok (branchTo g s (target (lo64 g.val)))

def trigRet : TrigFn := fun g s => .ok (branchTo g s (target (ctlReg g (.s 31))))

def trigJtab : TrigFn := fun g s => match fragOf g.s0.task.info.ftab (fld (lo64 g.val) 7 0) with
  | some b => .ok (branchTo g s b)
  | none => .trap (trapOf .trapInsn)

/-- loop (R104): counts, rotates, sets the stage predicate, and takes no bubble. -/
def trigLoop : TrigFn := fun g s =>
  let lc := ctlReg g .lc
  if lc = 0 then .ok s
  else
    let lc := lc - 1
    let rrb : W64 := BitVec.ofNat 64 ((fld (ctlRrb g) 4 0 + 1) % 32)
    let p := decide ((ctlReg g .ec).toNat ≤ lc.toNat)
    let t := moveReg s.task .lc (row64 lc) g.s0.seq
    let t := moveReg t .rrb (row64 rrb) g.s0.seq
    let t := moveReg t (.p (renP rrb 7)) (BitVec.ofNat 1024 (b2n p)) g.s0.seq
    .ok { s with task := { t with regs := { t.regs with pc := target (lo64 g.val) } } }

/-- What loop writes (R106): lc, rrb, and the predicate that is logical p4 under the old rrb. -/
def loopWrites (lead : Option Lead) (s : State) : List RegDst :=
  let rr := match lead with
    | some l => l.rrb
    | none => rrbRead s
  [.lc, .rrb, .p (renP rr 4)]

/-! ### done, spt, wait (R108 to R110, R359, R367) -/

/-- A done or a sys that acts for the leader of a team round is not speculative (R358, R359). -/
def doneHeld (g : Trig) : Bool := speculative g.s0.task && !(g.s0.task.spec.team && g.lead.isSome)

def trigDone : TrigFn := fun g s =>
  if doneHeld g then .trap (trapOf .specEffect)
  else
    let s := if roundOpen g.s0.task.spec && leadsRound g.s0.task then note s (.sabt g.s0.seq) else s
    .ok { s with task := { s.task with freeze := s.task.freeze ++ [.done] } }

/-- spt (R109): a mirror point of a class F task that has a standing image; in safe-point mode with a request pending, the leave at the boundary, where the slots that it takes are there (R319). -/
def trigSpt : TrigFn := fun g s =>
  let n := fld (lo64 g.val) 11 0
  if (lmapEntry g.s0.task n g.s0.task.regs.pc).isNone then .ok s
  else
    let s := if s.mir.standing.any (fun x => x.uid == s.task.uid) then freezeWith s (.mirror false) else s
    .ok (if s.sched.safePt && s.task.time.softPending && slotsThere s (groupOfTask s) then freezeWith s (.safePoint n) else s)

def trigWait : TrigFn := fun g s =>
  .ok { s with task := { s.task with time := { s.task.time with waitN := fld (lo64 g.val) 15 0 } } }

/-! ### Fusion (R185 to R189) -/

/-- The mask over members 0 to 7: valid when contiguous and naming the issuer; else the issuer alone. -/
def effMask (i : TaskInfo) (x : W64) : Nat :=
  let m := fld x 7 0 % 2 ^ i.extX
  let run := m / 2 ^ ctzN 8 m
  if m / 2 ^ i.x % 2 = 1 ∧ run &&& (run + 1) = 0 then m else 2 ^ i.x

/-- A team member by x. -/
def memberAt (s : State) (i : TaskInfo) (x : Nat) : Option Task :=
  (allTasks s).find? fun t => sameTeam t.info i && t.info.x == x && !isEnded t

/-- Team members that a mask names. -/
def named (s : State) (i : TaskInfo) (m : Nat) : List Task :=
  (List.range 8).filterMap fun x => if m / 2 ^ x % 2 = 1 then memberAt s i x else none

def parkedWith (t : Task) (m : Nat) : Bool := t.freeze.contains (.rejoin m) && onCore t

/-- The members of a list become one group behind bundle pc (R186, R189). -/
def fuseAll (s : State) (l : List Task) (m pc : Nat) : State :=
  let ids := l.map Task.uid
  ids.foldl (fun s u => modTask s u fun t =>
    { t with fused := ids, freeze := t.freeze.filter (· != .rejoin m), regs := { t.regs with pc := pc } }) s

/-- fuse, by an unfused leader: the parked members that the mask names join. -/
def trigFuse : TrigFn := fun g s =>
  let i := g.s0.task.info
  let m := effMask i (lo64 g.val)
  if g.lead.isSome && decide (2 ≤ g.s0.task.fused.length) || m % 2 ^ i.x != 0 then .ok s
  else
    let l := (named s i m).filter fun t => t.uid == s.task.uid || parkedWith t m
    if l.length < 2 then .ok s else .ok (fuseAll s l m s.task.regs.pc)

def trigDcpl : TrigFn := fun _ s => .ok { s with task := { s.task with fused := [] } }

/-- rejoin parks the core unless it names the issuer alone. -/
def trigRejoin : TrigFn := fun g s =>
  let m := effMask g.s0.task.info (lo64 g.val)
  .ok (if m = 2 ^ g.s0.task.info.x then s else freezeWith s (.rejoin m))

/-- The mask that a task is parked with. -/
def parkMask (t : Task) : Option Nat := t.freeze.findSome? fun f => match f with
  | .rejoin m => some m
  | _ => none

/-- A group forms when every core that the focus task's mask names is parked with it (R189). -/
def formGroup (s : State) : State := match parkMask s.task with
  | none => s
  | some m =>
    let l := named s s.task.info m
    if l.length = popcN 8 m ∧ (l.all fun t => parkedWith t m) then match l with
      | t :: _ => fuseAll s l m t.regs.pc
      | [] => s
    else s

/-! ### trap, sys, csrr, csrw -/

def trigTrap : TrigFn := fun g _ => .trap { cause := .trapInsn, info := fld (lo64 g.val) 15 0 }

/-- sys: its bundle takes effect, then the task leaves (R312). -/
def trigSys : TrigFn := fun g s =>
  if doneHeld g then .trap (trapOf .specEffect)
  else .ok (freezeWith s (.sysWait (fld (lo64 g.val) 15 0) (g.slot * 2 ^ 13 + g.s0.task.regs.pc) g.s0.clk.ftime))

/-- csrr (R313): the number, the destination code and the register are the leader's in a group (R187). -/
def trigCsrr : TrigFn := fun g s =>
  match destOf (ctlRrb g) (rdCtl g s .ctlb) with
  | none => .trap (trapOf .illDst)
  | some d =>
    let s := eat s [.ctlb]
    .ok { s with task := sendResult s.task d (row64 (csrVal (ctlTask g) (fld (lo64 g.val) 11 0))) (g.cyc + 2) g.seq }

def trigCsrw : TrigFn := fun g s =>
  let i := g.s0.task.info
  let x := rdCtl g s .ctla
  if speculative g.s0.task then .trap (trapOf .specEffect)
  else
    let s := eat s [.ctla]
    match fld (lo64 g.val) 11 0 with
    | 0 => if privileged i then .ok (modPart s i.part fun q => { q with nbv := nbvWrite q.nbv x }) else .trap (trapOf .priv)
    | 1 => .ok { s with task := { s.task with time := { s.task.time with rngs := rngsWrite s.task.time.rngs x } } }
    | 6 => .ok { s with task := { s.task with time := { s.task.time with sysr := x } } }
    | _ => .trap (trapOf .priv)

/-! ### uret (R308) -/

/-- The registers of the shadow: physical s56 to s63, p1 to p3, rrb. -/
def shadowRegs : List RegDst :=
  (List.range 8).map (fun k => RegDst.s (BitVec.ofNat 6 (56 + k))) ++ [.p 1, .p 2, .p 3, .rrb]

/-- The shadow goes back into the registers, as moves of number `seq`. -/
def restoreShadow (t : Task) (seq : Nat) : Task :=
  let u := t.uint
  let t := (List.range 8).foldl (fun t k => moveReg t (.s (BitVec.ofNat 6 (56 + k))) (row64 (nth u.shS k 0)) seq) t
  let t := (List.range 3).foldl (fun t k => moveReg t (.p (BitVec.ofNat 3 (1 + k))) (BitVec.ofNat 1024 (b2n (nth u.shP k false))) seq) t
  let t := moveReg t .rrb (row64 u.shRrb) seq
  { t with uint := { u with inHandler := false } }

def trigUret : TrigFn := fun g s =>
  if !(ctlTask g).uint.inHandler then .ok s
  else
    let s := if s.task.uint.inHandler then { s with task := restoreShadow s.task g.s0.seq } else s
    .ok (branchTo g s (ctlTask g).uint.ret)

/-! ### Acts and meanings -/

/-- jmp (R102). -/
def actJmp (h : Head) : Nat → Act := ctlAct h trigJmp
def execJmp (h : Head) (s : State) : Host.Outcome State Fault Refusal := issueOne (actJmp h) s

/-- jmpi (R102). -/
def actJmpi (h : Head) : Nat → Act := ctlAct h trigJmpi
def execJmpi (h : Head) (s : State) : Host.Outcome State Fault Refusal := issueOne (actJmpi h) s

/-- call (R103). -/
def actCall (h : Head) : Nat → Act := fun k => { ctlAct h trigCall k with imp := fun _ _ _ => [.s 31] }
def execCall (h : Head) (s : State) : Host.Outcome State Fault Refusal := issueOne (actCall h) s

/-- ret (R103). -/
def actRet (h : Head) : Nat → Act := fun k => { ctlAct h trigRet k with reads := fun _ _ => [.s 31] }
def execRet (h : Head) (s : State) : Host.Outcome State Fault Refusal := issueOne (actRet h) s

/-- jtab (R103). -/
def actJtab (h : Head) : Nat → Act := ctlAct h trigJtab
def execJtab (h : Head) (s : State) : Host.Outcome State Fault Refusal := issueOne (actJtab h) s

/-- loop (R104, R106). -/
def actLoop (h : Head) : Nat → Act := fun k => { ctlAct h trigLoop k with imp := fun l s _ => loopWrites l s, reads := fun _ _ => [.lc, .ec, .rrb] }
def execLoop (h : Head) (s : State) : Host.Outcome State Fault Refusal := issueOne (actLoop h) s

/-- done (R108). -/
def actDone (h : Head) : Nat → Act := ctlAct h trigDone
def execDone (h : Head) (s : State) : Host.Outcome State Fault Refusal := issueOne (actDone h) s

/-- spt (R109). -/
def actSpt (h : Head) : Nat → Act := ctlAct h trigSpt
def execSpt (h : Head) (s : State) : Host.Outcome State Fault Refusal := issueOne (actSpt h) s

/-- wait (R110). -/
def actWait (h : Head) : Nat → Act := ctlAct h trigWait
def execWait (h : Head) (s : State) : Host.Outcome State Fault Refusal := issueOne (actWait h) s

/-- fuse (R186). -/
def actFuse (h : Head) : Nat → Act := ctlAct h trigFuse
def execFuse (h : Head) (s : State) : Host.Outcome State Fault Refusal := issueOne (actFuse h) s

/-- dcpl (R188). -/
def actDcpl (h : Head) : Nat → Act := ctlAct h trigDcpl
def execDcpl (h : Head) (s : State) : Host.Outcome State Fault Refusal := issueOne (actDcpl h) s

/-- rejoin (R189). -/
def actRejoin (h : Head) : Nat → Act := ctlAct h trigRejoin
def execRejoin (h : Head) (s : State) : Host.Outcome State Fault Refusal := issueOne (actRejoin h) s

/-- trap (R311). -/
def actTrap (h : Head) : Nat → Act := ctlAct h trigTrap
def execTrap (h : Head) (s : State) : Host.Outcome State Fault Refusal := issueOne (actTrap h) s

/-- sys (R312). -/
def actSys (h : Head) : Nat → Act := ctlAct h trigSys
def execSys (h : Head) (s : State) : Host.Outcome State Fault Refusal := issueOne (actSys h) s

/-- csrr (R313). -/
def actCsrr (h : Head) : Nat → Act := ctlAct h trigCsrr
def execCsrr (h : Head) (s : State) : Host.Outcome State Fault Refusal := issueOne (actCsrr h) s

/-- csrw (R313). -/
def actCsrw (h : Head) : Nat → Act := ctlAct h trigCsrw
def execCsrw (h : Head) (s : State) : Host.Outcome State Fault Refusal := issueOne (actCsrw h) s

/-- uret (R308). -/
def actUintReturn (h : Head) : Nat → Act := fun k => { ctlAct h trigUret k with imp := fun _ _ _ => shadowRegs }
def execUintReturn (h : Head) (s : State) : Host.Outcome State Fault Refusal := issueOne (actUintReturn h) s

/-- A parked group forms (R189). -/
def execGroupForm (s : State) : Host.Outcome State Fault Refusal := .next (formGroup s)

end Sys2Proof.Machine
end

