-- ==== Sys2Proof/Machine/Mx.lean ====
section
/-! DEFINITION. The matrix unit: weight planes, beats, the accumulator memory and drain (R154 to R169). -/

namespace Sys2Proof.Machine

/-! ### The registers of a trigger bundle (R161 to R163) -/

/-- A register as an mx trigger reads it at the start of its bundle. -/
def mxReg (s0 : State) (n : Nat) (d : RegDst) : W64 := lo64 (readReg s0.task (s0.fresh + 480 + n) d)
def mxCfg (s0 : State) : W64 := mxReg s0 0 .mcfg
def mxPcfg (s0 : State) : W64 := mxReg s0 1 .pcfg
def mxAcp (s0 : State) : W64 := mxReg s0 2 .acp

def wfmt (s0 : State) : Nat := fld (mxCfg s0) 5 0
def atype (s0 : State) : Nat := fld (mxCfg s0) 11 8
def feedBit (s0 : State) : Bool := bitAt (mxCfg s0) 12
def ftile (s0 : State) : BitVec 3 := BitVec.ofNat 3 (fld (mxCfg s0) 15 13)
/-- NCOLS as it acts: 0 and every value above 96 act as 96. -/
def ncols (s0 : State) : Nat := let n := fld (mxPcfg s0) 15 8; if n = 0 ∨ 96 < n then 96 else n
def accBase (s0 : State) : Nat := fld (mxAcp s0) 9 0
def accStep (s0 : State) : Nat := fld (mxAcp s0) 25 16

/-! ### Weight formats (R155, R158) -/

def wfmtOk (f : Nat) : Bool := decide (1 ≤ f ∧ f ≤ 4) || (packedOf f).isSome

/-- Plane columns per accumulator column (R158). -/
def bfpRate (f : Nat) : Nat := match packedOf f with
  | some (.bfp m _) => if m ≤ 2 then 4 else if m ≤ 4 then 2 else 1
  | _ => 1

/-- The type that a feed tile must have (R155). -/
def feedType (f : Nat) : Nat :=
  if f = 1 then 8 else if f = 2 then 9 else if f = 3 then 10 else if f = 4 then 11
  else match packedOf f with
    | some (.bfp ..) => 13
    | _ => 14

/-- The pairings of weight format and activation type; format 0 is an empty plane (R155). -/
def mxPairs (f ty : Nat) : Bool :=
  if f = 0 then decide (8 ≤ ty ∧ ty ≤ 11)
  else if f ≤ 2 then ty == 8 || ty == 9
  else if f = 3 then ty == 10
  else if f = 4 then ty == 11
  else match packedOf f with
    | some (.bfp ..) => ty == 8 || ty == 9
    | some (.q4g _) => ty == 10
    | none => false

/-- Rows that fill a plane (R155). -/
def fullRows (p : Plane) : Nat := match packedOf p.fmt with
  | some (.bfp m b) => (128 * p.nc * bfpRate p.fmt + 4095) / 4096 * stripeRows (.bfp m b)
  | some (.q4g g) => (64 * p.nc + 4095) / 4096 * stripeRows (.q4g g)
  | none => if p.fmt = 0 then 0 else p.nc

/-! ### Loading a plane (R156, R164) -/

/-- The stripe that row j of a packed stream belongs to. -/
def stripeIdx (f j : Nat) : Nat := match packedOf f with
  | some k => j / stripeRows k
  | none => 0

/-- The checks of R164 for a format against the shadow plane. -/
def loadOk (p : Plane) (f : Nat) : Bool := wfmtOk f && (p.fmt == 0 || p.fmt == f)

/-- R164 once its checks have passed. -/
def loadRow (p : Plane) (f nc : Nat) (x : Row) : Plane :=
  let p := if p.fmt = 0 then { p with fmt := f, nc := nc } else p
  if p.rows < fullRows p then
    { p with data := if p.lost.contains (stripeIdx f p.rows) then p.data else sset p.data p.rows x, rows := p.rows + 1 }
  else p

/-- The prologue buffer discarded: a stripe that is only partly there stays +0 (R156, R165). -/
def dropPrologue (p : Plane) : Plane := match packedOf p.fmt with
  | some k =>
    let n := stripeRows k
    if p.rows % n = 0 then p
    else
      let q := p.rows / n
      { p with data := sclearRange p.data (q * n) (q * n + n), lost := if p.lost.contains q then p.lost else p.lost ++ [q] }
  | none => p

/-! ### Weights (R156) -/

/-- Byte o of the stream rows from row r on. -/
def planeByte (p : Plane) (r o : Nat) : Nat := laneN (sget p.data (r + o / 128)) 8 (o % 128)

/-- A stripe whose rows have all arrived and were not discarded. -/
def stripeIn (p : Plane) (n q : Nat) : Bool := decide ((q + 1) * n ≤ p.rows) && !p.lost.contains q

/-- Plane element i of a packed plane, as an exact value. R172 lets VER = 1 change nothing here: it bounds R74's flush, in this chapter, to what drain writes (log 92). -/
def packedWeight (p : Plane) (k : Packed) (i : Nat) : FV :=
  let n := stripeRows k
  let q := i / 4096
  let e := i % 4096
  if !stripeIn p n q then .fin false 0 0
  else match k with
    | .bfp m b =>
      let mant := sgn m (packN 1 ((List.range m).map fun bit =>
        planeByte p (q * n + e / 1024 * m + bit) (e % 1024 / 8) / 2 ^ (e % 8)))
      bfpVal m (planeByte p (q * n + 4 * m) (e / b)) mant
    | .q4g g =>
      let x := planeByte p (q * n) (e / 2)
      let md := fun (o : Nat) => planeByte p (q * n + 16) (3 * (e / g) + o)
      decodeF fmtB (q4gVal false (if e % 2 = 0 then x % 16 else x / 16) (md 2 % 16) (md 0 + 256 * md 1))

/-- w[k][j] of a plane; everything that has not been loaded is +0. -/
def weight (p : Plane) (k j : Nat) : FV :=
  match packedOf p.fmt with
  | some (.bfp m b) => packedWeight p (.bfp m b) (128 * j + k)
  | some (.q4g g) => packedWeight p (.q4g g) (64 * j + k)
  | none =>
    if p.fmt = 0 then .fin false 0 0
    else
      let ty := feedType p.fmt
      decodeF (tyFmt ty) (laneN (sget p.data j) (tyWidth ty) k)

/-! ### Accumulator rows that an engine has in hand (R159) -/

/-- Accumulator rows that a bundle has written or spoilt count as written since the latest save (R322). -/
def dirtyAcc (s : State) (rows : List Nat) : State :=
  { s with task := { s.task with dirty := touchUnits s.task.dirty (rows.map unitAcc) } }

/-- A row in an engine's hands that a beat or a drain touches holds undefined values, until the entry completes (R159, R11). -/
def spoilAcc (free : Nat) (s : State) (q : Nat) : State :=
  if accInUse s s.task q then
    let acc := (List.range 96).foldl (fun a c =>
      sset a (96 * q + c) (BitVec.ofNat 32 (laneN (Config.freeRow (free + c / 32)) 32 (c % 32)))) s.task.mx.acc
    let lost := q :: s.task.accLost.filter fun r => r != q
    dirtyAcc { s with task := { s.task with mx := { s.task.mx with acc := acc }, accLost := lost } } [q]
  else s

/-- A plane has been written: the device-private pages count as written (R320, R322). -/
def dirtyPlanes (s : State) : State := { s with task := { s.task with dirty := touchUnit s.task.dirty (unitPage 8) } }

/-! ### Triggers -/

def trigPush : TrigFn := fun g s =>
  let f := wfmt g.s0
  if !loadOk s.task.mx.shadow f then .trap (trapOf .illType)
  else .ok (dirtyPlanes { s with task := { s.task with mx := { s.task.mx with shadow := loadRow s.task.mx.shadow f (ncols g.s0) g.val } } })

def trigShift : TrigFn := fun g s =>
  let mx := s.task.mx
  let sh := dropPrologue mx.shadow
  let mx := if bitAt g.val 0 then { mx with active := sh, shadow := mx.active } else { mx with active := sh, shadow := Plane.empty }
  .ok (dirtyPlanes { s with task := { s.task with mx := mx } })

/-- The value of plane column j's accumulator entry after a beat (R166, R67). -/
def beatEntry (v1 zero : Bool) (p : Plane) (at_ kl : Nat) (x : Row) (old : BitVec 32) (j : Nat) : BitVec 32 :=
  BitVec.ofNat 32 (beat v1 (if zero then 0x80000000 else old.toNat)
    ((List.range kl).map fun k => mulF (decodeF (tyFmt at_) (laneN x (tyWidth at_) k)) (weight p k j)))

/-- One beat over the columns of the active plane (R157, R166). -/
def beatAcc (v1 zero : Bool) (p : Plane) (at_ kl row0 : Nat) (x : Row) (acc : Sparse 32) : Sparse 32 :=
  let nc := if p.fmt = 0 then 96 else p.nc
  (List.range (nc * bfpRate p.fmt)).foldl (fun a j =>
    let key := 96 * ((row0 + j / nc) % 1024) + j % nc
    sset a key (beatEntry v1 zero p at_ kl x (sget acc key) j)) acc

/-- The accumulator rows that a beat writes. -/
def beatRows (p : Plane) (row0 : Nat) : List Nat := (List.range (bfpRate p.fmt)).map fun i => (row0 + i) % 1024

/-- The segments of accumulator rows that a beat from -0 writes whole: they carry no poison mark any more (R244). -/
def beatSegs (zero : Bool) (p : Plane) (row0 : Nat) : List Nat :=
  let nc := if p.fmt = 0 then 96 else p.nc
  if zero then (beatRows p row0).flatMap fun q => (List.range (nc / 32)).map fun g => 3 * q + g else []

/-- KLEN as it acts (R163). -/
def beatLen (s0 : State) (at_ : Nat) : Nat :=
  let k := 1024 / tyWidth at_
  let n := fld (mxPcfg s0) 7 0
  if n = 0 ∨ k ≤ n then k else n

/-- The feed's checks: the tile's type, and those of R164 (R166). -/
def feedBad (s0 s : State) : Bool :=
  feedBit s0 && (tileTy (mxReg s0 3 (.tcfg (ftile s0))) != feedType (wfmt s0) || !loadOk s.task.mx.shadow (wfmt s0))

/-- Whether a feed takes a row: the shadow plane is not full. -/
def feedTakes (s0 : State) : Bool :=
  let p := s0.task.mx.shadow
  p.fmt == 0 || decide (p.rows < fullRows p)

/-- The feed: the segment at the tile's read pointer goes into the shadow plane, and the pointer advances. -/
def feedPush (s0 s : State) : State :=
  if feedBit s0 && feedTakes s0 then
    let k := ftile s0
    let x := if inFlight s0.task (.tcfg k) || segEarly s0.task (segKey s0.task k) then Config.freeRow (s0.fresh + 490) else tileSeg s0.task k
    let cfg := s.task.regs.getT k
    dirtyPlanes { s with task := { s.task with
        mx := { s.task.mx with shadow := loadRow s.task.mx.shadow (wfmt s0) (ncols s0) x }
        regs := { s.task.regs with tcfg := s.task.regs.tcfg.set k.toNat (setTileR cfg (advance cfg (tileR cfg))) k.isLt } } }
  else s

/-- acc and accz: the step of acp is a move of the bundle (R161). -/
def trigBeat (zero : Bool) : TrigFn := fun g s =>
  let s0 := g.s0
  let p := s.task.mx.active
  let at_ := atype s0
  if !mxPairs p.fmt at_ || feedBad s0 s then .trap (trapOf .illType)
  else
    let row0 := (accBase s0 + fld (rd64 g s .mxa) 9 0) % 1024
    let s := eat s [.mxa]
    let acc := beatAcc (ver1 s0.task) zero p at_ (beatLen s0 at_) row0 g.val s.task.mx.acc
    let rows := beatRows p row0
    let bad := s.task.mx.accBad.filter fun k => !(beatSegs zero p row0).contains k
    let s := dirtyAcc { s with task := { s.task with mx := { s.task.mx with acc := acc, accBad := bad } } } rows
    let s := (List.range rows.length).foldl (fun s i => spoilAcc (g.free + 3 * i) s (nth rows i 0)) s
    let s := if accStep s0 = 0 then s
      else { s with task := moveReg s.task .acp (row64 (BitVec.ofNat 64 (2 ^ 16 * accStep s0 + (accBase s0 + accStep s0) % 1024))) s0.seq }
    .ok (feedPush s0 s)

/-- Output types of drain (R167). -/
def drainType (o : Nat) : Bool := o == 0 || o == 4 || decide (8 ≤ o ∧ o ≤ 12)

/-- One element of a drain (R168): scaled exactly, rectified, rounded once. -/
def drainElem (v1 : Bool) (e : W64) (x : BitVec 32) : Nat :=
  let v := mulF (decodeF fmt32 x.toNat) (decodeF fmtB (fld e 31 16))
  let v := if bitAt e 7 && !v.isNaN && v.neg? then .fin false 0 0 else v
  convertV v1 v (fld e 3 0) (fld e 5 4) (bitAt e 6)

def drainRow (v1 : Bool) (e : W64) (acc : Sparse 32) (q sg : Nat) : Row :=
  let w := tyWidth (fld e 3 0)
  let c := min 96 (1024 / w)
  packRow w ((List.range c).map fun i =>
    let j := c * sg + i
    if j < 96 then drainElem v1 e (sget acc (96 * q + j)) else 0)

/-- A drain reads a segment that poisoned rows were written to: its result carries the mark (log 91). -/
def drainBad (m : Matrix) (w q sg : Nat) : Bool :=
  let c := min 96 (1024 / w)
  m.accBad.any fun k => k / 3 == q && decide (k % 3 * 32 < c * sg + c) && decide (c * sg < k % 3 * 32 + 32)

/-- drain (R167, R168). -/
def trigDrain : TrigFn := fun g s =>
  match destOf (rrbRead g.s0) (rd64 g s .mxd) with
  | none => .trap (trapOf .illDst)
  | some dst =>
    let e := rd64 g s .mxe
    if !drainType (fld e 3 0) then .trap (trapOf .illType)
    else
      let q := (accBase g.s0 + fld g.val 9 0) % 1024
      let s := spoilAcc g.free (eat s [.mxd, .mxe]) q
      let bad := drainBad s.task.mx (tyWidth (fld e 3 0)) q (fld g.val 17 16)
      let seg := 3 * q + fld g.val 17 16 * min 96 (1024 / tyWidth (fld e 3 0)) / 32
      let s := if bad then { s with task := noteLine s.task (.res g.seq) (badLine s.task (.acc seg)) } else s
      .ok { s with task := sendMarked s.task dst (drainRow (ver1 g.s0.task) e s.task.mx.acc q (fld g.val 17 16)) bad (g.cyc + 6) g.seq }

def trigMxclr : TrigFn := fun _ s =>
  .ok (dirtyPlanes { s with task := { s.task with mx := { s.task.mx with active := Plane.empty, shadow := Plane.empty } } })

/-! ### The instructions -/

/-- Every mx operation reads mcfg, pcfg and acp. -/
def mxAct (h : Head) (fn : TrigFn) (slot : Nat) : Act :=
  { trigAct unitMx h fn slot with reads := fun _ _ => [.mcfg, .pcfg, .acp] }

/-- A beat: it may step acp, and with FEED = 1 it reads its tile (R161, R166). -/
def beatAct (h : Head) (fn : TrigFn) (slot : Nat) : Act :=
  { mxAct h fn slot with
    imp := fun _ s _ => if accStep s = 0 then [] else [.acp]
    reads := fun s _ => if feedBit s then [.mcfg, .pcfg, .acp, .tcfg (ftile s)] else [.mcfg, .pcfg, .acp]
    feed := fun s => if feedBit s then some (ftile s) else none
    feedOn := feedTakes }

/-- push (R164). -/
def actPush (h : Head) : Nat → Act := mxAct h trigPush
def execPush (h : Head) (s : State) : Host.Outcome State Fault Refusal := issueOne (actPush h) s
/-- shift (R165). -/
def actShift (h : Head) : Nat → Act := mxAct h trigShift
def execShift (h : Head) (s : State) : Host.Outcome State Fault Refusal := issueOne (actShift h) s
/-- acc (R166). -/
def actAcc (h : Head) : Nat → Act := beatAct h (trigBeat false)
def execAcc (h : Head) (s : State) : Host.Outcome State Fault Refusal := issueOne (actAcc h) s
/-- accz (R166): it starts from −0. -/
def actAccz (h : Head) : Nat → Act := beatAct h (trigBeat true)
def execAccz (h : Head) (s : State) : Host.Outcome State Fault Refusal := issueOne (actAccz h) s
/-- drain (R167, R168). -/
def actDrain (h : Head) : Nat → Act := mxAct h trigDrain
def execDrain (h : Head) (s : State) : Host.Outcome State Fault Refusal := issueOne (actDrain h) s
/-- mxclr (R169). -/
def actMxclr (h : Head) : Nat → Act := mxAct h trigMxclr
def execMxclr (h : Head) (s : State) : Host.Outcome State Fault Refusal := issueOne (actMxclr h) s

end Sys2Proof.Machine
end

