-- ==== Sys2Proof/Machine/Scalar.lean ====
section
/-! DEFINITION. The scalar units sa0 and sa1 and the address unit (R91 to R101). -/

namespace Sys2Proof.Machine

/-! ### Results on 64-bit words -/

def sltW (a t : W64) : Bool := decide (a.toInt < t.toInt)
def sleW (a t : W64) : Bool := decide (a.toInt ≤ t.toInt)
def flagW (b : Bool) : W64 := if b then 1 else 0

/-- Shifts by the whole of t: 64 or more leaves 0, or for sar the sign fill (R93). -/
def shlW (a t : W64) : W64 := if 64 ≤ t.toNat then 0 else a <<< t.toNat
def shrW (a t : W64) : W64 := if 64 ≤ t.toNat then 0 else a >>> t.toNat
def sarW (a t : W64) : W64 := a.sshiftRight (min t.toNat 64)
def rotlW (a t : W64) : W64 := a.rotateLeft (t.toNat % 64)

/-- Bit counts (R97). -/
def clzW (t : W64) : W64 := BitVec.ofNat 64 (64 - bitLen t.toNat)
def ctzW (t : W64) : W64 := BitVec.ofNat 64 (ctzN 64 t.toNat)
def popcW (t : W64) : W64 := BitVec.ofNat 64 (popcN 64 t.toNat)

/-- The field width and position of a descriptor (R98). -/
def bfWidth (t : W64) : Nat := min (fld t 14 8) 64
def bfLow (t : W64) : Nat := fld t 5 0

def bfxW (a t : W64) : W64 :=
  let w := bfWidth t
  let f := a.toNat / 2 ^ bfLow t % 2 ^ w
  if bitAt t 15 ∧ 1 ≤ w then BitVec.ofInt 64 (sgn w f) else BitVec.ofNat 64 f

def bfiW (a b t : W64) : W64 :=
  let lo := bfLow t
  let h := min (lo + bfWidth t) 64
  let m : W64 := BitVec.ofNat 64 ((2 ^ (h - lo) - 1) * 2 ^ lo)
  (b &&& ~~~ m) ||| ((a <<< lo) &&& m)

/-- Narrowing to the width t[6:0]; widths 0 and from 64 leave a unchanged (R99). -/
def sextW (a t : W64) : W64 :=
  let w := fld t 6 0
  if w = 0 ∨ 64 ≤ w then a else BitVec.ofInt 64 (sgn w a.toNat)
def zextW (a t : W64) : W64 :=
  let w := fld t 6 0
  if w = 0 ∨ 64 ≤ w then a else BitVec.ofNat 64 (a.toNat % 2 ^ w)

/-- Quotient and remainder (R100): truncated, a zero divisor gives all ones and the dividend. -/
def divW (a t : W64) : W64 := if t = 0 then BitVec.allOnes 64 else BitVec.ofInt 64 (a.toInt.tdiv t.toInt)
def remW (a t : W64) : W64 := if t = 0 then a else BitVec.ofInt 64 (a.toInt.tmod t.toInt)
def divuW (a t : W64) : W64 := if t = 0 then BitVec.allOnes 64 else BitVec.ofNat 64 (a.toNat / t.toNat)
def remuW (a t : W64) : W64 := if t = 0 then a else BitVec.ofNat 64 (a.toNat % t.toNat)

/-- The address unit (R101). -/
def dispOf (b : W64) : W64 := b.sshiftRight 8
def leaW (a b t : W64) : W64 := a + (t <<< fld b 5 0) + dispOf b
def leawW (a b t : W64) : W64 := a + (t <<< (7 + fld b 5 0)) + dispOf b
def caddW (a m t : W64) : W64 := if m = 0 then a + t else BitVec.ofInt 64 ((a.toInt + t.toInt) % (m.toNat : Int))

/-! ### Triggers -/

def saUnit : Sa → Nat
  | .sa0 => unitSa0
  | .sa1 => unitSa1
def saA : Sa → Port
  | .sa0 => .sa0a
  | .sa1 => .sa1a
def saB : Sa → Port
  | .sa0 => .sa0b
  | .sa1 => .sa1b
def saD : Sa → Port
  | .sa0 => .sa0d
  | .sa1 => .sa1d

/-- Operations of the trigger value alone, of a and t, and of a, b and t. -/
def sa1Trig (u : Sa) (lat : Nat) (f : W64 → W64) : TrigFn :=
  unitOp [] (saD u) lat fun g _ => .ok (row64 (f (lo64 g.val)))
def sa2Trig (u : Sa) (lat : Nat) (f : W64 → W64 → W64) : TrigFn :=
  unitOp [saA u] (saD u) lat fun g r => .ok (row64 (f (lo64 (r (saA u))) (lo64 g.val)))
def sa3Trig (u : Sa) (lat : Nat) (f : W64 → W64 → W64 → W64) : TrigFn :=
  unitOp [saA u, saB u] (saD u) lat fun g r => .ok (row64 (f (lo64 (r (saA u))) (lo64 (r (saB u))) (lo64 g.val)))
def aguTrig (f : W64 → W64 → W64 → W64) : TrigFn :=
  unitOp [.agua, .agub] .agud 1 fun g r => .ok (row64 (f (lo64 (r .agua)) (lo64 (r .agub)) (lo64 g.val)))

def saAct (u : Sa) (h : Head) (fn : TrigFn) : Nat → Act := trigAct (saUnit u) h fn

/-- add (R92). -/
def actAdd (u : Sa) (h : Head) : Nat → Act := saAct u h (sa2Trig u 1 fun a t => a + t)
def execAdd (u : Sa) (h : Head) (s : State) : Host.Outcome State Fault Refusal := issueOne (actAdd u h) s

/-- sub (R92). -/
def actSub (u : Sa) (h : Head) : Nat → Act := saAct u h (sa2Trig u 1 fun a t => a - t)
def execSub (u : Sa) (h : Head) (s : State) : Host.Outcome State Fault Refusal := issueOne (actSub u h) s

/-- and (R92). -/
def actAnd (u : Sa) (h : Head) : Nat → Act := saAct u h (sa2Trig u 1 fun a t => a &&& t)
def execAnd (u : Sa) (h : Head) (s : State) : Host.Outcome State Fault Refusal := issueOne (actAnd u h) s

/-- or (R92). -/
def actOr (u : Sa) (h : Head) : Nat → Act := saAct u h (sa2Trig u 1 fun a t => a ||| t)
def execOr (u : Sa) (h : Head) (s : State) : Host.Outcome State Fault Refusal := issueOne (actOr u h) s

/-- xor (R92). -/
def actXor (u : Sa) (h : Head) : Nat → Act := saAct u h (sa2Trig u 1 fun a t => a ^^^ t)
def execXor (u : Sa) (h : Head) (s : State) : Host.Outcome State Fault Refusal := issueOne (actXor u h) s

/-- andn (R92). -/
def actAndn (u : Sa) (h : Head) : Nat → Act := saAct u h (sa2Trig u 1 fun a t => a &&& ~~~ t)
def execAndn (u : Sa) (h : Head) (s : State) : Host.Outcome State Fault Refusal := issueOne (actAndn u h) s

/-- min (R92). -/
def actMin (u : Sa) (h : Head) : Nat → Act := saAct u h (sa2Trig u 1 fun a t => if sltW t a then t else a)
def execMin (u : Sa) (h : Head) (s : State) : Host.Outcome State Fault Refusal := issueOne (actMin u h) s

/-- max (R92). -/
def actMax (u : Sa) (h : Head) : Nat → Act := saAct u h (sa2Trig u 1 fun a t => if sltW a t then t else a)
def execMax (u : Sa) (h : Head) (s : State) : Host.Outcome State Fault Refusal := issueOne (actMax u h) s

/-- minu (R92). -/
def actMinu (u : Sa) (h : Head) : Nat → Act := saAct u h (sa2Trig u 1 fun a t => if t.toNat < a.toNat then t else a)
def execMinu (u : Sa) (h : Head) (s : State) : Host.Outcome State Fault Refusal := issueOne (actMinu u h) s

/-- maxu (R92). -/
def actMaxu (u : Sa) (h : Head) : Nat → Act := saAct u h (sa2Trig u 1 fun a t => if a.toNat < t.toNat then t else a)
def execMaxu (u : Sa) (h : Head) (s : State) : Host.Outcome State Fault Refusal := issueOne (actMaxu u h) s

/-- shl (R93). -/
def actShl (u : Sa) (h : Head) : Nat → Act := saAct u h (sa2Trig u 1 fun a t => shlW a t)
def execShl (u : Sa) (h : Head) (s : State) : Host.Outcome State Fault Refusal := issueOne (actShl u h) s

/-- shr (R93). -/
def actShr (u : Sa) (h : Head) : Nat → Act := saAct u h (sa2Trig u 1 fun a t => shrW a t)
def execShr (u : Sa) (h : Head) (s : State) : Host.Outcome State Fault Refusal := issueOne (actShr u h) s

/-- sar (R93). -/
def actSar (u : Sa) (h : Head) : Nat → Act := saAct u h (sa2Trig u 1 fun a t => sarW a t)
def execSar (u : Sa) (h : Head) (s : State) : Host.Outcome State Fault Refusal := issueOne (actSar u h) s

/-- rotl (R93). -/
def actRotl (u : Sa) (h : Head) : Nat → Act := saAct u h (sa2Trig u 1 fun a t => rotlW a t)
def execRotl (u : Sa) (h : Head) (s : State) : Host.Outcome State Fault Refusal := issueOne (actRotl u h) s

/-- seq (R94). -/
def actSeq (u : Sa) (h : Head) : Nat → Act := saAct u h (sa2Trig u 1 fun a t => flagW (a == t))
def execSeq (u : Sa) (h : Head) (s : State) : Host.Outcome State Fault Refusal := issueOne (actSeq u h) s

/-- sne (R94). -/
def actSne (u : Sa) (h : Head) : Nat → Act := saAct u h (sa2Trig u 1 fun a t => flagW (a != t))
def execSne (u : Sa) (h : Head) (s : State) : Host.Outcome State Fault Refusal := issueOne (actSne u h) s

/-- slt (R94). -/
def actSlt (u : Sa) (h : Head) : Nat → Act := saAct u h (sa2Trig u 1 fun a t => flagW (sltW a t))
def execSlt (u : Sa) (h : Head) (s : State) : Host.Outcome State Fault Refusal := issueOne (actSlt u h) s

/-- sltu (R94). -/
def actSltu (u : Sa) (h : Head) : Nat → Act := saAct u h (sa2Trig u 1 fun a t => flagW (decide (a.toNat < t.toNat)))
def execSltu (u : Sa) (h : Head) (s : State) : Host.Outcome State Fault Refusal := issueOne (actSltu u h) s

/-- sle (R94). -/
def actSle (u : Sa) (h : Head) : Nat → Act := saAct u h (sa2Trig u 1 fun a t => flagW (sleW a t))
def execSle (u : Sa) (h : Head) (s : State) : Host.Outcome State Fault Refusal := issueOne (actSle u h) s

/-- sleu (R94). -/
def actSleu (u : Sa) (h : Head) : Nat → Act := saAct u h (sa2Trig u 1 fun a t => flagW (decide (a.toNat ≤ t.toNat)))
def execSleu (u : Sa) (h : Head) (s : State) : Host.Outcome State Fault Refusal := issueOne (actSleu u h) s

/-- sel (R95). -/
def actSel (u : Sa) (h : Head) : Nat → Act := saAct u h (sa3Trig u 1 fun a b t => if t ≠ 0 then a else b)
def execSel (u : Sa) (h : Head) (s : State) : Host.Outcome State Fault Refusal := issueOne (actSel u h) s

/-- mul (R96). -/
def actMul (u : Sa) (h : Head) : Nat → Act := saAct u h (sa2Trig u 3 fun a t => a * t)
def execMul (u : Sa) (h : Head) (s : State) : Host.Outcome State Fault Refusal := issueOne (actMul u h) s

/-- mulh (R96). -/
def actMulh (u : Sa) (h : Head) : Nat → Act := saAct u h (sa2Trig u 3 fun a t => BitVec.ofInt 64 (a.toInt * t.toInt / 2 ^ 64))
def execMulh (u : Sa) (h : Head) (s : State) : Host.Outcome State Fault Refusal := issueOne (actMulh u h) s

/-- mulhu (R96). -/
def actMulhu (u : Sa) (h : Head) : Nat → Act := saAct u h (sa2Trig u 3 fun a t => BitVec.ofNat 64 (a.toNat * t.toNat / 2 ^ 64))
def execMulhu (u : Sa) (h : Head) (s : State) : Host.Outcome State Fault Refusal := issueOne (actMulhu u h) s

/-- clz (R97). -/
def actClz (u : Sa) (h : Head) : Nat → Act := saAct u h (sa1Trig u 1 clzW)
def execClz (u : Sa) (h : Head) (s : State) : Host.Outcome State Fault Refusal := issueOne (actClz u h) s

/-- ctz (R97). -/
def actCtz (u : Sa) (h : Head) : Nat → Act := saAct u h (sa1Trig u 1 ctzW)
def execCtz (u : Sa) (h : Head) (s : State) : Host.Outcome State Fault Refusal := issueOne (actCtz u h) s

/-- popc (R97). -/
def actPopc (u : Sa) (h : Head) : Nat → Act := saAct u h (sa1Trig u 1 popcW)
def execPopc (u : Sa) (h : Head) (s : State) : Host.Outcome State Fault Refusal := issueOne (actPopc u h) s

/-- bfx (R98). -/
def actBfx (u : Sa) (h : Head) : Nat → Act := saAct u h (sa2Trig u 1 fun a t => bfxW a t)
def execBfx (u : Sa) (h : Head) (s : State) : Host.Outcome State Fault Refusal := issueOne (actBfx u h) s

/-- bfi (R98). -/
def actBfi (u : Sa) (h : Head) : Nat → Act := saAct u h (sa3Trig u 1 bfiW)
def execBfi (u : Sa) (h : Head) (s : State) : Host.Outcome State Fault Refusal := issueOne (actBfi u h) s

/-- sext (R99). -/
def actSext (u : Sa) (h : Head) : Nat → Act := saAct u h (sa2Trig u 1 fun a t => sextW a t)
def execSext (u : Sa) (h : Head) (s : State) : Host.Outcome State Fault Refusal := issueOne (actSext u h) s

/-- zext (R99). -/
def actZext (u : Sa) (h : Head) : Nat → Act := saAct u h (sa2Trig u 1 fun a t => zextW a t)
def execZext (u : Sa) (h : Head) (s : State) : Host.Outcome State Fault Refusal := issueOne (actZext u h) s

/-- div (R100). -/
def actDiv (h : Head) : Nat → Act := saAct .sa1 h (sa2Trig .sa1 24 divW)
def execDiv (h : Head) (s : State) : Host.Outcome State Fault Refusal := issueOne (actDiv h) s

/-- divu (R100). -/
def actDivu (h : Head) : Nat → Act := saAct .sa1 h (sa2Trig .sa1 24 divuW)
def execDivu (h : Head) (s : State) : Host.Outcome State Fault Refusal := issueOne (actDivu h) s

/-- rem (R100). -/
def actRem (h : Head) : Nat → Act := saAct .sa1 h (sa2Trig .sa1 24 remW)
def execRem (h : Head) (s : State) : Host.Outcome State Fault Refusal := issueOne (actRem h) s

/-- remu (R100). -/
def actRemu (h : Head) : Nat → Act := saAct .sa1 h (sa2Trig .sa1 24 remuW)
def execRemu (h : Head) (s : State) : Host.Outcome State Fault Refusal := issueOne (actRemu h) s

/-- lea (R101). -/
def actLea (h : Head) : Nat → Act := trigAct unitAgu h (aguTrig leaW)
def execLea (h : Head) (s : State) : Host.Outcome State Fault Refusal := issueOne (actLea h) s

/-- leaw (R101). -/
def actLeaw (h : Head) : Nat → Act := trigAct unitAgu h (aguTrig leawW)
def execLeaw (h : Head) (s : State) : Host.Outcome State Fault Refusal := issueOne (actLeaw h) s

/-- cadd (R101). -/
def actCadd (h : Head) : Nat → Act := trigAct unitAgu h (aguTrig caddW)
def execCadd (h : Head) (s : State) : Host.Outcome State Fault Refusal := issueOne (actCadd h) s

end Sys2Proof.Machine
end

