-- ==== Sys2Proof/Machine/Spc.lean ====
section
/-! DEFINITION. The Madder's unit: sgo, acmp, scmt, sabt, apreg, fnext (R339 to R354). -/

namespace Sys2Proof.Machine

def spcAct (h : Head) (fn : TrigFn) : Nat → Act := trigAct unitSpc h fn

/-! ### sgo (R345) -/

/-- The header, read as an ld reads; 9 bytes of it count (R341). None where the read waits. -/
def headerRow (s : State) (va : Nat) : Except Trap (Option (State × BitVec 72)) :=
  let row := va / 128 * 128
  match resolve s accLoad row with
  | .error c => .error (accFault s row c)
  | .ok (s1, tgt) => match readNow s1 tgt with
    | none => .ok none
    | some (s2, x, bad) => if bad then .error (accFault s row .poison) else .ok (some (s2, BitVec.ofNat 72 (bitsOf x (8 * (va % 128)) 72)))

/-- The round's width: WREQ or the header's, halved at level L1 and above, at least 2. -/
def roundWidth (askp : W64) (h : BitVec 72) (t : W64) : Nat :=
  let w := if fld t 3 0 = 0 then bitsOf h 64 4 else fld t 3 0
  if askpLevel askp = 0 then w else Nat.max 2 (w / 2)

/-- The width as asked, before the level halves it. -/
def askedWidth (h : BitVec 72) (t : W64) : Nat := if fld t 3 0 = 0 then bitsOf h 64 4 else fld t 3 0

/-- The header, the width that opens and the mode's trap. -/
def sgoOpen (g : Trig) (s : State) : TR :=
  let va := (rd64 g s .spca).toNat % 2 ^ 57 / 64 * 64
  match headerRow s va with
  | .error c => .trap c
  | .ok none => .stall
  | .ok (some (s, h)) =>
    let t := lo64 g.val
    let w := roundWidth g.s0.task.info.askp h t
    if askedWidth h t < 2 ∨ 8 < askedWidth h t then .trap (trapOf .specDepth)
    else if !bitAt h 68 && (decide (g.s0.task.fused.length < 2) || decide (g.s0.task.fused.length < w)) then .trap (trapOf .specDepth)
    else if let some d := (carryRegs h).find? (regPoisoned g.s0.task) then .trap { trapOf .poison with line := some (badLine g.s0.task (.reg d)) }
    else .ok (note (eat s [.spca]) (.sgo h w (readCarry g.s0.task (freeTrig g.s0 g.slot) h)))

/-- The sgo that the leader of a task's group has triggered in this bundle. -/
def leaderSgo (s : State) (t : Task) : Option (BitVec 72 × Nat) :=
  (findTask s (t.fused.headD t.uid)).bind fun l => l.spec.todo.findSome? fun x => match x with
    | .sgo h w _ => some (h, w)
    | _ => none

/-- Of a fused member beside the leader: the leader's sgo acts for the group. It opens the team's round, or, with a batch header, for each member a round of its own with its own carry (R339, log 97). -/
def sgoMember (g : Trig) (s : State) : TR :=
  let t := g.s0.task
  let s := eat s [.spca]
  match leaderSgo s t with
  | some (h, w) =>
    if !bitAt h 68 then .ok s
    else if roundOpen t.spec then .trap (trapOf .specDepth)
    else if let some d := (carryRegs h).find? (regPoisoned t) then .trap { trapOf .poison with line := some (badLine t (.reg d)) }
    else .ok (note s (.sgo h w (readCarry t (freeTrig g.s0 g.slot) h)))
  | none => .ok s

def trigSgo : TrigFn := fun g s =>
  if 2 ≤ g.s0.task.fused.length ∧ g.s0.task.fused.headD g.s0.task.uid ≠ g.s0.task.uid then sgoMember g s
  else if roundOpen g.s0.task.spec then .trap (trapOf .specDepth)
  else sgoOpen g s

/-! ### acmp (R346, R347) -/

/-- GUESS, RUN, OUT, LAST, TAG as t[6:4] says; a GUESS is held against those that lower ranks make in the same bundle. The action is made at the end of the bundle; sst as it then stands lands within 4 issue cycles. -/
def trigAcmp : TrigFn := fun g s =>
  match destOf (rrbRead g.s0) (rd64 g s .spcd) with
  | none => .trap (trapOf .illDst)
  | some d =>
    let t := g.s0.task
    let x := lo64 g.val
    if fld x 6 4 = 0 ∧ guessRecords t x ∧ !rowOk (withGuesses s t.spec) (acmpIter t x) (fld x 23 8) then .trap (trapOf .specEffect)
    else
      let h := t.spec.header.getD 0
      let s := timedResult (eat s [.spcd]) g d 4 .fixed none
      .ok (note s (.acmp x (readCarry t (freeTrig g.s0 g.slot) h) g.s0.seq g.seq))

/-- The carry that an acmp reads: a GUESS, OUT or LAST that records. -/
def acmpReads (s : State) (v : Row) : List RegDst :=
  let m := s.task.spec
  let it := iterAt m (acmpIter s.task (lo64 v))
  let records : Bool := match fld v 6 4 with
    | 0 => guessRecords s.task (lo64 v)
    | 2 | 3 => m.phase == .spec && decide (acmpIter s.task (lo64 v) < m.width) && !it.fail && it.co.isNone
    | _ => false
  if records then carryRegs (s.task.spec.header.getD 0) else []

/-- The carry that an acmp writes: RUN in GUESS, for a member that takes a carry. -/
def acmpWrites (s : State) (v : Row) : List RegDst :=
  let m := s.task.spec
  if fld v 6 4 = 1 ∧ m.phase = .guess ∧ (!m.team ∨ (iterOf s.task < m.width ∧ (iterAt m (iterOf s.task)).ci.isSome)) then
    carryRegs (m.header.getD 0) else []

def acmpAct1 (h : Head) (slot : Nat) : Act :=
  { spcAct h trigAcmp slot with imp := fun _ s v => acmpWrites s v, reads := acmpReads }

/-! ### scmt, sabt (R348, R349) -/

/-- In a team round the leader's trigger acts for the group. -/
def trigRoundEnd (x : Nat → Todo) : TrigFn := fun g s =>
  if leadsRound g.s0.task then .ok (note s (x g.s0.seq)) else .ok s

def roundWrites (ok : Madder → Bool) (s : State) : List RegDst :=
  if ok s.task.spec then carryRegs (s.task.spec.header.getD 0) else []

/-! ### apreg, fnext (R350, R353) -/

def trigApreg : TrigFn := fun g s =>
  if roundOpen g.s0.task.spec then .trap (trapOf .specEffect)
  else
    let t := lo64 g.val
    let b := rd64 g s .spcb
    let r : Region := { base := (rd64 g s .spca).toNat % 2 ^ 57 / 128 * 128, rb := atLeast1 (fld b 39 32), tail := fld b 31 0, hi := none }
    let s := eat s [.spca, .spcb]
    let l := setNth s.task.spec.regions (fld t 1 0) (if bitAt t 8 then none else some r)
    .ok { s with task := { s.task with spec := { s.task.spec with regions := l } } }

/-- FRAG, END and NOHDR. -/
def fnextVal (m : Madder) (sel : Nat) : Nat :=
  let byte := fun (n : Nat) => bitsOf (m.header.getD 0) (8 * n) 8
  let frag := match sel with
    | 0 => match m.phase with
      | .idle | .guess => byte 2
      | .spec => byte 3
      | .done => if m.fin then byte 5 else byte 4
    | 1 => byte 2
    | 2 => byte 3
    | _ => byte 4
  (if m.header.isNone then 0 else frag) + 2 ^ 8 * b2n (m.phase == .done && m.fin) + 2 ^ 9 * b2n m.header.isNone

def trigFnext : TrigFn := unitOp [] .spcd 2 fun g _ => .ok (BitVec.ofNat 1024 (fnextVal g.s0.task.spec (fld g.val 1 0)))

/-! ### The instructions -/

/-- sgo (R345). -/
def actSgo (h : Head) : Nat → Act := fun k =>
  { spcAct h trigSgo k with reads := fun _ _ => [] }
def execSgo (h : Head) (s : State) : Host.Outcome State Fault Refusal := issueOne (actSgo h) s
/-- acmp GUESS (R346). -/
def actAcmpGuess (h : Head) : Nat → Act := acmpAct1 h
def execAcmpGuess (h : Head) (s : State) : Host.Outcome State Fault Refusal := issueOne (actAcmpGuess h) s
/-- acmp RUN (R346). -/
def actAcmpRun (h : Head) : Nat → Act := acmpAct1 h
def execAcmpRun (h : Head) (s : State) : Host.Outcome State Fault Refusal := issueOne (actAcmpRun h) s
/-- acmp OUT (R346). -/
def actAcmpOut (h : Head) : Nat → Act := acmpAct1 h
def execAcmpOut (h : Head) (s : State) : Host.Outcome State Fault Refusal := issueOne (actAcmpOut h) s
/-- acmp LAST (R346). -/
def actAcmpLast (h : Head) : Nat → Act := acmpAct1 h
def execAcmpLast (h : Head) (s : State) : Host.Outcome State Fault Refusal := issueOne (actAcmpLast h) s
/-- acmp TAG, and any OP without an action (R346). -/
def actAcmpTag (h : Head) : Nat → Act := acmpAct1 h
def execAcmpTag (h : Head) (s : State) : Host.Outcome State Fault Refusal := issueOne (actAcmpTag h) s
/-- scmt (R348). -/
def actScmt (h : Head) : Nat → Act := fun k =>
  { spcAct h (trigRoundEnd .scmt) k with imp := fun _ s _ => roundWrites (fun m => m.phase == .spec) s }
def execScmt (h : Head) (s : State) : Host.Outcome State Fault Refusal := issueOne (actScmt h) s
/-- sabt (R349). -/
def actSabt (h : Head) : Nat → Act := fun k =>
  { spcAct h (trigRoundEnd .sabt) k with imp := fun _ s _ => roundWrites roundOpen s }
def execSabt (h : Head) (s : State) : Host.Outcome State Fault Refusal := issueOne (actSabt h) s
/-- apreg (R350). -/
def actApreg (h : Head) : Nat → Act := spcAct h trigApreg
def execApreg (h : Head) (s : State) : Host.Outcome State Fault Refusal := issueOne (actApreg h) s
/-- fnext (R353). -/
def actFnext (h : Head) : Nat → Act := spcAct h trigFnext
def execFnext (h : Head) (s : State) : Host.Outcome State Fault Refusal := issueOne (actFnext h) s

end Sys2Proof.Machine
end

