-- ==== Sys2Proof/Machine/Syn.lean ====
section
/-! DEFINITION. The synchronisation unit: launches from device code, dependence counters, schedule stages, barriers, heartbeat waits, engine commands, chunks (R202 to R206, R280 to R307, R396). -/

namespace Sys2Proof.Machine

def synAct (h : Head) (fn : TrigFn) : Nat → Act := trigAct unitSyn h fn

/-! ### spawn, spawnd (R204, R205) -/

/-- The faults of the record's read, row by row; bits [7:0] and [63:57] of the address are ignored. -/
def recordFault (s : State) (ra : Nat) : Except Trap State :=
  match translate s s.task.info.part accLoad ra with
  | .error c => .error (rowFault ra c)
  | .ok (s, _) => match translate s s.task.info.part accLoad (ra + 128) with
    | .error c => .error (rowFault (ra + 128) c)
    | .ok (s, _) => .ok s

/-- The status is on its way until the launch has been judged: within 64 issue cycles for spawn, before the parent's next bundle for spawnd. A deferred launch writes it at its drain. A spawnd of class F reads no record: its status is CLASSF (R205). -/
def trigSpawn (donate : Bool) : TrigFn := fun g s =>
  match destOf (rrbRead g.s0) (rd64 g s .synd) with
  | none => .trap (trapOf .illDst)
  | some d =>
    let ra := (rd64 g s .syna).toNat % 2 ^ 57 / 256 * 256
    match if donate ∧ s.task.info.cls = 0 then .ok s else recordFault s ra with
    | .error c => .trap c
    | .ok s =>
      let s := eat s [.syna, .synd]
      let k := MemKind.spawn ra (lo64 g.val) donate
      if speculative g.s0.task then match putOp g s k with
        | .ok s => .ok (deferResult s g d)
        | r => r
      else putOp g (timedResult s g d (if donate then 1 else 64) .fixed none) k

/-- The child of a spawnd has ended: its parent is ready, with the status (R205). -/
def childEnd (s : State) (inst : Nat) : State :=
  match findInst s inst with
  | none => s
  | some i => match findLaunch s i.seqno with
    | none => s
    | some l => if i.tasksLeft = 0 ∧ i.closed then parentResumes s l (if i.failed then stFailed else stDone) else s

/-! ### Counters, stages, barriers -/

def trigDcnt : TrigFn := fun g s => putOp g s (.dcnt (fld g.val 11 0))
def trigCstage : TrigFn := fun g s => putOp g s (.cstage (fld g.val 8 0))

/-- uien (R307): enabling needs a handler in entry 255. -/
def trigUien : TrigFn := fun g s =>
  if bitAt g.val 0 && (fragOf s.task.info.ftab 255).isNone then .trap (trapOf .trapInsn)
  else .ok { s with task := { s.task with uint := { s.task.uint with en := bitAt g.val 0 } } }

/-- bpost (R302). -/
def trigBpost : TrigFn := fun g s =>
  let n := fld (rd64 g s .syna) 5 0
  let s := eat s [.syna]
  .ok (thawBwaits (setBar s s.task.info n (post (getBar s s.task.info n) (fld g.val 31 0))))

/-- barv (R304). -/
def trigBarv : TrigFn := fun g s =>
  let a := rd64 g s .syna
  putOp g (eat s [.syna]) (.barv (fld a 5 0) (bitAt a 8) (fld g.val 31 0) (g.slot * 2 ^ 13 + g.s0.task.regs.pc))

/-- bwait (R303): one that returns is an acquire. -/
def trigBwait : TrigFn := fun g s =>
  let n := fld g.val 5 0
  let b := getBar s s.task.info n
  if b.broken then .trap (trapOf .barBroken)
  else if b.phase != bitAt g.val 8 then .ok (acquireCore s s.task)
  else .ok (freezeWith s (.bwait n (bitAt g.val 8) (g.slot * 2 ^ 13 + g.s0.task.regs.pc)))

/-- hbw (R206). -/
def hbTarget (hb : Nat) (x : W64) : Nat := if bitAt x 63 then fld x 62 0 else hb + atLeast1 (fld x 31 0)

def trigHbw : TrigFn := fun g s =>
  let n := hbTarget g.s0.clk.hb (lo64 g.val)
  .ok (if n ≤ g.s0.clk.hb then s else freezeWith s (.hbw n))

/-! ### Engine commands (R291, R295) -/

/-- The descriptor or command row, read as a local load in the trigger bundle; none where the read waits. -/
def commandRow (g : Trig) (s : State) (a : W64) : Except Trap (Option (State × Row)) :=
  let va := rowVa a
  if !isLocal va then .error (rowFault va .prot)
  else match resolve s accLoad va with
    | .error c => .error (accFault s va c)
    | .ok (s1, tgt) => match readRowNow s1 g.s0.task tgt with
      | none => .ok none
      | some (s2, x, bad) => if bad then .error (accFault s va .poison) else .ok (some (s2, x))

/-- Rows that a gather moves: per index or per tap (R293, R294). -/
def gatherRows (d : BitVec 1024) : Nat :=
  let n := bitsOf d (8 * 0x18) 32 * bitsOf d (8 * 0x24) 16
  if bitAt d (8 * 0x26) then n * (atLeast1 (bitsOf d (8 * 0x38) 8) * atLeast1 (bitsOf d (8 * 0x39) 8)) else n

/-- An engine command starts where fewer than `limit` of its kind are outstanding; inside a round it is deferred and waits for room at its drain. The row's checks come before the freeze for want of room (R34, R35). -/
def startCommand (limit : Nat) (op : Row → EngOp) : TrigFn := fun g s =>
  let mine := fun (e : MemOp) => match e.kind with
    | .engine o => o.kind == (op 0).kind
    | _ => false
  let full := !speculative g.s0.task &&
    decide (limit ≤ ((opsOf s s.task.uid).filter fun o => o.kind == (op 0).kind).length + (s.task.memq.filter mine).length)
  match commandRow g s (rd64 g s .syna) with
    | .error c => .trap c
    | .ok none => .stall
    | .ok (some (s, x)) => if full then .stall else putOp g (eat s [.syna, .synb]) (.engine (op x))

def newOp (kind : EngKind) (d : BitVec 1024) (start total : Nat) (cw : W64) : EngOp :=
  { id := 0, owner := 0, kind := kind, desc := d, start := start, row := 0, total := total, cw := cw
    tag := false, status := 0, trigger := 0, buf := [], bad := [], stopped := false, steps := 0, after := 0, ranks := 0 }

def trigGth : TrigFn := fun g s =>
  startCommand 16 (fun d => newOp .gather d (fld g.val 31 0) (gatherRows d) (rd64 g s .synb)) g s

def trigColl : TrigFn := fun g s =>
  startCommand 8 (fun d => { newOp .coll d (lo64 g.val).toNat (collSrcRows d) (rd64 g s .synb) with trigger := g.s0.clk.ftime }) g s

/-! ### esend (R396) -/

/-- The row is read in the trigger bundle; the status lands within 16 issue cycles, of a deferred esend at its drain. -/
def trigEsend : TrigFn := fun g s =>
  match destOf (rrbRead g.s0) (rd64 g s .synd) with
  | none => .trap (trapOf .illDst)
  | some d =>
    let va := rowVa (rd64 g s .syna)
    let p := va % 2 ^ 21 / 16384
    if !isLocal va then .trap (rowFault va .prot)
    else if bitAt (ownersAt s.task) p then .trap (rowFault va .owner)
    else if (stashOfPlate s.task p).isSome then .trap (rowFault va .prot)
    else
      let b := rd64 g s .synb
      let tgt := Target.plate (va % 2 ^ 21 / 128)
      if !speculative g.s0.task && decide (8 ≤ s.task.egress.length) then .stall
      else match readRowNow s g.s0.task tgt with
      | none => .stall
      | some (s, x, bad) =>
        if speculative g.s0.task then
          match putOp g (eat s [.syna, .synb, .synd]) (.esend (fld b 13 0) (fld b 63 32) (lo64 g.val).toNat x bad) with
          | .ok s => .ok (deferResult s g d)
          | r => r
        else
          let (s, st) := postChunk (eat s [.syna, .synb, .synd]) (fld b 13 0) (fld b 63 32) (lo64 g.val).toNat x bad
          .ok { s with task := sendResult s.task d (BitVec.ofNat 1024 st) (g.cyc + 16) g.seq }

/-! ### The instructions -/

/-- spawn (R204). -/
def actSpawn (h : Head) : Nat → Act := synAct h (trigSpawn false)
def execSpawn (h : Head) (s : State) : Host.Outcome State Fault Refusal := issueOne (actSpawn h) s
/-- spawnd (R205). -/
def actSpawnd (h : Head) : Nat → Act := synAct h (trigSpawn true)
def execSpawnd (h : Head) (s : State) : Host.Outcome State Fault Refusal := issueOne (actSpawnd h) s
/-- A spawnd's child has ended (R205). -/
def execSpawndChildEnd (inst : Nat) (s : State) : Host.Outcome State Fault Refusal := .next (childEnd s inst)
/-- dcnt (R202). -/
def actDcnt (h : Head) : Nat → Act := synAct h trigDcnt
def execDcnt (h : Head) (s : State) : Host.Outcome State Fault Refusal := issueOne (actDcnt h) s
/-- cstage (R290). -/
def actCstage (h : Head) : Nat → Act := synAct h trigCstage
def execCstage (h : Head) (s : State) : Host.Outcome State Fault Refusal := issueOne (actCstage h) s
/-- uien (R307). -/
def actUien (h : Head) : Nat → Act := synAct h trigUien
def execUien (h : Head) (s : State) : Host.Outcome State Fault Refusal := issueOne (actUien h) s
/-- bpost (R302). -/
def actBpost (h : Head) : Nat → Act := synAct h trigBpost
def execBpost (h : Head) (s : State) : Host.Outcome State Fault Refusal := issueOne (actBpost h) s
/-- barv (R304). -/
def actBarv (h : Head) : Nat → Act := synAct h trigBarv
def execBarv (h : Head) (s : State) : Host.Outcome State Fault Refusal := issueOne (actBarv h) s
/-- bwait (R303). -/
def actBwait (h : Head) : Nat → Act := synAct h trigBwait
def execBwait (h : Head) (s : State) : Host.Outcome State Fault Refusal := issueOne (actBwait h) s
/-- hbw (R206). -/
def actHbw (h : Head) : Nat → Act := synAct h trigHbw
def execHbw (h : Head) (s : State) : Host.Outcome State Fault Refusal := issueOne (actHbw h) s
/-- gth (R291). -/
def actGth (h : Head) : Nat → Act := synAct h trigGth
def execGth (h : Head) (s : State) : Host.Outcome State Fault Refusal := issueOne (actGth h) s
/-- coll (R295). -/
def actColl (h : Head) : Nat → Act := synAct h trigColl
def execColl (h : Head) (s : State) : Host.Outcome State Fault Refusal := issueOne (actColl h) s
/-- esend (R396). -/
def actEsend (h : Head) : Nat → Act := synAct h trigEsend
def execEsend (h : Head) (s : State) : Host.Outcome State Fault Refusal := issueOne (actEsend h) s

end Sys2Proof.Machine
end

