-- ==== Sys2Proof/Machine/Fun.lean ====
section
/-! DEFINITION. The correctly rounded functions of the transcendental unit: exact integer arithmetic for sqrt, rcp and rsq, intervals of rising precision for the others (R71, R72, R137). -/

namespace Sys2Proof.Machine

/-- Integer square root: the bits from 2^k down. -/
def isqrtBits (n : Nat) : Nat → Nat → Nat
  | 0, r => if (r + 1) * (r + 1) ≤ n then r + 1 else r
  | k + 1, r => isqrtBits n k (if (r + 2 ^ (k + 1)) * (r + 2 ^ (k + 1)) ≤ n then r + 2 ^ (k + 1) else r)

def isqrt (n : Nat) : Nat := isqrtBits n (bitLen n / 2 + 1) 0

/-- A positive value m · 2^e plus a sticky remainder into a format (R55), with the bf16 flush of R74. -/
def roundPos (ver1 : Bool) (f : Fmt) (s : Bool) (m : Nat) (e : Int) (sticky : Bool) : Nat :=
  if flushes ver1 f (.fin s m e) then zeroPat f s else roundPat f 0 s m e sticky

/-- √(m · 2^e), rounded (m ≠ 0). -/
def sqrtPat (ver1 : Bool) (f : Fmt) (m : Nat) (e : Int) : Nat :=
  let (m1, e1) := if e % 2 = 0 then (m, e) else (2 * m, e - 1)
  let n := m1 * 2 ^ 128
  let r := isqrt n
  roundPos ver1 f false r (e1 / 2 - 64) (r * r != n)

/-- 1 / (m · 2^e), rounded. -/
def rcpPat (ver1 : Bool) (f : Fmt) (s : Bool) (m : Nat) (e : Int) : Nat :=
  let q := 2 ^ 128 / m
  roundPos ver1 f s q (-e - 128) (2 ^ 128 % m != 0)

/-- 1 / √(m · 2^e), rounded. -/
def rsqPat (ver1 : Bool) (f : Fmt) (m : Nat) (e : Int) : Nat :=
  let (m1, e1) := if e % 2 = 0 then (m, e) else (2 * m, e - 1)
  let r := isqrt (2 ^ 256 / m1)
  roundPos ver1 f false r (-(e1 / 2) - 128) (r * r * m1 != 2 ^ 256)

/-! Fixed point: an integer x stands for x · 2^−P. -/

/-- Σ z^(2i+1) / (2i+1), from the running power: atanh of a fixed-point z in [0, 1/3]. -/
def atanhSum (P z2 : Nat) : Nat → Nat → Nat → Nat
  | 0, _, _ => 0
  | n + 1, pw, i => pw / (2 * i + 1) + atanhSum P z2 n (pw * z2 / 2 ^ P) (i + 1)

def atanhFix (P z : Nat) : Nat := atanhSum P (z * z / 2 ^ P) (P / 3 + 8) z 0

/-- ln 2 = 2 atanh(1/3). -/
def ln2Fix (P : Nat) : Nat := 2 * atanhFix P (2 ^ P / 3)

/-- ln(m · 2^e) for m ≠ 0: the exponent's share and 2 atanh((x − 1)/(x + 1)) of the mantissa in [1, 2). -/
def lnFix (P : Nat) (m : Nat) (e : Int) : Int :=
  let k := bitLen m - 1
  let z := (m - 2 ^ k) * 2 ^ P / (m + 2 ^ k)
  (e + k) * ln2Fix P + 2 * atanhFix P z

/-- Σ r^i / i! for a fixed-point r in [0, 1). -/
def expSum (P r : Nat) : Nat → Nat → Nat → Nat
  | 0, _, _ => 0
  | n + 1, term, i => term + expSum P r n (term * r / 2 ^ P / (i + 1)) (i + 1)

/-- e^y for a fixed-point y: a mantissa at 2^−P and an exponent k. -/
def expFix (P : Nat) (y : Int) : Nat × Int :=
  let l : Int := ln2Fix P
  let k := y / l
  (expSum P (y - k * l).toNat (P / 2 + 8) (2 ^ P) 0, k)

/-- A dyadic value in fixed point, toward minus infinity. -/
def toFix (P : Nat) (s : Bool) (m : Nat) (e : Int) : Int :=
  let x : Int := if s then -(m : Int) else m
  if e + P ≥ 0 then x * 2 ^ (e + P).toNat else x / 2 ^ (-(e + P)).toNat

/-- The result of an interval [x − err, x + err] · 2^e, if both ends round alike. -/
def roundIv (ver1 : Bool) (f : Fmt) (x err e : Int) : Option Nat :=
  let lo := x - err
  let hi := x + err
  if lo ≤ 0 ∧ 0 ≤ hi then none
  else
    let a := encodeV ver1 f 0 (.fin (decide (lo < 0)) lo.natAbs e)
    let b := encodeV ver1 f 0 (.fin (decide (hi < 0)) hi.natAbs e)
    if a = b then some a else none

/-- The first precision that decides; at the last one the middle of the interval (log 11). -/
def tryPrec (ver1 : Bool) (f : Fmt) (g : Nat → Int × Int × Int) : List Nat → Nat
  | [] => 0
  | [P] => let (x, _, e) := g P; encodeV ver1 f 0 (.fin (decide (x < 0)) x.natAbs e)
  | P :: t => let (x, err, e) := g P
    match roundIv ver1 f x err e with
    | some r => r
    | none => tryPrec ver1 f g t

def precs : List Nat := [128, 256, 512, 1024]

/-- The functions of R137. -/
inductive LgOp where
  | lg2 | ln | ex2 | exp | rcp | rsq | sqrt | tanh | sigm
  deriving DecidableEq, Repr

/-- Error bound of the fixed-point evaluations, in units of the last place. -/
def fixErr : Int := 2 ^ 32

/-- ln of a positive value m · 2^e other than 1, and lg2 of one that is no power of two. -/
def lnPat (ver1 : Bool) (f : Fmt) (m : Nat) (e : Int) : Nat :=
  tryPrec ver1 f (fun P => (lnFix P m e, fixErr, -(P : Int))) precs

def lg2Pat (ver1 : Bool) (f : Fmt) (m : Nat) (e : Int) : Nat :=
  tryPrec ver1 f (fun P => (lnFix P m e * 2 ^ P / ln2Fix P, fixErr * 2 ^ 10, -(P : Int))) precs

/-- e^(m · 2^e), |x| below 256. -/
def expPat (ver1 : Bool) (f : Fmt) (s : Bool) (m : Nat) (e : Int) : Nat :=
  tryPrec ver1 f (fun P => let (a, k) := expFix P (toFix P s m e); ((a : Int), fixErr, k - P)) precs

/-- 2^x, x no integer: e^(x ln 2). -/
def ex2Pat (ver1 : Bool) (f : Fmt) (s : Bool) (m : Nat) (e : Int) : Nat :=
  tryPrec ver1 f (fun P =>
    let (a, k) := expFix P (toFix P s m e * ln2Fix P / 2 ^ P); ((a : Int), fixErr * 2 ^ 10, k - P)) precs

/-- E = e^−|x| in fixed point at 2^−P. -/
def expNeg (P m : Nat) (e : Int) : Int :=
  let (a, k) := expFix P (toFix P true m e)
  if k ≥ 0 then (a : Int) * 2 ^ k.toNat else (a : Int) / 2 ^ (-k).toNat

/-- tanh of a finite non-zero x: x itself with the bound x − x³/3 below 2^−30, else (1 − E²)/(1 + E²). -/
def tanhPat (ver1 : Bool) (f : Fmt) (s : Bool) (m : Nat) (e : Int) : Nat :=
  if e + bitLen m ≤ -30 then
    -- just below |x|: rounds to x in every format of R137
    encodeV ver1 f 0 (.fin s (m * 2 ^ 64 - 1) (e - 64))
  else if e + bitLen m > 8 then encodeF f 0 (.fin s 1 0)
  else
    let sg : Int := if s then -1 else 1
    tryPrec ver1 f (fun P =>
      let E := expNeg P m (e + 1)
      (sg * ((2 ^ P - E) * 2 ^ P / (2 ^ P + E)), fixErr, -(P : Int))) precs

/-- 1 / (1 + e^−x) of a finite x. -/
def sigmPat (ver1 : Bool) (f : Fmt) (s : Bool) (m : Nat) (e : Int) : Nat :=
  if m = 0 then encodeF f 0 (.fin false 1 (-1))
  else if e + bitLen m > 8 then (if s then zeroPat f false else encodeF f 0 (.fin false 1 0))
  else
    tryPrec ver1 f (fun P =>
      -- relative precision for small results: work 384 bits deeper
      let Q := P + 384
      let E := expNeg Q m e
      ((if s then E * 2 ^ Q / (2 ^ Q + E) else 2 ^ Q * 2 ^ Q / (2 ^ Q + E)), fixErr, -(Q : Int))) precs

/-- A function of R137 on a decoded value, with the special values of R71. -/
def lgFun (ver1 : Bool) (f : Fmt) (op : LgOp) (v : FV) : Nat :=
  let inf := fun s => encodeF f 0 (.inf s)
  let zero := fun s => zeroPat f s
  let one := fun s => encodeF f 0 (.fin s 1 0)
  match v with
  | .nan => f.nan
  | .inf s => match op with
    | .lg2 | .ln => if s then f.nan else inf false
    | .ex2 | .exp => if s then zero false else inf false
    | .rcp => zero s
    | .rsq => if s then f.nan else zero false
    | .sqrt => if s then f.nan else inf false
    | .tanh => one s
    | .sigm => if s then zero false else one false
  | .fin s m e =>
    if m = 0 then match op with
      | .lg2 | .ln => inf true
      | .ex2 | .exp => one false
      | .rcp => inf s
      | .rsq => inf s
      | .sqrt | .tanh => zero s
      | .sigm => encodeF f 0 (.fin false 1 (-1))
    else match op with
      | .ln => if s then f.nan else if cmpF v (ofInt 1) == .eq then zero false else lnPat ver1 f m e
      | .lg2 => if s then f.nan
        else if m = 2 ^ (bitLen m - 1) then
          encodeV ver1 f 0 (ofInt (e + ((bitLen m - 1 : Nat) : Int)))
        else lg2Pat ver1 f m e
      | .exp => if e + bitLen m > 8 then (if s then zero false else inf false) else expPat ver1 f s m e
      | .ex2 => if e + bitLen m > 8 then (if s then zero false else inf false)
        else if e ≥ 0 ∨ m % 2 ^ (-e).toNat = 0 then
          let k : Int := if e ≥ 0 then m * 2 ^ e.toNat else ((m / 2 ^ (-e).toNat : Nat) : Int)
          encodeV ver1 f 0 (.fin false 1 (if s then -k else k))
        else ex2Pat ver1 f s m e
      | .rcp => rcpPat ver1 f s m e
      | .rsq => if s then f.nan else rsqPat ver1 f m e
      | .sqrt => if s then f.nan else sqrtPat ver1 f m e
      | .tanh => tanhPat ver1 f s m e
      | .sigm => sigmPat ver1 f s m e

/-- gmb of an fp32 pattern (R72). -/
def gmbPat (u : Nat) : Nat :=
  let a := lgFun false fmt32 .ln (decodeF fmt32 u)
  let b := negF (decodeF fmt32 a)
  let c := lgFun false fmt32 .ln b
  if isNaNPat 12 c then fmt32.nan else (c + 2 ^ 31) % 2 ^ 32

end Sys2Proof.Machine
end

