-- ==== Sys2Proof/Machine/Vec.lean ====
section
/-! DEFINITION. The vector unit, the transcendental unit and the sort unit (R120 to R150). -/

namespace Sys2Proof.Machine

/-! ### The type word and the mask (R49, R120, R121) -/

/-- What every vec operation reads: type, rounding mode, saturation, lane width and count, mask, first-generation rules. -/
structure VecCfg where
  ty : Nat
  rm : Nat
  sat : Bool
  w : Nat
  n : Nat
  k : Row
  v1 : Bool
  deriving DecidableEq, Repr

def typeWord (y k : Row) (v1 : Bool) : VecCfg :=
  let ty := tyOf (lo64 y)
  { ty := ty, rm := fld y 5 4, sat := bitAt y 6, w := tyWidth ty, n := 1024 / tyWidth ty, k := k, v1 := v1 }

def tyArith (ty : Nat) : Bool := decide (ty < 8) || decide (10 ≤ ty ∧ ty ≤ 12)
def tyAny (ty : Nat) : Bool := decide (ty ≤ 12)
def tyMaxi (ty : Nat) : Bool := decide (ty ≤ 5) || decide (10 ≤ ty ∧ ty ≤ 12)
def tyFloat (ty : Nat) : Bool := decide (10 ≤ ty ∧ ty ≤ 12)

/-- A vec operation: the accepted types, the ports beside k, y and d, the latency bound, and the result row. -/
def vecTrig (ports : List Port) (lat : Nat) (ok : Nat → Bool) (f : Trig → VecCfg → (Port → Row) → Row) : TrigFn :=
  unitOp (.veck :: .vecy :: ports) .vecd lat fun g r =>
    let c := typeWord (r .vecy) (r .veck) (ver1 g.s0.task)
    if ok c.ty then .ok (f g c r) else .error (trapOf .illType)

/-- Active lanes by the operation, inactive ones by the pass-through (R122). -/
def mapLanes (c : VecCfg) (op pass : Nat → Nat) : Row :=
  packRow c.w ((List.range c.n).map fun i => if bitAt c.k i then op i else pass i)

/-- A mask result (R122). -/
def maskLanes (c : VecCfg) (op : Nat → Bool) : Row := maskRow ((List.range c.n).map fun i => bitAt c.k i && op i)

/-- Element-wise operations of a and t, and of t alone, with their pass-through. -/
def vec2 (lat : Nat) (ok : Nat → Bool) (f : VecCfg → Nat → Nat → Nat) : TrigFn :=
  vecTrig [.veca] lat ok fun g c r => mapLanes c (fun i => f c (laneN (r .veca) c.w i) (laneN g.val c.w i)) (laneN (r .veca) c.w)
def vec1 (lat : Nat) (ok : Nat → Bool) (f : VecCfg → Nat → Nat) (pass : Nat → Nat) : TrigFn :=
  vecTrig [] lat ok fun g c _ => mapLanes c (fun i => f c (laneN g.val c.w i)) fun i => pass (laneN g.val c.w i)
def vecCmp (f : VecCfg → Nat → Nat → Bool) : TrigFn :=
  vecTrig [.veca] 2 tyArith fun g c r => maskLanes c fun i => f c (laneN (r .veca) c.w i) (laneN g.val c.w i)

/-! ### Lane arithmetic (R123, R124) -/

def laneOp (fi : Int → Int → Int) (ff : Nat → FV → FV → FV) (c : VecCfg) (a t : Nat) : Nat :=
  if tyInt c.ty then laneInt c.ty c.sat (fi (intVal c.ty a) (intVal c.ty t)) else lane2 c.v1 c.ty c.rm (ff c.rm) a t

def vaddLane : VecCfg → Nat → Nat → Nat := laneOp (· + ·) addF
def vsubLane : VecCfg → Nat → Nat → Nat := laneOp (· - ·) fun rm x y => addF rm x (negF y)
def vmulLane : VecCfg → Nat → Nat → Nat := laneOp (· * ·) fun _ x y => mulF x y

/-- c + a × t with one rounding. -/
def vfmaLane (c : VecCfg) (a t x : Nat) : Nat :=
  if tyInt c.ty then laneInt c.ty c.sat (intVal c.ty x + intVal c.ty a * intVal c.ty t)
  else
    let f := tyFmt c.ty
    encodeV c.v1 f c.rm (addF c.rm (decodeF f x) (mulF (decodeF f a) (decodeF f t)))

/-- The sign bit alone, in a floating-point lane (R54). -/
def vabsLane (c : VecCfg) (t : Nat) : Nat :=
  if tyInt c.ty then laneInt c.ty c.sat (intVal c.ty t).natAbs else t % 2 ^ (c.w - 1)
def vnegLane (c : VecCfg) (t : Nat) : Nat :=
  if tyInt c.ty then laneInt c.ty c.sat (-(intVal c.ty t)) else (t + 2 ^ (c.w - 1)) % 2 ^ c.w

/-- Shifts by a lane (R125). -/
def vshlLane (c : VecCfg) (a t : Nat) : Nat := if c.w ≤ t then 0 else a * 2 ^ t % 2 ^ c.w
def vshrLane (c : VecCfg) (a t : Nat) : Nat := if c.w ≤ t then 0 else a / 2 ^ t
def vsarLane (c : VecCfg) (a t : Nat) : Nat := wrapN c.w (sgn c.w a / (2 ^ min t c.w : Nat))

/-- Comparisons (R126): integers by their type's order, floats as reals, false with a NaN. -/
def laneCmp (ok : Ordering → Bool) (c : VecCfg) (a t : Nat) : Bool :=
  if tyInt c.ty then ok (compare (intVal c.ty a) (intVal c.ty t))
  else !isNaNPat c.ty a && !isNaNPat c.ty t && ok (cmpF (decodeF (tyFmt c.ty) a) (decodeF (tyFmt c.ty) t))

/-! ### vcvt, element moves, permutes (R127 to R131) -/

def vcvtRow (v1 : Bool) (t k : Row) (ty tz rm : Nat) (sat : Bool) : Row :=
  let e := min (1024 / tyWidth ty) (1024 / tyWidth tz)
  packRow (tyWidth tz) ((List.range e).map fun i => if bitAt k i then convert v1 (laneN t (tyWidth ty) i) ty tz rm sat else 0)

def trigVcvt : TrigFn := unitOp [.veck, .vecy, .vecz] .vecd 3 fun g r =>
  let ty := tyOf (lo64 (r .vecy))
  let tz := tyOf (lo64 (r .vecz))
  if tyAny ty && tyAny tz then
    .ok (vcvtRow (ver1 g.s0.task) g.val (r .veck) ty tz (fld (r .vecz) 5 4) (bitAt (r .vecz) 6))
  else .error (trapOf .illType)

/-- An element as a scalar: sign-extended for i types (R129). -/
def elemScalar (ty x : Nat) : Row := row64 (BitVec.ofNat 64 (if tySigned ty then wrapN 64 (intVal ty x) else x))

def vextRow (c : VecCfg) (a t : Row) : Row :=
  let j := (lo64 t).toNat
  if j < c.n ∧ bitAt c.k j then elemScalar c.ty (laneN a c.w j) else 0

def vinsRow (c : VecCfg) (a b t : Row) : Row :=
  let j := (lo64 b).toNat
  if j < c.n ∧ bitAt c.k j then setLane a c.w j (laneN t c.w 0) else a

def vpermLane (c : VecCfg) (a b : Row) (j : Nat) : Nat :=
  if j < c.n then laneN a c.w j else if j < 2 * c.n then laneN b c.w (j - c.n) else 0

/-- The 128 bytes of a and b from offset o (R131). -/
def joinAt (a b : Row) (o : Nat) : Row := BitVec.ofNat 1024 ((a.toNat + 2 ^ 1024 * b.toNat) / 2 ^ (8 * o))

/-! ### Reductions (R68, R132, R133) -/

def actLanes (c : VecCfg) (t : Row) (id : Nat) : List Nat :=
  (List.range c.n).map fun i => if bitAt c.k i then laneN t c.w i else id

def noneActive (c : VecCfg) : Bool := (List.range c.n).all fun i => !bitAt c.k i

def vsumLane (c : VecCfg) (t : Row) : Nat :=
  let add := laneAdd c.v1 c.ty c.rm
  match actLanes c t (idSum c.ty) with
  | [] => 0
  | x :: r => if c.v1 then r.foldl add x else treeN add 0 7 (x :: r)

def vredLane (op : Nat → Nat → Nat → Nat) (id : Nat → Nat) (c : VecCfg) (t : Row) : Nat :=
  if noneActive c && tyInt c.ty then 0 else treeN (op c.ty) 0 7 (actLanes c t (id c.ty))

def vecRed (f : VecCfg → Row → Nat) : TrigFn := vecTrig [] 8 tyArith fun g c _ => packRow c.w [f c g.val]

/-- vmaxi's winner: the index of the best active lane, lowest first. -/
def maxiIdx (c : VecCfg) (t : Row) : Option Nat :=
  (List.range c.n).foldl (fun a i =>
    if !bitAt c.k i || (!tyInt c.ty && isNaNPat c.ty (laneN t c.w i)) then a
    else match a with
      | none => some i
      | some b => if beats c.ty (laneN t c.w b) (laneN t c.w i) then some i else some b) none

def vmaxiRow (c : VecCfg) (t : Row) : Row := match maxiIdx c t with
  | some i => packRow 32 [laneN t c.w i, i]
  | none => packRow 32 [if tyInt c.ty then 0 else (tyFmt c.ty).nan, 0xffffffff]

/-! ### Bitmaps and bounds (R134, R135) -/

/-- The bits below bit w − 1 that equal it, all of them (log 23). -/
def vclsLane (c : VecCfg) (t : Nat) : Nat :=
  let ones := popcN (c.w - 1) (t % 2 ^ (c.w - 1))
  if t / 2 ^ (c.w - 1) % 2 = 1 then ones else c.w - 1 - ones

def viotaRow (c : VecCfg) (t : Row) : Row :=
  mapLanes c (fun i => (laneN t c.w 0 + popcN i (c.k.toNat % 2 ^ i)) % 2 ^ c.w) fun _ => 0

def vsqzRow (c : VecCfg) (t : Row) : Row :=
  packRow c.w (((List.range c.n).filter fun i => bitAt c.k i).map (laneN t c.w))

def vbndRow (on : Bool) (c : VecCfg) (t b : Row) : Row :=
  maskLanes c fun i => !on || !(laneCmp (· == .lt) c (laneN t c.w i) (laneN b c.w 0))

/-! ### The transcendental unit (R136 to R142) -/

/-- A function of every lane; no mask. -/
def lgTrig (lat : Nat) (ok : Nat → Bool) (f : Bool → Nat → Nat → Nat) : TrigFn :=
  unitOp [.lgy] .lgd lat fun g r =>
    let ty := tyOf (lo64 (r .lgy))
    if ok ty then .ok (packRow (tyWidth ty) ((lanesN g.val (tyWidth ty) (1024 / tyWidth ty)).map (f (ver1 g.s0.task) ty)))
    else .error (trapOf .illType)

def lgOpTrig (lat : Nat) (op : LgOp) : TrigFn :=
  lgTrig lat tyFloat fun v1 ty x => lgFun v1 (tyFmt ty) op (decodeF (tyFmt ty) x)

/-- The mixing of rnd (R141). -/
def rndMix (x mul : Nat) : Nat := (x ^^^ (x / 2 ^ 31)) * mul % 2 ^ 64

def rndLane (key p stream d : Nat) : Nat :=
  let x := key ^^^ (p * 0x9E3779B97F4A7C15 % 2 ^ 64) ^^^ (stream * 2 ^ 24 ||| d)
  let x := rndMix (rndMix x 0xBF58476D1CE4E5B9) 0x94D049BB133111EB
  encodeF fmt32 1 (.fin false (2 * (x / 2 ^ 40) + 1) (-25))

/-- A draw index, saturated. -/
def drawOf (x : Nat) : Nat := if 0xffffff < x then 0xffffff else x

/-- Offset of lane i's table word. -/
def rndOff (b : Row) (d : Nat) : Nat := (bitsOf b 0 21 / 4 * 4 + 4 * ((bitsOf b 64 64 + d) % 2 ^ 64)) % 2 ^ 21

/-- The first lane whose table word may not be read. -/
def rndFault (t : Task) (offs : List Nat) : Option Trap :=
  (List.range offs.length).findSome? fun i =>
    let o := nth offs i 0
    let va := 2 ^ 57 - 2 ^ 21 + o
    if bitAt (ownersAt t) (o / 16384) then some { cause := .owner, lane := i, addr := va }
    else if (stashOfPlate t (o / 16384)).isSome then some { cause := .prot, lane := i, addr := va }
    else none

/-- The lanes of a table read. -/
def rndLanes (offs : List Nat) : List Lane :=
  (List.range offs.length).map fun i => { i := i, tgt := .plate (nth offs i 0 / 128), off := nth offs i 0 % 128, val := 0, cmp := 0 }

/-- rnd in either mode, as lg.y[6] says (R140, R141). A replay's table read takes its place in the load queue order like an ldx of its plates; a speculative one sees its iteration's own view (R142, R277, R356). -/
def trigRnd : TrigFn := fun g s =>
  match destOf (rrbRead g.s0) (rd64 g s .lgd) with
  | none => .trap (trapOf .illDst)
  | some dst =>
    let y := rd g s .lgy
    if fld y 3 0 ≠ 12 then .trap (trapOf .illType)
    else
      let b := rd g s .lgb
      let raw := lanesN g.val 32 32
      let ds := raw.map drawOf
      let sat := raw.any fun x => decide (0xffffff < x)
      let fin := fun (s : State) (x : Option (Row × Bool)) =>
        let s := eat s [.lgy, .lgd, .lgb]
        let tm := s.task.time
        let t : Task := { s.task with time := { tm with rngs := if sat then 1 else tm.rngs } }
        TR.ok { s with task := addFlight t { dest := dst.norm, kind := .fixed, val := x.map Prod.fst, poison := x.elim false Prod.snd, due := g.cyc + 6, seq := g.seq, dead := false, landed := false } }
      if !bitAt y 6 then
        let p := bitsOf b 64 40 + fld y 5 4
        if 2 ^ 40 ≤ p then .trap (trapOf .rngPos)
        else fin s (some (packRow 32 (ds.map (rndLane (bitsOf b 0 64) p (bitsOf b 104 24))), false))
      else if bitsOf b 21 36 ≠ 2 ^ 36 - 1 then .trap (trapOf .prot)
      else
        let offs := ds.map (rndOff b)
        match rndFault g.s0.task offs with
        | some c => .trap c
        | none =>
          if speculative g.s0.task then
            let sh := mySnap g.s0.task g.seq
            let (s, xs, p) := (rndLanes offs).foldl (ldxLane (fun s x => specRead s sh x) 32) (s, [], false)
            fin s (some (lanesRow 32 xs, p))
          else fin { s with task := { s.task with memq := s.task.memq ++ [{ seq := g.seq, kind := .ldx 32 (rndLanes offs) }] } } none

/-! ### The sort unit (R144 to R150) -/

/-- Value order (R144). -/
def ranksAbove (e f : Cand) : Bool := match cmpF (decodeF fmt32 e.val.toNat) (decodeF fmt32 f.val.toNat) with
  | .gt => true
  | .eq => decide (e.idx.toNat < f.idx.toNat)
  | .lt => false

def insCand (e : Cand) : List Cand → List Cand
  | [] => [e]
  | f :: t => if ranksAbove e f then e :: f :: t else f :: insCand e t

/-- smrg: 32 candidates in lane order, NaN left out, the best 64 kept (R147). -/
def mergeLake (l : Lake) (t : Row) (base : Nat) : Lake :=
  let cs := (List.range 32).filterMap fun i =>
    if isNaNPat 12 (laneN t 32 i) then none
    else some { val := BitVec.ofNat 32 (laneN t 32 i), idx := BitVec.ofNat 32 (base + i) : Cand }
  { entries := (cs.foldl (fun a c => insCand c a) l.entries).take 64, ord := false }

def setLake (s : State) (l : Lake) : State := { s with task := { s.task with lake := l } }

def trigSclr : TrigFn := fun _ s => .ok (setLake s { entries := [], ord := false })
def trigSmrg : TrigFn := fun g s => .ok (setLake (eat s [.srtb]) (mergeLake s.task.lake g.val (fld (rd64 g s .srtb) 31 0)))
def trigSsort : TrigFn := fun _ s => .ok (setLake s { s.task.lake with ord := true })

/-- srd (R148). -/
def srdRow (l : Lake) (t : Row) : Row :=
  if bitAt t 8 then BitVec.ofNat 1024 l.entries.length
  else
    let v := lakeView l
    packRow 64 ((List.range 16).map fun j => match v[fld t 7 0 + j]? with
      | some c => c.val.toNat + 2 ^ 32 * c.idx.toNat
      | none => 0x7FC00000 + 2 ^ 32 * 0xFFFFFFFF)

/-- The weights in value order, and their running sums (R150). -/
def weightsOf (l : Lake) (tau : Nat) : List Nat := match l.entries with
  | [] => []
  | c :: _ => l.entries.map fun e =>
    let dlt := lane2 false 12 0 (fun x y => addF 0 x (negF y)) e.val.toNat c.val.toNat
    lgFun false fmt32 .exp (decodeF fmt32 (lane2 false 12 0 mulF dlt tau))

def runSums : Nat → List Nat → List Nat
  | _, [] => []
  | a, w :: t => let x := lane2 false 12 0 (addF 0) a w; x :: runSums x t

def cumSums : List Nat → List Nat
  | [] => []
  | w :: t => w :: runSums w t

def scsumRow (l : Lake) (t : Row) : Row :=
  let cs := cumSums (weightsOf l (laneN t 32 0))
  packRow 32 ((List.range 32).map fun i => (cs[laneN t 8 4 + i]?).getD 0x7FC00000)

/-! ### Acts and meanings -/

/-- vadd (R124). -/
def actVadd (h : Head) : Nat → Act := trigAct unitVec h (vec2 2 tyArith vaddLane)
def execVadd (h : Head) (s : State) : Host.Outcome State Fault Refusal := issueOne (actVadd h) s

/-- vsub (R124). -/
def actVsub (h : Head) : Nat → Act := trigAct unitVec h (vec2 2 tyArith vsubLane)
def execVsub (h : Head) (s : State) : Host.Outcome State Fault Refusal := issueOne (actVsub h) s

/-- vmul (R124). -/
def actVmul (h : Head) : Nat → Act := trigAct unitVec h (vec2 3 tyArith vmulLane)
def execVmul (h : Head) (s : State) : Host.Outcome State Fault Refusal := issueOne (actVmul h) s

/-- vfma (R124). -/
def actVfma (h : Head) : Nat → Act := trigAct unitVec h (vecTrig [.veca, .vecc] 4 tyArith fun g c r =>
  mapLanes c (fun i => vfmaLane c (laneN (r .veca) c.w i) (laneN g.val c.w i) (laneN (r .vecc) c.w i)) (laneN (r .vecc) c.w))
def execVfma (h : Head) (s : State) : Host.Outcome State Fault Refusal := issueOne (actVfma h) s

/-- vmin (R69, R124). -/
def actVmin (h : Head) : Nat → Act := trigAct unitVec h (vec2 2 tyArith fun c => laneMin c.ty)
def execVmin (h : Head) (s : State) : Host.Outcome State Fault Refusal := issueOne (actVmin h) s

/-- vmax (R69, R124). -/
def actVmax (h : Head) : Nat → Act := trigAct unitVec h (vec2 2 tyArith fun c => laneMax c.ty)
def execVmax (h : Head) (s : State) : Host.Outcome State Fault Refusal := issueOne (actVmax h) s

/-- vabs (R54, R124). -/
def actVabs (h : Head) : Nat → Act := trigAct unitVec h (vec1 2 tyArith vabsLane id)
def execVabs (h : Head) (s : State) : Host.Outcome State Fault Refusal := issueOne (actVabs h) s

/-- vneg (R54, R124). -/
def actVneg (h : Head) : Nat → Act := trigAct unitVec h (vec1 2 tyArith vnegLane id)
def execVneg (h : Head) (s : State) : Host.Outcome State Fault Refusal := issueOne (actVneg h) s

/-- vand (R125). -/
def actVand (h : Head) : Nat → Act := trigAct unitVec h (vec2 2 tyAny fun _ a t => a &&& t)
def execVand (h : Head) (s : State) : Host.Outcome State Fault Refusal := issueOne (actVand h) s

/-- vor (R125). -/
def actVor (h : Head) : Nat → Act := trigAct unitVec h (vec2 2 tyAny fun _ a t => a ||| t)
def execVor (h : Head) (s : State) : Host.Outcome State Fault Refusal := issueOne (actVor h) s

/-- vxor (R125). -/
def actVxor (h : Head) : Nat → Act := trigAct unitVec h (vec2 2 tyAny fun _ a t => a ^^^ t)
def execVxor (h : Head) (s : State) : Host.Outcome State Fault Refusal := issueOne (actVxor h) s

/-- vshl (R125). -/
def actVshl (h : Head) : Nat → Act := trigAct unitVec h (vec2 2 tyInt vshlLane)
def execVshl (h : Head) (s : State) : Host.Outcome State Fault Refusal := issueOne (actVshl h) s

/-- vshr (R125). -/
def actVshr (h : Head) : Nat → Act := trigAct unitVec h (vec2 2 tyInt vshrLane)
def execVshr (h : Head) (s : State) : Host.Outcome State Fault Refusal := issueOne (actVshr h) s

/-- vsar (R125). -/
def actVsar (h : Head) : Nat → Act := trigAct unitVec h (vec2 2 tyInt vsarLane)
def execVsar (h : Head) (s : State) : Host.Outcome State Fault Refusal := issueOne (actVsar h) s

/-- vceq (R126). -/
def actVceq (h : Head) : Nat → Act := trigAct unitVec h (vecCmp (laneCmp (· == .eq)))
def execVceq (h : Head) (s : State) : Host.Outcome State Fault Refusal := issueOne (actVceq h) s

/-- vclt (R126). -/
def actVclt (h : Head) : Nat → Act := trigAct unitVec h (vecCmp (laneCmp (· == .lt)))
def execVclt (h : Head) (s : State) : Host.Outcome State Fault Refusal := issueOne (actVclt h) s

/-- vcle (R126). -/
def actVcle (h : Head) : Nat → Act := trigAct unitVec h (vecCmp (laneCmp (· != .gt)))
def execVcle (h : Head) (s : State) : Host.Outcome State Fault Refusal := issueOne (actVcle h) s

/-- vsel (R127). -/
def actVsel (h : Head) : Nat → Act := trigAct unitVec h (vec2 2 tyAny fun _ _ t => t)
def execVsel (h : Head) (s : State) : Host.Outcome State Fault Refusal := issueOne (actVsel h) s

/-- vcvt (R128). -/
def actVcvt (h : Head) : Nat → Act := trigAct unitVec h (trigVcvt)
def execVcvt (h : Head) (s : State) : Host.Outcome State Fault Refusal := issueOne (actVcvt h) s

/-- vbc (R129). -/
def actVbc (h : Head) : Nat → Act := trigAct unitVec h (vecTrig [] 2 tyAny fun g c _ => mapLanes c (fun _ => laneN g.val c.w 0) fun _ => 0)
def execVbc (h : Head) (s : State) : Host.Outcome State Fault Refusal := issueOne (actVbc h) s

/-- vext (R129). -/
def actVext (h : Head) : Nat → Act := trigAct unitVec h (vecTrig [.veca] 3 tyAny fun g c r => vextRow c (r .veca) g.val)
def execVext (h : Head) (s : State) : Host.Outcome State Fault Refusal := issueOne (actVext h) s

/-- vins (R129). -/
def actVins (h : Head) : Nat → Act := trigAct unitVec h (vecTrig [.veca, .vecb] 3 tyAny fun g c r => vinsRow c (r .veca) (r .vecb) g.val)
def execVins (h : Head) (s : State) : Host.Outcome State Fault Refusal := issueOne (actVins h) s

/-- vperm (R130). -/
def actVperm (h : Head) : Nat → Act := trigAct unitVec h (vecTrig [.veca, .vecb] 3 tyAny fun g c r =>
  mapLanes c (fun i => vpermLane c (r .veca) (r .vecb) (laneN g.val c.w i)) (laneN (r .veca) c.w))
def execVperm (h : Head) (s : State) : Host.Outcome State Fault Refusal := issueOne (actVperm h) s

/-- vrot (R131). -/
def actVrot (h : Head) : Nat → Act := trigAct unitVec h (vecTrig [.veca, .vecb] 2 tyAny fun g c r =>
  mapLanes c (laneN (joinAt (r .veca) (r .vecb) (fld g.val 6 0)) c.w) (laneN (r .veca) c.w))
def execVrot (h : Head) (s : State) : Host.Outcome State Fault Refusal := issueOne (actVrot h) s

/-- vsum (R68, R132). -/
def actVsum (h : Head) : Nat → Act := trigAct unitVec h (vecRed vsumLane)
def execVsum (h : Head) (s : State) : Host.Outcome State Fault Refusal := issueOne (actVsum h) s

/-- vrmax (R68, R132). -/
def actVrmax (h : Head) : Nat → Act := trigAct unitVec h (vecRed (vredLane laneMax idMax))
def execVrmax (h : Head) (s : State) : Host.Outcome State Fault Refusal := issueOne (actVrmax h) s

/-- vrmin (R68, R132). -/
def actVrmin (h : Head) : Nat → Act := trigAct unitVec h (vecRed (vredLane laneMin idMin))
def execVrmin (h : Head) (s : State) : Host.Outcome State Fault Refusal := issueOne (actVrmin h) s

/-- vmaxi (R70, R133). -/
def actVmaxi (h : Head) : Nat → Act := trigAct unitVec h (vecTrig [] 8 tyMaxi fun g c _ => vmaxiRow c g.val)
def execVmaxi (h : Head) (s : State) : Host.Outcome State Fault Refusal := issueOne (actVmaxi h) s

/-- vpopc (R134). -/
def actVpopc (h : Head) : Nat → Act := trigAct unitVec h (vec1 2 tyInt (fun c t => popcN c.w t) id)
def execVpopc (h : Head) (s : State) : Host.Outcome State Fault Refusal := issueOne (actVpopc h) s

/-- vmexp (R134). -/
def actVmexp (h : Head) : Nat → Act := trigAct unitVec h (vecTrig [] 2 tyAny fun g c _ => mapLanes c (fun i => if bitAt g.val i then 2 ^ c.w - 1 else 0) fun _ => 0)
def execVmexp (h : Head) (s : State) : Host.Outcome State Fault Refusal := issueOne (actVmexp h) s

/-- vmpak (R134). -/
def actVmpak (h : Head) : Nat → Act := trigAct unitVec h (vecTrig [] 2 tyAny fun g c _ => maskLanes c fun i => laneN g.val c.w i != 0)
def execVmpak (h : Head) (s : State) : Host.Outcome State Fault Refusal := issueOne (actVmpak h) s

/-- vcls (R134). -/
def actVcls (h : Head) : Nat → Act := trigAct unitVec h (vec1 2 tyInt vclsLane id)
def execVcls (h : Head) (s : State) : Host.Outcome State Fault Refusal := issueOne (actVcls h) s

/-- viota (R134). -/
def actViota (h : Head) : Nat → Act := trigAct unitVec h (vecTrig [] 3 tyInt fun g c _ => viotaRow c g.val)
def execViota (h : Head) (s : State) : Host.Outcome State Fault Refusal := issueOne (actViota h) s

/-- vsqz (R134). -/
def actVsqz (h : Head) : Nat → Act := trigAct unitVec h (vecTrig [] 3 tyAny fun g c _ => vsqzRow c g.val)
def execVsqz (h : Head) (s : State) : Host.Outcome State Fault Refusal := issueOne (actVsqz h) s

/-- vbnd (R135). -/
def actVbnd (h : Head) : Nat → Act := trigAct unitVec h (vecTrig [.vecb] 4 tyFloat fun g c r => vbndRow (askpOn g.s0.task.info.askp) c g.val (r .vecb))
def execVbnd (h : Head) (s : State) : Host.Outcome State Fault Refusal := issueOne (actVbnd h) s

/-- lg2 (R71, R137). -/
def actLg2 (h : Head) : Nat → Act := trigAct unitLg h (lgOpTrig 6 .lg2)
def execLg2 (h : Head) (s : State) : Host.Outcome State Fault Refusal := issueOne (actLg2 h) s

/-- ln (R71, R137). -/
def actLn (h : Head) : Nat → Act := trigAct unitLg h (lgOpTrig 8 .ln)
def execLn (h : Head) (s : State) : Host.Outcome State Fault Refusal := issueOne (actLn h) s

/-- ex2 (R71, R137). -/
def actEx2 (h : Head) : Nat → Act := trigAct unitLg h (lgOpTrig 6 .ex2)
def execEx2 (h : Head) (s : State) : Host.Outcome State Fault Refusal := issueOne (actEx2 h) s

/-- exp (R71, R137). -/
def actExp (h : Head) : Nat → Act := trigAct unitLg h (lgOpTrig 8 .exp)
def execExp (h : Head) (s : State) : Host.Outcome State Fault Refusal := issueOne (actExp h) s

/-- rcp (R71, R137). -/
def actRcp (h : Head) : Nat → Act := trigAct unitLg h (lgOpTrig 6 .rcp)
def execRcp (h : Head) (s : State) : Host.Outcome State Fault Refusal := issueOne (actRcp h) s

/-- rsq (R71, R137). -/
def actRsq (h : Head) : Nat → Act := trigAct unitLg h (lgOpTrig 6 .rsq)
def execRsq (h : Head) (s : State) : Host.Outcome State Fault Refusal := issueOne (actRsq h) s

/-- sqrt (R71, R137). -/
def actSqrt (h : Head) : Nat → Act := trigAct unitLg h (lgOpTrig 6 .sqrt)
def execSqrt (h : Head) (s : State) : Host.Outcome State Fault Refusal := issueOne (actSqrt h) s

/-- tanh (R71, R137). -/
def actTanh (h : Head) : Nat → Act := trigAct unitLg h (lgOpTrig 10 .tanh)
def execTanh (h : Head) (s : State) : Host.Outcome State Fault Refusal := issueOne (actTanh h) s

/-- sigm (R71, R137). -/
def actSigm (h : Head) : Nat → Act := trigAct unitLg h (lgOpTrig 10 .sigm)
def execSigm (h : Head) (s : State) : Host.Outcome State Fault Refusal := issueOne (actSigm h) s

/-- gmb (R72, R138). -/
def actGmb (h : Head) : Nat → Act := trigAct unitLg h (lgTrig 18 (· == 12) fun _ _ x => gmbPat x)
def execGmb (h : Head) (s : State) : Host.Outcome State Fault Refusal := issueOne (actGmb h) s

/-- rnd, generator mode (R140, R141). -/
def actRndGenerator (h : Head) : Nat → Act := trigAct unitLg h (trigRnd)
def execRndGenerator (h : Head) (s : State) : Host.Outcome State Fault Refusal := issueOne (actRndGenerator h) s

/-- rnd, replay mode (R140 to R142). -/
def actRndReplay (h : Head) : Nat → Act := trigAct unitLg h (trigRnd)
def execRndReplay (h : Head) (s : State) : Host.Outcome State Fault Refusal := issueOne (actRndReplay h) s

/-- sclr (R146). -/
def actSclr (h : Head) : Nat → Act := trigAct unitSrt h (trigSclr)
def execSclr (h : Head) (s : State) : Host.Outcome State Fault Refusal := issueOne (actSclr h) s

/-- smrg (R147). -/
def actSmrg (h : Head) : Nat → Act := trigAct unitSrt h (trigSmrg)
def execSmrg (h : Head) (s : State) : Host.Outcome State Fault Refusal := issueOne (actSmrg h) s

/-- srd (R148). -/
def actSrd (h : Head) : Nat → Act := trigAct unitSrt h (unitOp [] .srtd 4 fun g _ => .ok (srdRow g.s0.task.lake g.val))
def execSrd (h : Head) (s : State) : Host.Outcome State Fault Refusal := issueOne (actSrd h) s

/-- ssort (R149). -/
def actSsort (h : Head) : Nat → Act := trigAct unitSrt h (trigSsort)
def execSsort (h : Head) (s : State) : Host.Outcome State Fault Refusal := issueOne (actSsort h) s

/-- scsum (R150). -/
def actScsum (h : Head) : Nat → Act := trigAct unitSrt h (unitOp [] .srtd 8 fun g _ => .ok (scsumRow g.s0.task.lake g.val))
def execScsum (h : Head) (s : State) : Host.Outcome State Fault Refusal := issueOne (actScsum h) s

end Sys2Proof.Machine
end

