-- ==== Sys2Proof/Machine/Bundle.lean ====
section
/-! DEFINITION. A move and a bundle as a whole: its slots, its static checks, its effect; results that land (R20 to R40). -/

namespace Sys2Proof.Machine

/-- What a decoded slot does in its bundle. -/
def slotAct (i : Instr) : Nat → Act := match i with
  | .move g src hold dst => moveAct g src hold dst
  | .add u h => actAdd u h
  | .sub u h => actSub u h
  | .and u h => actAnd u h
  | .or u h => actOr u h
  | .xor u h => actXor u h
  | .andn u h => actAndn u h
  | .min u h => actMin u h
  | .max u h => actMax u h
  | .minu u h => actMinu u h
  | .maxu u h => actMaxu u h
  | .shl u h => actShl u h
  | .shr u h => actShr u h
  | .sar u h => actSar u h
  | .rotl u h => actRotl u h
  | .seq u h => actSeq u h
  | .sne u h => actSne u h
  | .slt u h => actSlt u h
  | .sltu u h => actSltu u h
  | .sle u h => actSle u h
  | .sleu u h => actSleu u h
  | .sel u h => actSel u h
  | .mul u h => actMul u h
  | .mulh u h => actMulh u h
  | .mulhu u h => actMulhu u h
  | .clz u h => actClz u h
  | .ctz u h => actCtz u h
  | .popc u h => actPopc u h
  | .bfx u h => actBfx u h
  | .bfi u h => actBfi u h
  | .sext u h => actSext u h
  | .zext u h => actZext u h
  | .div h => actDiv h
  | .divu h => actDivu h
  | .rem h => actRem h
  | .remu h => actRemu h
  | .lea h => actLea h
  | .leaw h => actLeaw h
  | .cadd h => actCadd h
  | .jmp h => actJmp h
  | .jmpi h => actJmpi h
  | .call h => actCall h
  | .ret h => actRet h
  | .jtab h => actJtab h
  | .loop h => actLoop h
  | .done h => actDone h
  | .spt h => actSpt h
  | .wait h => actWait h
  | .fuse h => actFuse h
  | .dcpl h => actDcpl h
  | .rejoin h => actRejoin h
  | .uintReturn h => actUintReturn h
  | .trap h => actTrap h
  | .sys h => actSys h
  | .csrr h => actCsrr h
  | .csrw h => actCsrw h
  | .ld h => actLd h
  | .ldq h => actLdq h
  | .st h => actSt h
  | .ldx h => actLdx h
  | .stx h => actStx h
  | .qmark h => actQmark h
  | .fence h => actFence h
  | .fsc h => actFsc h
  | .pref h => actPref h
  | .smap h => actSmap h
  | .sunm h => actSunm h
  | .sfl h => actSfl h
  | .ownToEngine h => actOwnToEngine h
  | .ownToThread h => actOwnToThread h
  | .rinv h => actRinv h
  | .amoAdd h => actAmoAdd h
  | .amoFadd h => actAmoFadd h
  | .amoMax h => actAmoMax h
  | .amoMin h => actAmoMin h
  | .amoMaxu h => actAmoMaxu h
  | .amoMinu h => actAmoMinu h
  | .amoFmax h => actAmoFmax h
  | .amoFmin h => actAmoFmin h
  | .amoAnd h => actAmoAnd h
  | .amoOr h => actAmoOr h
  | .amoXor h => actAmoXor h
  | .amoSwp h => actAmoSwp h
  | .amoCas h => actAmoCas h
  | .nraAdd h => actNraAdd h
  | .nraFadd h => actNraFadd h
  | .nraMax h => actNraMax h
  | .nraMin h => actNraMin h
  | .nraMaxu h => actNraMaxu h
  | .nraMinu h => actNraMinu h
  | .nraFmax h => actNraFmax h
  | .nraFmin h => actNraFmin h
  | .nraAnd h => actNraAnd h
  | .nraOr h => actNraOr h
  | .nraXor h => actNraXor h
  | .redAdd h => actRedAdd h
  | .redFadd h => actRedFadd h
  | .redFmax h => actRedFmax h
  | .vadd h => actVadd h
  | .vsub h => actVsub h
  | .vmul h => actVmul h
  | .vfma h => actVfma h
  | .vmin h => actVmin h
  | .vmax h => actVmax h
  | .vabs h => actVabs h
  | .vneg h => actVneg h
  | .vand h => actVand h
  | .vor h => actVor h
  | .vxor h => actVxor h
  | .vshl h => actVshl h
  | .vshr h => actVshr h
  | .vsar h => actVsar h
  | .vceq h => actVceq h
  | .vclt h => actVclt h
  | .vcle h => actVcle h
  | .vsel h => actVsel h
  | .vcvt h => actVcvt h
  | .vbc h => actVbc h
  | .vext h => actVext h
  | .vins h => actVins h
  | .vperm h => actVperm h
  | .vrot h => actVrot h
  | .vsum h => actVsum h
  | .vrmax h => actVrmax h
  | .vrmin h => actVrmin h
  | .vmaxi h => actVmaxi h
  | .vpopc h => actVpopc h
  | .vmexp h => actVmexp h
  | .vmpak h => actVmpak h
  | .vcls h => actVcls h
  | .viota h => actViota h
  | .vsqz h => actVsqz h
  | .vbnd h => actVbnd h
  | .lg2 h => actLg2 h
  | .ln h => actLn h
  | .ex2 h => actEx2 h
  | .exp h => actExp h
  | .rcp h => actRcp h
  | .rsq h => actRsq h
  | .sqrt h => actSqrt h
  | .tanh h => actTanh h
  | .sigm h => actSigm h
  | .gmb h => actGmb h
  | .rndGenerator h => actRndGenerator h
  | .rndReplay h => actRndReplay h
  | .sclr h => actSclr h
  | .smrg h => actSmrg h
  | .srd h => actSrd h
  | .ssort h => actSsort h
  | .scsum h => actScsum h
  | .push h => actPush h
  | .shift h => actShift h
  | .acc h => actAcc h
  | .accz h => actAccz h
  | .drain h => actDrain h
  | .mxclr h => actMxclr h
  | .spawn h => actSpawn h
  | .spawnd h => actSpawnd h
  | .dcnt h => actDcnt h
  | .cstage h => actCstage h
  | .uien h => actUien h
  | .bpost h => actBpost h
  | .barv h => actBarv h
  | .bwait h => actBwait h
  | .hbw h => actHbw h
  | .gth h => actGth h
  | .coll h => actColl h
  | .esend h => actEsend h
  | .sgo h => actSgo h
  | .acmpGuess h => actAcmpGuess h
  | .acmpRun h => actAcmpRun h
  | .acmpOut h => actAcmpOut h
  | .acmpLast h => actAcmpLast h
  | .acmpTag h => actAcmpTag h
  | .scmt h => actScmt h
  | .sabt h => actSabt h
  | .apreg h => actApreg h
  | .fnext h => actFnext h
  | _ => moveAct { inv := true, p := 0 } (.imm9 0) false (.reg (.p 0))

/-- The cause of an encoding error (R26). -/
def encCause : EncErr → Cause
  | .illSrc => .illSrc | .illLimm => .illLimm | .illDst => .illDst | .illHold => .illHold

/-- The slots that are decoded: those that are not never-guarded (R22, R26). -/
def liveSlots (b : Bundle) : List Nat := (List.range 8).filter fun k => !isCarrier (slotOf b k)

/-- The source of a slot, where it has one. -/
def slotSrc (b : Bundle) (k : Nat) : Option Src := (decodeSrc b (bitsOf (slotOf b k) 10 10)).toOption

/-- Distinct scalar and vector registers that the slots up to k read (R30). -/
def portCount (b : Bundle) (k : Nat) : Nat × Nat :=
  let l := ((liveSlots b).filter fun j => decide (j ≤ k)).filterMap (slotSrc b)
  let sc := (l.filterMap fun x => match x with | .s n => some n.toNat | _ => none).eraseDups
  let ve := (l.filterMap fun x => match x with | .v n => some n.toNat | _ => none).eraseDups
  (sc.length, ve.length)

def portsOver (b : Bundle) (k : Nat) : Bool := decide (6 < (portCount b k).1) || decide (4 < (portCount b k).2)

/-- The static trap of one slot: its encoding's, then the read-port limit (R34). -/
def slotStatic (b : Bundle) (k : Nat) : Option Trap := match decodeSlot b k with
  | .error e => some { cause := encCause e, slot := k }
  | .ok _ => if portsOver b k then some { cause := .bundleConflict, slot := k } else none

/-- The static trap of a bundle: that of the lowest slot. -/
def bundleStatic (b : Bundle) : Option Trap := (liveSlots b).findSome? (slotStatic b)

/-- The acts of a bundle's slots. -/
def bundleActs (b : Bundle) : List Act :=
  (liveSlots b).filterMap fun k => (decodeSlot b k).toOption.map fun i => slotAct i k

/-- A whole bundle (R27 to R35). -/
def execBundleIssue (b : Bundle) (s : State) : Host.Outcome State Fault Refusal := .next (issue (bundleActs b) (bundleStatic b) s)

/-- One move, alone in its bundle (R28, R31). -/
def execMove (g : Guard) (src : Src) (hold : Bool) (dst : MDst) (s : State) : Host.Outcome State Fault Refusal :=
  issueOne (moveAct g src hold dst) s

/-! ### Landings (R36 to R38) -/

/-- The n-th flight. -/
def flightAt (t : Task) (n : Nat) : Option Flight := t.flights[n]?

/-- A fixed-latency result lands before its bound: its register stays undefined until then. A tile write never lands early (R36, R153). -/
def landResult (s : State) (n : Nat) : State :=
  match flightAt s.task n with
  | some f =>
    let ok := f.kind == .fixed && f.val.isSome && !f.landed && (match f.dest with
      | .tileW _ => false
      | _ => true)
    if ok then
      let t := landOne s.task f
      { s with task := { t with flights := setNth t.flights n { f with landed := true } } }
    else s
  | none => s

/-- A write of a tile comes before another of the same tile in landing order (R153). -/
def landsBefore (g f : Flight) : Bool :=
  g != f && g.kind != .deferred && !g.dead && !g.landed && flightLe g f && (match g.dest, f.dest with
    | .tileW j, .tileW k => j == k
    | _, _ => false)

/-- A timed request whose landing cycle has come lands, its data having arrived (R37); to a tile, only after the writes that land before it (R153). -/
def landTimed (s : State) (n : Nat) : State :=
  match flightAt s.task n with
  | some f =>
    if f.kind = .timed ∧ f.due ≤ s.task.regs.cyc ∧ !(s.task.flights.any fun g => landsBefore g f) then
      let s := performSeq s f.seq
      match flightAt s.task n with
      | some f => if f.val.isSome then { s with task := landOne { s.task with flights := s.task.flights.eraseIdx n } f } else s
      | none => s
    else s
  | none => s

/-- The data of the n-th load-queue entry arrives (R38). -/
def fillQueue (s : State) (n : Nat) : State := match s.task.lq[n]? with
  | some e => if e.val.isNone then performSeq s e.seq else s
  | none => s

/-- A result lands (R36). -/
def execResultLanding (n : Nat) (s : State) : Host.Outcome State Fault Refusal := .next (landResult s n)
/-- A timed request lands (R37). -/
def execTimedLanding (n : Nat) (s : State) : Host.Outcome State Fault Refusal := .next (landTimed s n)
/-- A load-queue entry is filled (R38). -/
def execLoadQueueFill (n : Nat) (s : State) : Host.Outcome State Fault Refusal := .next (fillQueue s n)

end Sys2Proof.Machine
end

