-- ==== Sys2Proof/Machine/Fetch.lean ====
section
/-! DEFINITION. Fetching a bundle, and placing one where the next step fetches (R20, R181, R182). -/

namespace Sys2Proof.Machine

/-- A bundle of eight 0x80_0000 slots: what a task sees from its codelen on (R181). -/
def nopBundle : Bundle := BitVec.ofNat 192 (packN 24 (List.replicate 8 0x800000))

/-- The bundle at the task's pc, in its own image (R182). -/
def fetch (t : Task) : Bundle := if t.regs.pc < t.info.codelen then nth t.info.code t.regs.pc nopBundle else nopBundle

/-- A state whose next step issues bundle b: a task on core 0 of cluster 0 of die 0 with a one-bundle image, nothing frozen, at an even ck (log 1, log 4). -/
def placeBundle (s : State) (b : Bundle) : State :=
  { s with
    agenda := [], clk := { s.clk with ck := s.clk.ck / 2 * 2 }
    task := { s.task with
      place := .onCore 0 0 0, freeze := [], pending := [], memq := []
      info := { s.task.info with code := [b], codelen := 1 }
      regs := { s.task.regs with pc := 0 }
      time := { s.task.time with waitN := 0 } } }

/-- The bundle that a table row's bits stand for: a slot alone is slot 0 before seven carrier slots; a whole bundle is itself (log 5). -/
def tableBundle (nbits w : Nat) : Bundle :=
  if nbits ≤ 24 then BitVec.ofNat 192 (w % 2 ^ 24 + packN 24 (List.replicate 7 0x800000) * 2 ^ 24)
  else BitVec.ofNat 192 w

end Sys2Proof.Machine
end

