-- ==== Sys2Proof/Machine/Device.lean ====
section
/-! DEFINITION. What the device does by itself between bundles, in a fixed order of choice, and whose bundle is next (log 1). -/

namespace Sys2Proof.Machine

/-- An action of one task's core, the focus restored. -/
def onTask (u : Nat) (f : State → State) (s : State) : State := focus (f (focus s u)) s.task.uid

/-- What a task's core, its queues and its frame bring about. -/
def taskChores : List (State → State) :=
  [performHead, retryLeave, fenceEnd, mirrorDone, finishCheck, takePending, formGroup, saveDone, compactEnd, childLeave, enterHandler,
    rowArrives, chunkOut, wctEnd, graceHalt, killDue]

/-- What an engine operation brings about. -/
def opChores (id : Nat) : List (State → State) :=
  [fun s => engineStep s id, fun s => engineFinish s id, fun s => collFinish s id, fun s => collLate s id]

/-- What the scheduler does for an instance. -/
def instChores (id : Nat) : List (State → State) :=
  [fun s => completeInst s id, fun s => failInst s id, fun s => childEnd s id, fun s => failOver s id, fun s => lateInst s id,
   fun s => missInst s id]

/-- A pass of a declared reduction whose contributions are all there. -/
def passChore (inst g : Nat) (s : State) : State := if passFull s inst g then applyPass s inst g else s

/-- What a partition's registers and queues bring about. -/
def partChores (q : Part) : List (State → State) :=
  (List.range 4).map (fun n s => submitHead s q.id n)
    ++ [fun s => endInv s q.id, fun s => endExchange s q.id, fun s => destroyEnd (stopEnd s q.id) q.id, fun s => endHold s q.id,
        fun s => sessRetry s q.id]
    ++ q.res.ethOpen.map (fun e s => closeQueue s q.id e.io e.node)
    ++ q.res.going.map (fun b s => blockGone s q.id b)
    ++ q.res.scrubbing.map (fun b s => scrubDone s b)

/-- Every core of the device: die, cluster, core. -/
def allCores : List (Nat × Nat × Nat) := (List.range 512).map fun n => (n / 64, n / 8 % 8, n % 8)

/-- Saved tasks that are ready take cores. -/
def restoreChores (t : Task) : List (State → State) := match t.place with
  | .ready _ => allCores.map fun c => onTask t.uid fun s => restoreAt s c.1 c.2.1 c.2.2
  | _ => []

/-- What the device as a whole brings about. -/
def deviceChores (s : State) : List (State → State) :=
  let teams := s.sched.insts.any fun i => !i.teamsLeft.isEmpty
  let held := (List.range 65).filter fun r => !(ringAt s r).waiting.isEmpty
  (if teams then (List.range 64).map (fun n s => dispatch s (n / 8, n % 8)) else [])
    ++ held.map (fun r s => writeRecord s r) ++ held.map (fun r s => warnRing s r)
    ++ (s.ept.egressQ.map fun c => c.1).map (fun n s => egress s n s.clk.ftime)
    ++ (List.range 8).map (fun d s => heartbeatDue s d)
    ++ s.mir.mute.map (fun d s => heartbeatLost s d)
    ++ [inNext, ingressRetry, nextPhase, epochStep, hbmFrame, powerStep, poolServe, resetEnd]
    ++ (List.range 8).map (fun d s => takeOver s d) ++ (List.range 4).map (fun n s => endResync s n)

/-- Uids, highest first: of a team, the leader last. -/
def turnOrder (l : List Task) : List Nat := (sortNat (l.map Task.uid)).reverse

/-- Everything that the device might do by itself now, the engines apart; a die that has fallen silent does nothing (log 81). -/
def chores (s : State) : List (State → State) :=
  (turnOrder ((allTasks s).filter fun t => !isEnded t && !onMute s t)).flatMap (fun u => taskChores.map (onTask u))
    ++ (s.sched.insts.map Inst.id).flatMap instChores
    ++ s.sched.contribs.map (fun c => passChore c.inst c.group)
    ++ (s.sched.launches.map fun l => l.lr.seqno).flatMap (fun q => [fun s => releaseInst s q, fun s => missInst s (2 ^ 63 + q), fun s => lowerLevel s q])
    ++ (s.parts.filter Part.live).flatMap partChores
    ++ (allTasks s).flatMap restoreChores
    ++ deviceChores s

/-- What the engines might do now for the operations that are at least `age` ns old. -/
def engineChores (age : Nat) (s : State) : List (State → State) :=
  ((s.sched.ops.filter fun o => decide (o.trigger + age ≤ s.clk.ftime) && !s.mir.mute.contains o.die).map EngOp.id).flatMap opChores

/-- The first action of a list that changes anything. -/
def firstOf (l : List (State → State)) (s : State) : Option State := l.findSome? fun f => let t := f s; if t = s then none else some t

/-- The focus moves to the next task, in turn order, that can issue a bundle; it stays where there is none. -/
def rotate (s : State) : State :=
  let l := turnOrder ((allTasks s).filter onCore)
  let me := s.task.uid
  match ((l.filter fun u => decide (u < me)) ++ l.filter fun u => decide (me < u)).find? fun u => canIssue (focus s u) with
  | some u => focus s u
  | none => s

/-- Cores that stand frozen while time passes; a wait for a tick ends with it (R206, R263). -/
def chargeFrozen (ns : Nat) (s : State) : State :=
  { s with others := s.others.map fun t => if onCore t && !canIssue (focus s t.uid) then thawTicks s.clk.hb (chargeTime ns t) else t }

/-- After a bundle the next task has its turn. The cores run side by side: while a round goes on, the clocks stay where they were; its last bundle moves them (log 7). -/
def endTurn (s0 s : State) : State :=
  let r := rotate s
  if r.task.uid < s.task.uid then { r with clk := s0.clk } else chargeFrozen (r.clk.ftime - s0.clk.ftime) r

/-- A step with no bundle in focus: an action of the device, another task's turn, an engine's action, or time up to the next tick. -/
def idle (s : State) : State := match firstOf (chores s) s with
  | some t => t
  | none =>
    if (rotate s).task.uid ≠ s.task.uid then rotate s
    else match firstOf (engineChores 0 s) s with
      | some t => t
      | none => nextTick s

/-- In odd clocks the device's own actions go before a bundle; the engines' at the end of a tick, for operations that are not new. -/
def between (s : State) : Option State :=
  if s.clk.ck % 2 = 0 then none
  else if 120 ≤ s.clk.ck % 128 then firstOf (chores s ++ engineChores 100 s) s
  else firstOf (chores s) s

end Sys2Proof.Machine
end

