-- ==== Sys2Proof/Machine/Dispatch.lean ====
section
/-! DEFINITION. The dispatch: one arm for each constructor of Instr, each one direct call of its meaning. -/

namespace Sys2Proof.Machine

def exec (i : Instr) (s : State) : Host.Outcome State Fault Refusal :=
  match i with
  | .move g src hold dst => Sys2Proof.Machine.execMove g src hold dst s
  | .bundleIssue b => Sys2Proof.Machine.execBundleIssue b s
  | .resultLanding n => Sys2Proof.Machine.execResultLanding n s
  | .timedLanding n => Sys2Proof.Machine.execTimedLanding n s
  | .loadQueueFill n => Sys2Proof.Machine.execLoadQueueFill n s
  | .contextSaveDone => Sys2Proof.Machine.execContextSaveDone s
  | .taskRestore die cluster core => Sys2Proof.Machine.execTaskRestore die cluster core s
  | .add u h => Sys2Proof.Machine.execAdd u h s
  | .sub u h => Sys2Proof.Machine.execSub u h s
  | .and u h => Sys2Proof.Machine.execAnd u h s
  | .or u h => Sys2Proof.Machine.execOr u h s
  | .xor u h => Sys2Proof.Machine.execXor u h s
  | .andn u h => Sys2Proof.Machine.execAndn u h s
  | .min u h => Sys2Proof.Machine.execMin u h s
  | .max u h => Sys2Proof.Machine.execMax u h s
  | .minu u h => Sys2Proof.Machine.execMinu u h s
  | .maxu u h => Sys2Proof.Machine.execMaxu u h s
  | .shl u h => Sys2Proof.Machine.execShl u h s
  | .shr u h => Sys2Proof.Machine.execShr u h s
  | .sar u h => Sys2Proof.Machine.execSar u h s
  | .rotl u h => Sys2Proof.Machine.execRotl u h s
  | .seq u h => Sys2Proof.Machine.execSeq u h s
  | .sne u h => Sys2Proof.Machine.execSne u h s
  | .slt u h => Sys2Proof.Machine.execSlt u h s
  | .sltu u h => Sys2Proof.Machine.execSltu u h s
  | .sle u h => Sys2Proof.Machine.execSle u h s
  | .sleu u h => Sys2Proof.Machine.execSleu u h s
  | .sel u h => Sys2Proof.Machine.execSel u h s
  | .mul u h => Sys2Proof.Machine.execMul u h s
  | .mulh u h => Sys2Proof.Machine.execMulh u h s
  | .mulhu u h => Sys2Proof.Machine.execMulhu u h s
  | .clz u h => Sys2Proof.Machine.execClz u h s
  | .ctz u h => Sys2Proof.Machine.execCtz u h s
  | .popc u h => Sys2Proof.Machine.execPopc u h s
  | .bfx u h => Sys2Proof.Machine.execBfx u h s
  | .bfi u h => Sys2Proof.Machine.execBfi u h s
  | .sext u h => Sys2Proof.Machine.execSext u h s
  | .zext u h => Sys2Proof.Machine.execZext u h s
  | .div h => Sys2Proof.Machine.execDiv h s
  | .divu h => Sys2Proof.Machine.execDivu h s
  | .rem h => Sys2Proof.Machine.execRem h s
  | .remu h => Sys2Proof.Machine.execRemu h s
  | .lea h => Sys2Proof.Machine.execLea h s
  | .leaw h => Sys2Proof.Machine.execLeaw h s
  | .cadd h => Sys2Proof.Machine.execCadd h s
  | .jmp h => Sys2Proof.Machine.execJmp h s
  | .jmpi h => Sys2Proof.Machine.execJmpi h s
  | .call h => Sys2Proof.Machine.execCall h s
  | .ret h => Sys2Proof.Machine.execRet h s
  | .jtab h => Sys2Proof.Machine.execJtab h s
  | .loop h => Sys2Proof.Machine.execLoop h s
  | .done h => Sys2Proof.Machine.execDone h s
  | .spt h => Sys2Proof.Machine.execSpt h s
  | .wait h => Sys2Proof.Machine.execWait h s
  | .fuse h => Sys2Proof.Machine.execFuse h s
  | .dcpl h => Sys2Proof.Machine.execDcpl h s
  | .rejoin h => Sys2Proof.Machine.execRejoin h s
  | .groupForm => Sys2Proof.Machine.execGroupForm s
  | .uintReturn h => Sys2Proof.Machine.execUintReturn h s
  | .trap h => Sys2Proof.Machine.execTrap h s
  | .sys h => Sys2Proof.Machine.execSys h s
  | .csrr h => Sys2Proof.Machine.execCsrr h s
  | .csrw h => Sys2Proof.Machine.execCsrw h s
  | .ld h => Sys2Proof.Machine.execLd h s
  | .ldq h => Sys2Proof.Machine.execLdq h s
  | .st h => Sys2Proof.Machine.execSt h s
  | .ldx h => Sys2Proof.Machine.execLdx h s
  | .stx h => Sys2Proof.Machine.execStx h s
  | .qmark h => Sys2Proof.Machine.execQmark h s
  | .fence h => Sys2Proof.Machine.execFence h s
  | .fenceDone => Sys2Proof.Machine.execFenceDone s
  | .fsc h => Sys2Proof.Machine.execFsc h s
  | .pref h => Sys2Proof.Machine.execPref h s
  | .smap h => Sys2Proof.Machine.execSmap h s
  | .sunm h => Sys2Proof.Machine.execSunm h s
  | .sfl h => Sys2Proof.Machine.execSfl h s
  | .ownToEngine h => Sys2Proof.Machine.execOwnToEngine h s
  | .ownToThread h => Sys2Proof.Machine.execOwnToThread h s
  | .plateFlipThread => Sys2Proof.Machine.execPlateFlipThread s
  | .rinv h => Sys2Proof.Machine.execRinv h s
  | .amoAdd h => Sys2Proof.Machine.execAmoAdd h s
  | .amoFadd h => Sys2Proof.Machine.execAmoFadd h s
  | .amoMax h => Sys2Proof.Machine.execAmoMax h s
  | .amoMin h => Sys2Proof.Machine.execAmoMin h s
  | .amoMaxu h => Sys2Proof.Machine.execAmoMaxu h s
  | .amoMinu h => Sys2Proof.Machine.execAmoMinu h s
  | .amoFmax h => Sys2Proof.Machine.execAmoFmax h s
  | .amoFmin h => Sys2Proof.Machine.execAmoFmin h s
  | .amoAnd h => Sys2Proof.Machine.execAmoAnd h s
  | .amoOr h => Sys2Proof.Machine.execAmoOr h s
  | .amoXor h => Sys2Proof.Machine.execAmoXor h s
  | .amoSwp h => Sys2Proof.Machine.execAmoSwp h s
  | .amoCas h => Sys2Proof.Machine.execAmoCas h s
  | .nraAdd h => Sys2Proof.Machine.execNraAdd h s
  | .nraFadd h => Sys2Proof.Machine.execNraFadd h s
  | .nraMax h => Sys2Proof.Machine.execNraMax h s
  | .nraMin h => Sys2Proof.Machine.execNraMin h s
  | .nraMaxu h => Sys2Proof.Machine.execNraMaxu h s
  | .nraMinu h => Sys2Proof.Machine.execNraMinu h s
  | .nraFmax h => Sys2Proof.Machine.execNraFmax h s
  | .nraFmin h => Sys2Proof.Machine.execNraFmin h s
  | .nraAnd h => Sys2Proof.Machine.execNraAnd h s
  | .nraOr h => Sys2Proof.Machine.execNraOr h s
  | .nraXor h => Sys2Proof.Machine.execNraXor h s
  | .redAdd h => Sys2Proof.Machine.execRedAdd h s
  | .redFadd h => Sys2Proof.Machine.execRedFadd h s
  | .redFmax h => Sys2Proof.Machine.execRedFmax h s
  | .redPassApply inst group pass => Sys2Proof.Machine.execRedPassApply inst group pass s
  | .storeQueueIssue => Sys2Proof.Machine.execStoreQueueIssue s
  | .vadd h => Sys2Proof.Machine.execVadd h s
  | .vsub h => Sys2Proof.Machine.execVsub h s
  | .vmul h => Sys2Proof.Machine.execVmul h s
  | .vfma h => Sys2Proof.Machine.execVfma h s
  | .vmin h => Sys2Proof.Machine.execVmin h s
  | .vmax h => Sys2Proof.Machine.execVmax h s
  | .vabs h => Sys2Proof.Machine.execVabs h s
  | .vneg h => Sys2Proof.Machine.execVneg h s
  | .vand h => Sys2Proof.Machine.execVand h s
  | .vor h => Sys2Proof.Machine.execVor h s
  | .vxor h => Sys2Proof.Machine.execVxor h s
  | .vshl h => Sys2Proof.Machine.execVshl h s
  | .vshr h => Sys2Proof.Machine.execVshr h s
  | .vsar h => Sys2Proof.Machine.execVsar h s
  | .vceq h => Sys2Proof.Machine.execVceq h s
  | .vclt h => Sys2Proof.Machine.execVclt h s
  | .vcle h => Sys2Proof.Machine.execVcle h s
  | .vsel h => Sys2Proof.Machine.execVsel h s
  | .vcvt h => Sys2Proof.Machine.execVcvt h s
  | .vbc h => Sys2Proof.Machine.execVbc h s
  | .vext h => Sys2Proof.Machine.execVext h s
  | .vins h => Sys2Proof.Machine.execVins h s
  | .vperm h => Sys2Proof.Machine.execVperm h s
  | .vrot h => Sys2Proof.Machine.execVrot h s
  | .vsum h => Sys2Proof.Machine.execVsum h s
  | .vrmax h => Sys2Proof.Machine.execVrmax h s
  | .vrmin h => Sys2Proof.Machine.execVrmin h s
  | .vmaxi h => Sys2Proof.Machine.execVmaxi h s
  | .vpopc h => Sys2Proof.Machine.execVpopc h s
  | .vmexp h => Sys2Proof.Machine.execVmexp h s
  | .vmpak h => Sys2Proof.Machine.execVmpak h s
  | .vcls h => Sys2Proof.Machine.execVcls h s
  | .viota h => Sys2Proof.Machine.execViota h s
  | .vsqz h => Sys2Proof.Machine.execVsqz h s
  | .vbnd h => Sys2Proof.Machine.execVbnd h s
  | .lg2 h => Sys2Proof.Machine.execLg2 h s
  | .ln h => Sys2Proof.Machine.execLn h s
  | .ex2 h => Sys2Proof.Machine.execEx2 h s
  | .exp h => Sys2Proof.Machine.execExp h s
  | .rcp h => Sys2Proof.Machine.execRcp h s
  | .rsq h => Sys2Proof.Machine.execRsq h s
  | .sqrt h => Sys2Proof.Machine.execSqrt h s
  | .tanh h => Sys2Proof.Machine.execTanh h s
  | .sigm h => Sys2Proof.Machine.execSigm h s
  | .gmb h => Sys2Proof.Machine.execGmb h s
  | .rndGenerator h => Sys2Proof.Machine.execRndGenerator h s
  | .rndReplay h => Sys2Proof.Machine.execRndReplay h s
  | .sclr h => Sys2Proof.Machine.execSclr h s
  | .smrg h => Sys2Proof.Machine.execSmrg h s
  | .srd h => Sys2Proof.Machine.execSrd h s
  | .ssort h => Sys2Proof.Machine.execSsort h s
  | .scsum h => Sys2Proof.Machine.execScsum h s
  | .push h => Sys2Proof.Machine.execPush h s
  | .shift h => Sys2Proof.Machine.execShift h s
  | .acc h => Sys2Proof.Machine.execAcc h s
  | .accz h => Sys2Proof.Machine.execAccz h s
  | .drain h => Sys2Proof.Machine.execDrain h s
  | .mxclr h => Sys2Proof.Machine.execMxclr h s
  | .spawn h => Sys2Proof.Machine.execSpawn h s
  | .spawnd h => Sys2Proof.Machine.execSpawnd h s
  | .spawndChildEnd inst => Sys2Proof.Machine.execSpawndChildEnd inst s
  | .dcnt h => Sys2Proof.Machine.execDcnt h s
  | .cstage h => Sys2Proof.Machine.execCstage h s
  | .uien h => Sys2Proof.Machine.execUien h s
  | .bpost h => Sys2Proof.Machine.execBpost h s
  | .barv h => Sys2Proof.Machine.execBarv h s
  | .bwait h => Sys2Proof.Machine.execBwait h s
  | .hbw h => Sys2Proof.Machine.execHbw h s
  | .gth h => Sys2Proof.Machine.execGth h s
  | .coll h => Sys2Proof.Machine.execColl h s
  | .esend h => Sys2Proof.Machine.execEsend h s
  | .sgo h => Sys2Proof.Machine.execSgo h s
  | .acmpGuess h => Sys2Proof.Machine.execAcmpGuess h s
  | .acmpRun h => Sys2Proof.Machine.execAcmpRun h s
  | .acmpOut h => Sys2Proof.Machine.execAcmpOut h s
  | .acmpLast h => Sys2Proof.Machine.execAcmpLast h s
  | .acmpTag h => Sys2Proof.Machine.execAcmpTag h s
  | .scmt h => Sys2Proof.Machine.execScmt h s
  | .sabt h => Sys2Proof.Machine.execSabt h s
  | .apreg h => Sys2Proof.Machine.execApreg h s
  | .fnext h => Sys2Proof.Machine.execFnext h s
  | .compactionDone => Sys2Proof.Machine.execCompactionDone s
  | .engineRow op => Sys2Proof.Machine.execEngineRow op s
  | .engineComplete op => Sys2Proof.Machine.execEngineComplete op s
  | .uintEntry => Sys2Proof.Machine.execUintEntry s
  | .collEnd op => Sys2Proof.Machine.execCollEnd op s
  | .collTimeout op => Sys2Proof.Machine.execCollTimeout op s
  | .heartbeatTick => Sys2Proof.Machine.execHeartbeatTick s
  | .queueDoorbell fn queue v => Sys2Proof.Machine.execQueueDoorbell fn queue v s
  | .queueEntrySubmit fn queue => Sys2Proof.Machine.execQueueEntrySubmit fn queue s
  | .instanceRelease seq => Sys2Proof.Machine.execInstanceRelease seq s
  | .teamDispatch die cluster => Sys2Proof.Machine.execTeamDispatch die cluster s
  | .instanceComplete inst => Sys2Proof.Machine.execInstanceComplete inst s
  | .instanceFail inst => Sys2Proof.Machine.execInstanceFail inst s
  | .late inst => Sys2Proof.Machine.execLate inst s
  | .miss inst => Sys2Proof.Machine.execMiss inst s
  | .lvlDown seq => Sys2Proof.Machine.execLvlDown seq s
  | .bholdOff part => Sys2Proof.Machine.execBholdOff part s
  | .wctExceeded => Sys2Proof.Machine.execWctExceeded s
  | .softRequest => Sys2Proof.Machine.execSoftRequest s
  | .graceExpire => Sys2Proof.Machine.execGraceExpire s
  | .killExpire => Sys2Proof.Machine.execKillExpire s
  | .frameSlotFree => Sys2Proof.Machine.execFrameSlotFree s
  | .ringRecordWrite ring => Sys2Proof.Machine.execRingRecordWrite ring s
  | .weight0 ring => Sys2Proof.Machine.execWeight0 ring s
  | .fltResume part v => Sys2Proof.Machine.execFltResume part v s
  | .fltResumeEnd part v => Sys2Proof.Machine.execFltResumeEnd part v s
  | .fltRdrop ring => Sys2Proof.Machine.execFltRdrop ring s
  | .schPreempt part v => Sys2Proof.Machine.execSchPreempt part v s
  | .schCancel part v => Sys2Proof.Machine.execSchCancel part v s
  | .uncorrectableError e => Sys2Proof.Machine.execUncorrectableError e s
  | .machineCheck => Sys2Proof.Machine.execMachineCheck s
  | .dierstOrderly die => Sys2Proof.Machine.execDierstOrderly die s
  | .dierstForced die => Sys2Proof.Machine.execDierstForced die s
  | .dieReset => Sys2Proof.Machine.execDieReset s
  | .parDlog part v => Sys2Proof.Machine.execParDlog part v s
  | .parStop part v => Sys2Proof.Machine.execParStop part v s
  | .parStopResume part => Sys2Proof.Machine.execParStopResume part s
  | .stopped part => Sys2Proof.Machine.execStopped part s
  | .parHattr part v => Sys2Proof.Machine.execParHattr part v s
  | .parPtroot part v => Sys2Proof.Machine.execParPtroot part v s
  | .parTlbinv part v => Sys2Proof.Machine.execParTlbinv part v s
  | .tlbinvDone part => Sys2Proof.Machine.execTlbinvDone part s
  | .rgnQuery part v => Sys2Proof.Machine.execRgnQuery part v s
  | .place part v => Sys2Proof.Machine.execPlace part v s
  | .unplace part v => Sys2Proof.Machine.execUnplace part v s
  | .degpin part v => Sys2Proof.Machine.execDegpin part v s
  | .degunpin part v => Sys2Proof.Machine.execDegunpin part v s
  | .epochEnd => Sys2Proof.Machine.execEpochEnd s
  | .parWaymap die v => Sys2Proof.Machine.execParWaymap die v s
  | .hbmSlotcmt stack => Sys2Proof.Machine.execHbmSlotcmt stack s
  | .hbmFrameStart => Sys2Proof.Machine.execHbmFrameStart s
  | .powerInterval => Sys2Proof.Machine.execPowerInterval s
  | .powerThrottle part => Sys2Proof.Machine.execPowerThrottle part s
  | .pwrToken part v => Sys2Proof.Machine.execPwrToken part v s
  | .lnkVcw part port v => Sys2Proof.Machine.execLnkVcw part port v s
  | .mirrorPointDone => Sys2Proof.Machine.execMirrorPointDone s
  | .woadHeartbeat die => Sys2Proof.Machine.execWoadHeartbeat die s
  | .partnerLost die => Sys2Proof.Machine.execPartnerLost die s
  | .shadowTakeover die => Sys2Proof.Machine.execShadowTakeover die s
  | .failover inst => Sys2Proof.Machine.execFailover inst s
  | .resync pair => Sys2Proof.Machine.execResync pair s
  | .resyncDone pair => Sys2Proof.Machine.execResyncDone pair s
  | .create v => Sys2Proof.Machine.execCreate v s
  | .destroy v => Sys2Proof.Machine.execDestroy v s
  | .grant v => Sys2Proof.Machine.execGrant v s
  | .revoke v => Sys2Proof.Machine.execRevoke v s
  | .blkadd v => Sys2Proof.Machine.execBlkadd v s
  | .blkrem v => Sys2Proof.Machine.execBlkrem v s
  | .blkpair v => Sys2Proof.Machine.execBlkpair v s
  | .parBlkack part v => Sys2Proof.Machine.execParBlkack part v s
  | .blockScrubDone block => Sys2Proof.Machine.execBlockScrubDone block s
  | .functionLevelReset vf => Sys2Proof.Machine.execFunctionLevelReset vf s
  | .inboundRead who off len => Sys2Proof.Machine.execInboundRead who off len s
  | .inboundWrite who off data => Sys2Proof.Machine.execInboundWrite who off data s
  | .bind part v => Sys2Proof.Machine.execBind part v s
  | .unbind part v => Sys2Proof.Machine.execUnbind part v s
  | .sessRead part v => Sys2Proof.Machine.execSessRead part v s
  | .ingressMessage sess strm seq txts payload => Sys2Proof.Machine.execIngressMessage sess strm seq txts payload s
  | .chunkEgress sess firstBit => Sys2Proof.Machine.execChunkEgress sess firstBit s
  | .ethQueueClose part io node => Sys2Proof.Machine.execEthQueueClose part io node s
  | .servoLock tai offset => Sys2Proof.Machine.execServoLock tai offset s
  | .servoLockLoss => Sys2Proof.Machine.execServoLockLoss s
  | .powerGood => Sys2Proof.Machine.execPowerGood s
  | .dieRelease image pass => Sys2Proof.Machine.execDieRelease image pass s
  | .bootPhase => Sys2Proof.Machine.execBootPhase s
  | .alloc v => Sys2Proof.Machine.execAlloc v s
  | .free v => Sys2Proof.Machine.execFree v s
  | .rekey v => Sys2Proof.Machine.execRekey v s
  | .getVersion port => Sys2Proof.Machine.execGetVersion port s
  | .getCapabilities port => Sys2Proof.Machine.execGetCapabilities port s
  | .negotiateAlgorithms port => Sys2Proof.Machine.execNegotiateAlgorithms port s
  | .getDigests port => Sys2Proof.Machine.execGetDigests port s
  | .getCertificate port => Sys2Proof.Machine.execGetCertificate port s
  | .challenge port nonce => Sys2Proof.Machine.execChallenge port nonce s
  | .getMeasurements port index => Sys2Proof.Machine.execGetMeasurements port index s
  | .keyExchange port data => Sys2Proof.Machine.execKeyExchange port data s
  | .finish port mac => Sys2Proof.Machine.execFinish port mac s
  | .ideKm port stream part => Sys2Proof.Machine.execIdeKm port stream part s
  | .pldmMonitor sensor => Sys2Proof.Machine.execPldmMonitor sensor s
  | .pldmFwUpdate die image => Sys2Proof.Machine.execPldmFwUpdate die image s
  | .thermalOver die tok => Sys2Proof.Machine.execThermalOver die tok s
  | .thermalTrip => Sys2Proof.Machine.execThermalTrip s
  | .registerWrite who off v => Sys2Proof.Machine.execRegisterWrite who off v s
  | .translationComplete => Sys2Proof.Machine.execTranslationComplete s
  | .exchangeComplete part => Sys2Proof.Machine.execExchangeComplete part s
  | .chunkToEndpoint => Sys2Proof.Machine.execChunkToEndpoint s
  | .rxqRowArrival => Sys2Proof.Machine.execRxqRowArrival s
  | .collectivePacket part job gid tag rank data => Sys2Proof.Machine.execCollectivePacket part job gid tag rank data s

end Sys2Proof.Machine
end

