-- ==== Sys2Proof/Machine/Step.lean ====
section
/-! DEFINITION. One step: the next event of the agenda, else what the device does by itself, else the bundle of the task in focus (log 1). -/

namespace Sys2Proof.Machine

/-- After a bundle the next task has its turn. -/
def passOn (s0 : State) : Host.Outcome State Fault Refusal → Host.Outcome State Fault Refusal
  | .next s => .next (endTurn s0 s)
  | .fault f => .fault f
  | .refused r => .refused r

/-- One step. -/
def step (s : State) : Host.Outcome State Fault Refusal :=
  match s.agenda with
  | e :: rest => exec e.event (focus { s with agenda := rest } e.uid)
  | [] => match between s with
    | some t => .next t
    | none => if canIssue s then passOn s (exec (decode (fetch s.task)) s) else .next (idle s)

/-- s with an instruction where step fetches its next one (log 4, log 5). -/
def State.withFetchWord (s : State) (nbits w : Nat) : State := placeBundle s (tableBundle nbits w)

end Sys2Proof.Machine
end

