-- ==== Sys2Proof/Safety.lean ====
section
/-! DEFINITION. What the statements are said in: a safe step, a sound state, a task whose next bundle issues at once, and what a bundle leaves as it was. -/

namespace Sys2Proof.Machine

/-! ### Safety -/

/-- The machine goes on. -/
def Steps (s : State) : Prop := ∃ t, step s = .next t

/-- Memory has its canonical form, and hb counts every 128th ck (R262). -/
def Sound (s : State) : Prop := Memory.wf s.mem = true ∧ s.clk.hb = s.clk.ck / 128

/-! ### A bundle that issues -/

/-- The task in focus, alone, issues its next bundle now: it holds a core, nothing freezes or suspends it, no wait is left, no cause is pending, its due loads have their data, and it is in no round's last action (R27, R35, R110). -/
def Ready (s : State) : Prop :=
  canIssue s = true ∧ s.task.time.waitN = 0 ∧ s.task.pending = [] ∧ grouped s.task = false ∧ lateSeqs s.task = []
    ∧ s.task.spec.todo = []

/-- The state at the start of the bundle: a wait before it is over, every result that is due has landed (R28, R36, R37). -/
def opened (s : State) : State := { s with task := landDue (thaw s .stall).task s.task.regs.cyc }

/-- The state that the operation of a bundle changes: the bundle counted, so that the pc has moved on by one and cyc by one (R27, R182). -/
def begun (s : State) : State :=
  { opened s with task := { (opened s).task with segHold := (s.clk.ck, []), regs := { (opened s).task.regs with
      pc := ((opened s).task.regs.pc + 1) % 8192, cyc := (opened s).task.regs.cyc + 1 } } }

/-- The guard is met (R22). -/
def Taken (s : State) (g : Guard) : Prop := guardVal (opened s) (freeGuard (opened s) 0) g = true

/-- The guard is not met (R22). -/
def Skipped (s : State) (g : Guard) : Prop := guardVal (opened s) (freeGuard (opened s) 0) g = false

/-- The source has a value to give: a loaded row at the head of the load queue, a row of the ingress message that has arrived; neither it nor the guard is poisoned (R23, R35, R38, R395). -/
def Readable (s : State) (g : Guard) (src : Src) : Prop :=
  (src = .lq → ∃ e r, (opened s).task.lq = e :: r ∧ e.val.isSome = true)
    ∧ (src = .rxq → rxMissing (opened s).task = false)
    ∧ srcPoisoned (opened s) src = false
    ∧ regPoisoned (opened s).task (.p (renP (rrbRead (opened s)) g.p)) = false

/-- An operation in slot 0 acts: ready, taken, readable. -/
def Acts (s : State) (h : Head) : Prop := Ready s ∧ Taken s h.g ∧ Readable s h.g h.src

/-- The trigger value t (R23, R28). -/
def trigVal (s : State) (h : Head) : Row := srcVal (opened s) (freeSrc (opened s) 0) h.src

/-- The 64-bit trigger value (R78). -/
def trig64 (s : State) (h : Head) : W64 := lo64 (trigVal s h)

/-- What a register reads as after a value has been written to it: its low bits, p0 and m0 their constants, reserved bits 0 (R17, R19, R24). -/
def holds : RegDst → Row → Row
  | .s _, x | .lc, x | .ec, x => (x.setWidth 64).setWidth 1024
  | .v _, x => x
  | .p n, x => if n = 0 then 1 else BitVec.ofNat 1024 (b2n (x.getLsbD 0))
  | .m n, x => if n = 0 then (BitVec.allOnes 128).setWidth 1024 else (x.setWidth 128).setWidth 1024
  | .tcfg _, x => (x.setWidth 64 &&& 0x0fffffff).setWidth 1024
  | .acp, x => (x.setWidth 64 &&& 0x03ff03ff).setWidth 1024
  | .rrb, x => (x.setWidth 64 &&& 0x1f).setWidth 1024
  | .mcfg, x => (x.setWidth 64 &&& 0xff3f).setWidth 1024
  | .pcfg, x => (x.setWidth 64 &&& 0xffff).setWidth 1024

/-- A state with other registers. -/
def withRegs (s : State) (r : Regs) : State := { s with task := { s.task with regs := r } }

/-- A state with one more freeze. -/
def frozen (s : State) (f : Freeze) : State := { s with task := { s.task with freeze := s.task.freeze ++ [f] } }

/-- A taken branch: the target issues two cycles later than the next bundle would (R27). -/
def jumped (s : State) (target : Nat) : State := withRegs (begun s) { (begun s).task.regs with pc := target % 8192, cyc := s.task.regs.cyc + 3 }

/-- Operand ports consumed. -/
def eaten (s : State) (l : List Port) : State := { s with task := { s.task with ports := consumePorts s.task.ports l } }

/-- A timed result without its data yet, due at a cycle (R37). -/
def awaiting (s : State) (d : Dest) (due seq : Nat) : State :=
  { s with task := addFlight s.task { dest := d.norm, kind := .timed, val := none, poison := false, due := due, seq := seq, dead := false, landed := false } }

/-- A fixed or deferred result without its data yet (R36, R354). -/
def promised (s : State) (d : Dest) (kind : FlightKind) (due seq : Nat) : State :=
  { s with task := addFlight s.task { dest := d.norm, kind := kind, val := none, poison := false, due := due, seq := seq, dead := false, landed := false } }

/-- Where a triggered memory operation of bundle s goes: a speculative iteration's buffer, else the task's queue (R245, R354). -/
def enters (s u : State) (k : MemKind) : State :=
  if speculative s.task then bufferOp u (iterOf s.task) { seq := s.seq + 1, kind := k } else push u (s.seq + 1) k

/-- A store-queue operation has room, or none is needed (R84). -/
def hasRoom (s : State) : Prop := speculative s.task = true ∨ storeEntries s.task < 32

/-- What the trigger of slot 0 is given. -/
def trigger (s : State) (h : Head) : Trig :=
  { s0 := opened s, val := trigVal s h, slot := 0, seq := s.seq + 1, cyc := s.task.regs.cyc, free := freeTrig (opened s) 0, lead := none }

/-- What a trigger of this bundle takes from a port (R29). -/
def portRow (s : State) (p : Port) : Row := portVal (opened s).task.ports (freePort (opened s)) p

/-- Its low 64 bits (R78). -/
def port64 (s : State) (p : Port) : W64 := lo64 (portRow s p)

/-- The destination that a d port names, renamed (R32, R81). -/
def destAt (s : State) (p : Port) : Option Dest := destOf (rrbRead (opened s)) (port64 s p)

/-- A write of the row at pa by a task, or by the device, reaches that row alone: no bound plate holds it dirty, and its block is not mirrored (R227, R234, R366). -/
def quietRow (s : State) (pa : Nat) : Prop :=
  dirtyBound s (pa / 128) keepNone = [] ∧ shadowBlock s (pa / 2 ^ 31) = none

/-- The byte that a row at pa gives address a. -/
def byteOfRow (pa : Nat) (x : Row) (a : Nat) : Byte := BitVec.ofNat 8 (x.toNat / 256 ^ (a - pa / 128 * 128))

/-- The row of pa holds x, and every byte outside it reads as before. -/
def writesRow (s t : State) (pa : Nat) (x : Row) : Prop :=
  ∀ a, sget (w := 8) t.mem a = if pa / 128 * 128 ≤ a ∧ a < pa / 128 * 128 + 128 then byteOfRow pa x a else sget (w := 8) s.mem a

/-- The task's bound rows stand for lines of their own: a write of one of them takes none of the others away (R227). -/
def Apart (t : Task) : Prop :=
  ∀ a ∈ t.stashRows, ∀ b ∈ t.stashRows, a.row ≠ b.row → ∀ k, stashHit a k = true → stashHit b k = false

/-- A bound row whose fill captured physical address pa, in a page that is not packed (R228). -/
def Captured (b : StashRow) (pa : Nat) : Prop :=
  ∃ va coh fmt base bad, b.src = .glob va pa coh fmt base bad ∧ packedOf fmt = none

/-- Dirty bound rows that can go home undisturbed: each was captured at a row of its own, which no other dirty bound row stands for and no block mirrors, and no private line of the core waits for its own way home (R221, R227, R366). -/
def HomeBound (s : State) (l : List StashRow) : Prop :=
  Memory.wf s.mem = true ∧ Apart s.task ∧ (∀ x ∈ s.side.l1, x.core = coreNum s.task → x.coh = 0 → x.dirty = false)
    ∧ (∀ b ∈ l, ∃ pa, Captured b pa ∧ dirtyBound s (pa / 128) (keepRow s.task.uid (some b.row)) = [] ∧ shadowBlock s (pa / 2 ^ 31) = none)
    ∧ l.Pairwise fun a b => ∀ p q, Captured a p → Captured b q → p / 128 ≠ q / 128

/-- The data of bound rows stand in the rows that their fills captured; every other byte reads as before (R228, R275, R276). -/
def AtHome (s t : State) (l : List StashRow) : Prop :=
  (∀ b ∈ l, ∀ pa, Captured b pa → ∀ a, a / 128 = pa / 128 → sget (w := 8) t.mem a = byteOfRow pa (sget s.task.plates b.row) a)
    ∧ ∀ a, (∀ b ∈ l, ∀ pa, Captured b pa → a / 128 ≠ pa / 128) → sget (w := 8) t.mem a = sget (w := 8) s.mem a

/-! ### What a bundle leaves as it was -/

/-- The bundle has been counted: the pc moves on by one, cyc by one (R27, R182). -/
def Advances (s t : State) : Prop :=
  t.task.regs.pc = (s.task.regs.pc + 1) % 8192 ∧ t.task.regs.cyc = s.task.regs.cyc + 1

/-- A register that the pop of a tile source moves on (R152). -/
def poppedReg (src : Src) (d : RegDst) : Bool := match src with
  | .tn k => d == .tcfg k
  | _ => false

/-- Every register of the task but the pc, cyc and the popped tile's configuration reads as at the start of the bundle, but for those of a list (R28). -/
def KeepsRegs (s t : State) (src : Src) (but : List RegDst) : Prop :=
  ∀ d, poppedReg src d = false → but.contains d = false → t.task.regs.read d = (opened s).task.regs.read d

/-- Every byte of memory reads as before. -/
def KeepsMemory (s t : State) : Prop := ∀ a, sget (w := 8) t.mem a = sget (w := 8) s.mem a

/-- The rest of the machine is as before: the other tasks, caches and translations, the scheduler with its launches and engines, partitions, rings, endpoint, mirrors, boot, the agenda. -/
def KeepsDevice (s t : State) : Prop :=
  t.others = s.others ∧ t.side = s.side ∧ t.sched = s.sched ∧ t.parts = s.parts ∧ t.rings = s.rings ∧ t.ept = s.ept
    ∧ t.mir = s.mir ∧ t.boot = s.boot ∧ t.agenda = s.agenda

/-- The task's own memories and queues are as at the start of the bundle: tiles, planes and accumulators, Lake, plates with their owners, stash, pending memory operations, its round, its interrupts, freezes, place and frame. -/
def KeepsTask (s t : State) : Prop :=
  t.task.tiles = (opened s).task.tiles ∧ t.task.tilePoison = (opened s).task.tilePoison ∧ t.task.mx = s.task.mx
    ∧ t.task.lake = s.task.lake ∧ t.task.plates = s.task.plates ∧ t.task.platePoison = s.task.platePoison ∧ t.task.owners = s.task.owners ∧ t.task.stash = s.task.stash ∧ t.task.stashRows = s.task.stashRows
    ∧ t.task.memq = s.task.memq ∧ t.task.spec = s.task.spec ∧ t.task.uint = s.task.uint ∧ t.task.freeze = []
    ∧ t.task.place = s.task.place ∧ t.task.frame = s.task.frame ∧ t.task.info = s.task.info ∧ t.task.egress = s.task.egress
    ∧ t.task.sc = s.task.sc ∧ t.task.released = s.task.released ∧ t.task.fused = s.task.fused ∧ t.task.accLost = s.task.accLost ∧ t.task.pending = []

/-- All of that at once, for an operation that only sends a result. -/
def KeepsAll (s t : State) (src : Src) : Prop := KeepsRegs s t src [] ∧ KeepsMemory s t ∧ KeepsDevice s t ∧ KeepsTask s t

/-- A result x for destination d, due `lat` cycles after the bundle's issue cycle, joins the results on their way (R32, R36). -/
def Sends (s t : State) (d : Dest) (x : Row) (lat : Nat) : Prop :=
  t.task.flights = (sendResult (opened s).task d x (s.task.regs.cyc + lat) (s.seq + 1)).flights

/-- A trigger has consumed ports: those not held are empty (R29, R79). -/
def Consumes (s t : State) (l : List Port) : Prop := t.task.ports = consumePorts s.task.ports l

/-- An operation in slot 0 completes: exec answers a next state in which its one result is on its way to the destination, its operands are consumed, and nothing else has changed. -/
def Yields (i : Instr) (s : State) (src : Src) (dp : Port) (ports : List Port) (d : Dest) (x : Row) (lat : Nat) : Prop :=
  ∃ t, exec i s = .next t ∧ Sends s t d x lat ∧ Consumes s t (dp :: ports) ∧ Advances s t ∧ KeepsAll s t src

/-- A result unit gives x: in every state in which slot 0 acts and the d port names a destination, the operation completes with x for that destination within lat cycles. -/
def Results (i : Instr) (s : State) (h : Head) (dp : Port) (ports : List Port) (x : Row) (lat : Nat) : Prop :=
  ∀ d, Acts s h → destAt s dp = some d → Yields i s h.src dp ports d x lat

/-- What a vec operation of slot 0 reads: type, rounding, saturation, lanes, mask (R49, R120). -/
def vecCfg (s : State) : VecCfg := typeWord (portRow s .vecy) (portRow s .veck) (ver1 (opened s).task)

/-- Lane i of the trigger value, and of a port, under the vec type. -/
def vecT (s : State) (h : Head) (i : Nat) : Nat := laneN (trigVal s h) (vecCfg s).w i
def vecP (s : State) (p : Port) (i : Nat) : Nat := laneN (portRow s p) (vecCfg s).w i

/-- Lane i is active (R120). -/
def vecOn (s : State) (i : Nat) : Bool := (vecCfg s).k.getLsbD i

/-- The vec operation gives the row whose lanes are f (R122). -/
def GivesLanes (i : Instr) (s : State) (h : Head) (ports : List Port) (lat : Nat) (f : Nat → Nat) : Prop :=
  ∀ r : Row, (∀ k < (vecCfg s).n, laneN r (vecCfg s).w k = f k) → Results i s h .vecd (.veck :: .vecy :: ports) r lat

/-- The vec operation gives a mask: bit k is 1 exactly for the active lanes that meet p (R122). -/
def GivesMask (i : Instr) (s : State) (h : Head) (ports : List Port) (lat : Nat) (p : Nat → Prop) : Prop :=
  ∀ r : Row, (∀ k < 1024, r.getLsbD k = true ↔ k < (vecCfg s).n ∧ vecOn s k = true ∧ p k) →
    Results i s h .vecd (.veck :: .vecy :: ports) r lat

/-- The vec operation gives one element in lane 0, zero above (R132). -/
def GivesOne (i : Instr) (s : State) (h : Head) (x : Nat) (lat : Nat) : Prop :=
  x < 2 ^ (vecCfg s).w → Results i s h .vecd [.veck, .vecy] (BitVec.ofNat 1024 x) lat

/-- The configuration of the matrix unit can be read: neither on its way nor poisoned, and no copy of the task is under way that could touch the accumulator rows (R159, R162). -/
def MxReady (s : State) : Prop :=
  (∀ d ∈ [RegDst.mcfg, .pcfg, .acp], regPoisoned (opened s).task d = false ∧ inFlight (opened s).task d = false) ∧ opsOf s s.task.uid = []

/-- A field of mcfg, pcfg or acp at the start of the bundle. -/
def mxField (s : State) (r : Regs → W64) (lo n : Nat) : Nat := (r (opened s).task.regs).toNat / 2 ^ lo % 2 ^ n

/-- A state with another matrix unit. -/
def withMx (s : State) (m : Matrix) : State := { s with task := { s.task with mx := m } }

/-- The operation traps with cause c: exec answers the state in which that trap has been taken (R33, R309). -/
def Traps (i : Instr) (s : State) (c : Trap) : Prop := exec i s = .next (takeTrap (opened s) c)

/-- The task has nothing under way: no pending memory operation, no result in flight, no filled bound row, no private line of its core, no engine operation. -/
def Bare (s : State) : Prop :=
  s.task.memq = [] ∧ s.task.flights = [] ∧ s.task.stashRows = [] ∧ (∀ l ∈ s.side.l1, l.core ≠ coreNum s.task) ∧ opsOf s s.task.uid = []

/-- A field of the newest record that waits for a ring (R315). -/
def newest (s : State) (ring lo n : Nat) : Nat :=
  match (ringAt s ring).waiting.getLast? with
  | some x => x.words.toNat / 2 ^ lo % 2 ^ n
  | none => 0

/-- A ring can take a record of its partition: it is one of the 65, and its buffer has room (R318). -/
def ringRoom (s : State) (ring : Nat) : Prop :=
  ring < s.rings.length ∧ ((ringAt s ring).waiting.filter fun w => !w.retry).length < 64

/-- The task has ended with a terminal trap: its instance fails, a terminal record names cause, place and code; registers and memory are as they were (R33, R184, R309, R315). -/
def EndsWith (s t : State) (c : Trap) : Prop :=
  let r := ringOf s s.task.info.part false
  t.task.place = .ended false ∧ t.task.regs = s.task.regs ∧ KeepsMemory s t
    ∧ (∀ i, findInst s s.task.info.inst = some i → ∃ j, findInst t s.task.info.inst = some j ∧ j.failed = true ∧ j.tasksLeft = i.tasksLeft - 1)
    ∧ (ringAt t r).waiting.length = (ringAt s r).waiting.length + 1
    ∧ newest t r 16 16 = 0xffff ∧ newest t r 32 8 = causeCode c.cause ∧ newest t r 40 8 = 0 ∧ newest t r 64 6 = s.task.info.part % 64
    ∧ newest t r 72 5 = c.lane % 32 ∧ newest t r 80 16 = (c.slot * 2 ^ 13 + s.task.regs.pc) % 2 ^ 16
    ∧ newest t r 192 64 = s.task.info.seqno % 2 ^ 64 ∧ newest t r 320 64 = c.addr % 2 ^ 64 ∧ newest t r 384 64 = c.info % 2 ^ 64

/-- The newest record of ring `ring` is an event of partition p with this code and kind and this INFO1 (R315, R316). -/
def EventRaised (s t : State) (p code kind info1 : Nat) : Prop :=
  let r := ringOf s p false
  (ringAt t r).waiting.length = (ringAt s r).waiting.length + 1 ∧ newest t r 40 8 = kind ∧ newest t r 48 16 = code
    ∧ newest t r 64 6 = p % 64 ∧ newest t r 384 64 = info1 % 2 ^ 64

/-- The newest records of partition p's ring are two events, the one given last on top (R315, R316). -/
def TwoEvents (s t : State) (p : Nat) (code1 kind1 info1 code2 kind2 info2 : Nat) : Prop :=
  ∃ u x, EventRaised s u p code1 kind1 info1 ∧ EventRaised u t p code2 kind2 info2
    ∧ (ringAt t (ringOf s p false)).waiting = (ringAt u (ringOf s p false)).waiting ++ [x]

/-- Partition number p stands in the list of partitions, with its tables whole. -/
def HasPart (s : State) (p : Nat) : Prop :=
  p < s.parts.length ∧ (getPart s p).sch.queues.length = 4 ∧ (getPart s p).sch.quota.length = 16 ∧ (getPart s p).sch.unitsHeld.length = 16

/-- The bundle ends in t with the effect that u shows: t is u but for the pop of the source (load queue, message cursor, read pointer of a tile), the time that has passed, and the model's own counters. -/
def Closes (s : State) (src : Src) (u t : State) : Prop :=
  (∀ d, poppedReg src d = false → t.task.regs.read d = u.task.regs.read d)
    ∧ t.task.regs.pc = u.task.regs.pc ∧ t.task.regs.cyc = u.task.regs.cyc ∧ t.clk.ck = u.clk.ck + (u.task.regs.cyc - s.task.regs.cyc)
    ∧ t.task.ports = u.task.ports ∧ t.task.flights = u.task.flights ∧ t.task.memq = u.task.memq
    ∧ (src ≠ .lq → t.task.lq = u.task.lq)
    ∧ t.task.tiles = u.task.tiles ∧ t.task.tilePoison = u.task.tilePoison ∧ t.task.mx = u.task.mx ∧ t.task.lake = u.task.lake
    ∧ t.task.plates = u.task.plates ∧ t.task.platePoison = u.task.platePoison ∧ t.task.owners = u.task.owners
    ∧ t.task.stash = u.task.stash ∧ t.task.stashRows = u.task.stashRows ∧ t.task.sc = u.task.sc ∧ t.task.released = u.task.released ∧ t.task.accLost = u.task.accLost
    ∧ t.task.spec = u.task.spec ∧ t.task.uint = u.task.uint ∧ t.task.freeze = u.task.freeze ∧ t.task.pending = u.task.pending
    ∧ t.task.fused = u.task.fused ∧ t.task.place = u.task.place ∧ t.task.frame = u.task.frame ∧ t.task.info = u.task.info
    ∧ t.task.egress = u.task.egress ∧ t.task.time.waitN = u.task.time.waitN ∧ t.task.time.sysr = u.task.time.sysr
    ∧ t.task.time.rngs = u.task.time.rngs
    ∧ t.mem = u.mem ∧ t.others = u.others ∧ t.side = u.side ∧ t.sched = u.sched ∧ t.parts = u.parts ∧ t.rings = u.rings
    ∧ t.ept = u.ept ∧ t.mir = u.mir ∧ t.boot = u.boot ∧ t.agenda = u.agenda

/-- An operation in slot 0 completes with an effect: exec answers a next state that ends the bundle with what u shows. -/
def Completes (i : Instr) (s : State) (src : Src) (u : State) : Prop := ∃ t, exec i s = .next t ∧ Closes s src u t

/-! ### Exact values and their rounding, in the words of the spec (R51, R52, R55, R56, R74) -/

/-- The rational number that a finite value stands for. -/
def numOf : FV → Rat
  | .fin s m e => (if s then -(m : Rat) else m) * (2 : Rat) ^ e
  | _ => 0

/-- An exact real, given by how it compares with every rational. -/
abbrev Exact := Rat → Ordering

/-- A rational as an exact real. -/
def exactly (x : Rat) : Exact := fun y => if x < y then .lt else if x = y then .eq else .gt

/-- The values that a rounding may choose, and those whose least significant bit is 0. -/
structure Grid where
  on : Rat → Prop
  even : Rat → Prop

/-- The integers. -/
def intGrid : Grid := { on := fun y => ∃ n : Int, y = n, even := fun y => ∃ n : Int, y = 2 * n }

/-- n · 2^q has the precision and the subnormal spacing of a format; there is no upper limit. -/
def FmtPoint (f : Fmt) (n q : Int) : Prop :=
  1 - f.bias - f.p ≤ q ∧ n.natAbs < 2 ^ (f.p + 1) ∧ (2 ^ f.p ≤ n.natAbs ∨ q = 1 - f.bias - f.p)

/-- The grid of a format. -/
def fmtGrid (f : Fmt) : Grid :=
  { on := fun y => ∃ n q, FmtPoint f n q ∧ y = n * (2 : Rat) ^ q, even := fun y => ∃ n q, FmtPoint f n q ∧ y = n * (2 : Rat) ^ q ∧ n % 2 = 0 }

/-- The greatest value of a grid that x does not lie below, and the least that it does not lie above. -/
def Below (g : Grid) (x : Exact) (y : Rat) : Prop := x y ≠ .lt ∧ ∀ z, g.on z → x z ≠ .lt → z ≤ y
def Above (g : Grid) (x : Exact) (y : Rat) : Prop := x y ≠ .gt ∧ ∀ z, g.on z → x z ≠ .gt → y ≤ z

/-- y is no farther from x than any other value of the grid, and even where another is as near. -/
def Nearest (g : Grid) (x : Exact) (y : Rat) : Prop :=
  ∀ z, g.on z → (y < z → x ((y + z) / 2) ≠ .gt ∧ (x ((y + z) / 2) = .eq → g.even y)) ∧ (z < y → x ((y + z) / 2) ≠ .lt ∧ (x ((y + z) / 2) = .eq → g.even y))

/-- x rounds to y under a mode: 0 RNE, 1 RTZ, 2 RU, 3 RD (R49, R55). -/
def RoundsTo (g : Grid) (rm : Nat) (x : Exact) (y : Rat) : Prop :=
  g.on y ∧ match rm with
    | 0 => Nearest g x y
    | 1 => if x 0 = .lt then Above g x y else Below g x y
    | 2 => Above g x y
    | _ => Below g x y

/-- The largest finite value (R51). -/
def greatest (f : Fmt) : Rat := if f.inf then (2 - (2 : Rat) ^ (-(f.p : Int))) * (2 : Rat) ^ (f.bias : Int) else 448

/-- A pattern holds a finite value with a sign bit. -/
def Shows (f : Fmt) (pat : Nat) (s : Bool) (y : Rat) : Prop := pat < 2 ^ f.width ∧ ∃ n q, decodeF f pat = .fin s n q ∧ numOf (.fin s n q) = y

/-- A pattern is the result of rounding a non-zero x of sign s into a format, overflow and all (R55, R56); that a zero result keeps the sign of x is the model's choice (log 99). -/
def Takes (f : Fmt) (rm : Nat) (x : Exact) (s : Bool) (pat : Nat) : Prop :=
  ∃ y, RoundsTo (fmtGrid f) rm x y ∧ (y.abs ≤ greatest f → Shows f pat s y)
    ∧ (greatest f < y.abs → let toInf := rm = 0 ∨ (rm = 2 ∧ s = false) ∨ (rm = 3 ∧ s = true)
      (toInf → if f.inf then pat < 2 ^ f.width ∧ decodeF f pat = .inf s else pat = f.nan)
        ∧ (¬ toInf → Shows f pat s (if s then -greatest f else greatest f)))

/-- The same with the flush of results in bf16 under VER = 1 (R74). -/
def Delivers (v1 : Bool) (f : Fmt) (rm : Nat) (x : Exact) (s : Bool) (pat : Nat) : Prop :=
  let tiny := v1 = true ∧ f = fmtB ∧ x ((2 : Rat) ^ (-126 : Int)) = .lt ∧ x (-(2 : Rat) ^ (-126 : Int)) = .gt
  (tiny → Shows f pat s 0) ∧ (¬ tiny → Takes f rm x s pat)

/-! ### The device's own events -/

/-- No task has a bound row: nothing stands in a plate that a write to memory could take away (R227). -/
def NoBound (s : State) : Prop := ∀ t ∈ allTasks s, t.stashRows = []

/-- No block is mirrored (R366). -/
def NoShadow (s : State) : Prop := ∀ b, shadowBlock s b = none

/-- Memory at rest for a write by the device: in its canonical form, no bound rows, no mirrored blocks. -/
def Still (s : State) : Prop := Memory.wf s.mem = true ∧ NoBound s ∧ NoShadow s

/-- Memory holds the bytes l at a and upward; every other byte reads as before. -/
def WritesBytes (s t : State) (a : Nat) (l : List Byte) : Prop :=
  ∀ b, sget (w := 8) t.mem b = if a ≤ b ∧ b < a + l.length then l.getD (b - a) 0 else sget (w := 8) s.mem b

/-- The n bytes of a number, least first. -/
def bytesOf (n x : Nat) : List Byte := (List.range n).map fun k => BitVec.ofNat 8 (x / 256 ^ k)

/-- Nothing but the partitions differs, and of them only number p. -/
def OnlyPart (s t : State) (p : Nat) : Prop := t = { s with parts := t.parts } ∧ ∀ k, k ≠ p → getPart t k = getPart s k

/-- Nothing but ring r differs. -/
def OnlyRing (s t : State) (r : Nat) : Prop := t = { s with rings := t.rings } ∧ ∀ k, k ≠ r → ringAt t k = ringAt s k

/-- Nothing but the memory side (caches, regions, ways, marks) differs. -/
def OnlySide (s t : State) : Prop := t = { s with side := t.side }

/-- Nothing but the Mordant die's state differs. -/
def OnlyBoot (s t : State) : Prop := t = { s with boot := t.boot }

/-- Nothing but the mirror pairs differs. -/
def OnlyMirrors (s t : State) : Prop := t = { s with mir := t.mir }

/-- Nothing but the task in focus differs. -/
def OnlyTask (s t : State) : Prop := t = { s with task := t.task }

/-- Nothing but the endpoint differs. -/
def OnlyEndpoint (s t : State) : Prop := t = { s with ept := t.ept }

/-- Soft requests (R328): every task on a core that `who` names and that has not been asked is asked now; nothing else of the tasks changes. -/
def Asks (s t : State) (who : Task → Bool) : Prop :=
  let f := fun (x : Task) => if who x = true ∧ onCore x = true ∧ x.time.ladder = .run then
    { x with time := { x.time with ladder := .asked s.clk.ftime, softPending := true } } else x
  t.task = f s.task ∧ t.others = s.others.map f

/-- The newest record of partition p's ring is an error charge of `lines` lines at pa (R315, R332). -/
def Charged (s t : State) (p lines pa : Nat) : Prop :=
  let r := ringOf s p false
  newest t r 40 8 = 5 ∧ newest t r 64 6 = p % 64 ∧ newest t r 384 64 = lines % 2 ^ 64 ∧ newest t r 448 64 = pa % 2 ^ 64

/-- MRD_CMDSTAT reads a state with a reason (R378). -/
def CmdStat (t : State) (reason st : Nat) : Prop := t.boot.cmdstat = BitVec.ofNat 64 (2 ^ 8 * reason + st)

/-- A PAR_CMD that is judged: nothing under way, its OP, no reserved bit (R378). -/
def CmdOf (s : State) (v : W64) (op : Nat) : Prop := v.toNat / 2 ^ 60 = op ∧ v.toNat / 2 ^ 48 % 2 ^ 5 = 0 ∧ s.boot.cmdstat.toNat % 4 ≠ 1

/-- A command is refused with a reason, and nothing else changes. -/
def CmdRefused (i : Instr) (s : State) (reason : Nat) : Prop :=
  ∃ t, exec i s = .next t ∧ OnlyBoot s t ∧ t.boot = { s.boot with cmdstat := t.boot.cmdstat } ∧ CmdStat t reason 3

/-- A command of partition p is done, and changes its resources alone. -/
def CmdDone (i : Instr) (s : State) (p : Nat) (f : PartRes → PartRes) : Prop :=
  ∃ t, exec i s = .next t ∧ CmdStat t 0 2 ∧ (getPart t p) = { getPart s p with res := f (getPart s p).res }
    ∧ (∀ k, k ≠ p → getPart t k = getPart s k) ∧ t.mem = s.mem ∧ t.task = s.task ∧ t.sched = s.sched ∧ t.rings = s.rings

end Sys2Proof.Machine
end

