-- ==== Sys2Proof/Certificates/Slice0/Obligations.lean ====
section
/-! DEFINITION. The statements of the model, each about a numbered rule of the spec. -/

open Sys2Proof Sys2Proof.Machine

/-! ### Scalar units -/

/-- R92: each arithmetic and logic operation writes OP(a, t) within 1 issue cycle and changes nothing else. -/
def Sys2Proof.Claims.ScalarLogic : Prop := ∀ (s : State) (u : Sa) (h : Head),
  let a := port64 s (saA u)
  let t := trig64 s h
  let Gives := fun (i : Instr) (x : W64) => Results i s h (saD u) [saA u] (row64 x) 1
  Gives (.add u h) (BitVec.ofNat 64 (a.toNat + t.toNat)) ∧ Gives (.sub u h) (BitVec.ofInt 64 (a.toNat - t.toNat))
    ∧ Gives (.and u h) (a &&& t) ∧ Gives (.or u h) (a ||| t) ∧ Gives (.xor u h) (a ^^^ t) ∧ Gives (.andn u h) (a &&& ~~~t)
    ∧ Gives (.min u h) (BitVec.ofInt 64 (min a.toInt t.toInt)) ∧ Gives (.max u h) (BitVec.ofInt 64 (max a.toInt t.toInt))
    ∧ Gives (.minu u h) (BitVec.ofNat 64 (min a.toNat t.toNat)) ∧ Gives (.maxu u h) (BitVec.ofNat 64 (max a.toNat t.toNat))

/-- R93: a shift by 64 or more is not reduced; rotl uses t[5:0]. -/
def Sys2Proof.Claims.ScalarShifts : Prop := ∀ (s : State) (u : Sa) (h : Head),
  let a := port64 s (saA u)
  let t := trig64 s h
  let Gives := fun (i : Instr) (x : W64) => Results i s h (saD u) [saA u] (row64 x) 1
  Gives (.shl u h) (BitVec.ofNat 64 (a.toNat * 2 ^ t.toNat)) ∧ Gives (.shr u h) (BitVec.ofNat 64 (a.toNat / 2 ^ t.toNat))
    ∧ Gives (.sar u h) (BitVec.ofInt 64 (a.toInt / 2 ^ t.toNat))
    ∧ Gives (.rotl u h) ((a <<< (t.toNat % 64)) ||| (a >>> (64 - t.toNat % 64)))

/-- R94, R95: a comparison writes 1 when its relation holds and 0 otherwise; sel writes a when t is not 0 and b when it is. -/
def Sys2Proof.Claims.ScalarCompareSelect : Prop := ∀ (s : State) (u : Sa) (h : Head),
  let a := port64 s (saA u)
  let b := port64 s (saB u)
  let t := trig64 s h
  let Tests := fun (i : Instr) (p : Prop) =>
    (p → Results i s h (saD u) [saA u] (row64 1) 1) ∧ (¬ p → Results i s h (saD u) [saA u] (row64 0) 1)
  Tests (.seq u h) (a = t) ∧ Tests (.sne u h) (a ≠ t) ∧ Tests (.slt u h) (a.toInt < t.toInt) ∧ Tests (.sltu u h) (a.toNat < t.toNat)
    ∧ Tests (.sle u h) (a.toInt ≤ t.toInt) ∧ Tests (.sleu u h) (a.toNat ≤ t.toNat)
    ∧ (t ≠ 0 → Results (.sel u h) s h (saD u) [saA u, saB u] (row64 a) 1)
    ∧ (t = 0 → Results (.sel u h) s h (saD u) [saA u, saB u] (row64 b) 1)

/-- R96: the product is exact; mul gives bits 63 to 0, mulh and mulhu bits 127 to 64 of the signed and the unsigned product, within 3 cycles. -/
def Sys2Proof.Claims.ScalarProducts : Prop := ∀ (s : State) (u : Sa) (h : Head),
  let a := port64 s (saA u)
  let t := trig64 s h
  let Gives := fun (i : Instr) (x : W64) => Results i s h (saD u) [saA u] (row64 x) 3
  Gives (.mul u h) (BitVec.ofInt 64 (a.toInt * t.toInt))
    ∧ Gives (.mulh u h) ((BitVec.ofInt 128 (a.toInt * t.toInt)).extractLsb' 64 64)
    ∧ Gives (.mulhu u h) ((BitVec.ofNat 128 (a.toNat * t.toNat)).extractLsb' 64 64)

/-- R97: clz and ctz count the zero bits above the highest and below the lowest set bit, 64 for 0; popc counts the set bits. -/
def Sys2Proof.Claims.ScalarCounts : Prop := ∀ (s : State) (u : Sa) (h : Head) (n : Nat),
  let t := trig64 s h
  let Gives := fun (i : Instr) => Results i s h (saD u) [] (row64 (BitVec.ofNat 64 n)) 1
  ((t = 0 ∧ n = 64 ∨ n < 64 ∧ 2 ^ (63 - n) ≤ t.toNat ∧ t.toNat < 2 ^ (64 - n)) → Gives (.clz u h))
    ∧ ((t = 0 ∧ n = 64 ∨ n < 64 ∧ 2 ^ n ∣ t.toNat ∧ t.getLsbD n = true) → Gives (.ctz u h))
    ∧ (n = (List.range 64).countP (fun k => t.getLsbD k) → Gives (.popc u h))

/-- R98: the field of width min(W, 64) at bit LO, cut off at bit 63; bfx extends it by SX, bfi puts a's low bits into b. -/
def Sys2Proof.Claims.ScalarFields : Prop := ∀ (s : State) (u : Sa) (h : Head),
  let a := port64 s (saA u)
  let b := port64 s (saB u)
  let t := trig64 s h
  let w := min (t.extractLsb' 8 7).toNat 64
  let lo := (t.extractLsb' 0 6).toNat
  let f := a.toNat / 2 ^ lo % 2 ^ w
  let x : W64 := BitVec.ofInt 64 (if t.getLsbD 15 = true ∧ 1 ≤ w ∧ 2 ^ (w - 1) ≤ f then (f : Int) - 2 ^ w else f)
  Results (.bfx u h) s h (saD u) [saA u] (row64 x) 1
    ∧ ∀ y : W64, (∀ k < 64, y.getLsbD k = if lo ≤ k ∧ k < lo + w then a.getLsbD (k - lo) else b.getLsbD k) →
      Results (.bfi u h) s h (saD u) [saA u, saB u] (row64 y) 1

/-- R99: for a width from 1 to 63 sext copies bit w - 1 upward and zext clears; any other width leaves a as it is. -/
def Sys2Proof.Claims.ScalarNarrow : Prop := ∀ (s : State) (u : Sa) (h : Head) (x z : W64),
  let a := port64 s (saA u)
  let w := (trig64 s h).toNat % 128
  (∀ k < 64, x.getLsbD k = if 1 ≤ w ∧ w ≤ k then a.getLsbD (w - 1) else a.getLsbD k) →
  (∀ k < 64, z.getLsbD k = if 1 ≤ w ∧ w ≤ k then false else a.getLsbD k) →
  Results (.sext u h) s h (saD u) [saA u] (row64 x) 1 ∧ Results (.zext u h) s h (saD u) [saA u] (row64 z) 1

/-- R92 to R95, R97 to R99: the scalar operations of latency 1, each writing its result within 1 issue cycle and changing nothing else. -/
def Obligations.ScalarOneCycle : Prop := Claims.ScalarLogic ∧ Claims.ScalarShifts ∧ Claims.ScalarCompareSelect ∧ Claims.ScalarCounts ∧ Claims.ScalarFields ∧ Claims.ScalarNarrow

/-- R100: division truncates toward zero and the remainder takes the sign of the dividend; by 0 the quotient is all ones and the remainder the dividend. -/
def Sys2Proof.Claims.ScalarDivide : Prop := ∀ (s : State) (h : Head),
  let a := port64 s .sa1a
  let t := trig64 s h
  let Gives := fun (i : Instr) (x : W64) => Results i s h .sa1d [.sa1a] (row64 x) 24
  (t = 0 → Gives (.div h) (BitVec.allOnes 64) ∧ Gives (.divu h) (BitVec.allOnes 64) ∧ Gives (.rem h) a ∧ Gives (.remu h) a)
    ∧ (t ≠ 0 → ∀ q r : Int, a.toInt = q * t.toInt + r → r.natAbs < t.toInt.natAbs → (0 ≤ a.toInt → 0 ≤ r) → (a.toInt ≤ 0 → r ≤ 0) →
        Gives (.div h) (BitVec.ofInt 64 q) ∧ Gives (.rem h) (BitVec.ofInt 64 r))
    ∧ (t ≠ 0 → ∀ q r : Nat, a.toNat = q * t.toNat + r → r < t.toNat → Gives (.divu h) (BitVec.ofNat 64 q) ∧ Gives (.remu h) (BitVec.ofNat 64 r))

/-- R96, R100: the exact products, within 3 cycles, and the quotients and remainders, within 24. -/
def Obligations.ScalarMulDiv : Prop := Claims.ScalarProducts ∧ Claims.ScalarDivide

/-- R101: lea and leaw add a base, a scaled index and a signed displacement; cadd adds modulo M, or modulo 2^64 where M is 0. -/
def Obligations.AddressUnit : Prop := ∀ (s : State) (h : Head),
  let a := port64 s .agua
  let b := port64 s .agub
  let t := trig64 s h
  let Gives := fun (i : Instr) (x : W64) => Results i s h .agud [.agua, .agub] (row64 x) 1
  Gives (.lea h) (BitVec.ofInt 64 (a.toNat + t.toNat * 2 ^ (b.toNat % 64) + b.toInt / 256))
    ∧ Gives (.leaw h) (BitVec.ofInt 64 (a.toNat + t.toNat * 2 ^ (7 + b.toNat % 64) + b.toInt / 256))
    ∧ (b = 0 → Gives (.cadd h) (a + t))
    ∧ (b ≠ 0 → ∀ r : Nat, r < b.toNat → (b.toNat : Int) ∣ a.toInt + t.toInt - r → Gives (.cadd h) (BitVec.ofNat 64 r))

/-! ### Moves, guards, landings -/

/-- R19, R24, R28: a move writes its register at the end of the bundle with the source's low bits, and nothing else. -/
def Sys2Proof.Claims.MoveToRegister : Prop := ∀ (s : State) (g : Guard) (src : Src) (hold : Bool) (r : RegDst),
  let h : Head := { g := g, src := src }
  let d := renDst (rrbRead (opened s)) r
  Acts s h → (∀ k, r = .tcfg k → ∀ f ∈ (opened s).task.flights, landsAfter s.task.regs.cyc k f = false) →
  ∃ t, exec (.move g src hold (.reg r)) s = .next t
    ∧ (poppedReg src d = false → t.task.regs.read d = holds d (trigVal s h))
    ∧ KeepsRegs s t src [d] ∧ t.task.ports = s.task.ports ∧ KeepsMemory s t ∧ KeepsDevice s t ∧ KeepsTask s t ∧ Advances s t

/-- R29, R31: a move into an operand port latches the value, as many low bits as the port holds, with the hold mark; the other ports stay. -/
def Sys2Proof.Claims.MoveToPort : Prop := ∀ (s : State) (g : Guard) (src : Src) (hold : Bool) (p : Port),
  let h : Head := { g := g, src := src }
  Acts s h → s.task.ports.length = 37 →
  ∃ t, exec (.move g src hold (.port p)) s = .next t
    ∧ (∀ n, portVal t.task.ports n p = BitVec.ofNat 1024 ((trigVal s h).toNat % 2 ^ portWidth p))
    ∧ (nth t.task.ports (portIdx p) Latch.empty).held = hold
    ∧ (∀ q, q ≠ p → nth t.task.ports (portIdx q) Latch.empty = nth s.task.ports (portIdx q) Latch.empty)
    ∧ t.task.flights = (opened s).task.flights ∧ KeepsAll s t src ∧ Advances s t

/-- R153: a move into a tile write port takes a segment of its tile at the next bundle. -/
def Sys2Proof.Claims.MoveToTile : Prop := ∀ (s : State) (g : Guard) (src : Src) (hold : Bool) (k : BitVec 3),
  let h : Head := { g := g, src := src }
  Acts s h → (∀ j, src ≠ .tn j) →
  ∃ t, exec (.move g src hold (.tileW k)) s = .next t
    ∧ t.task.ports = s.task.ports ∧ KeepsAll s t src ∧ Advances s t
    ∧ ((opened s).task.flights = [] → (landDue t.task t.task.regs.cyc).flights = []
        ∧ (landDue t.task t.task.regs.cyc).tiles
            = sset (opened s).task.tiles (256 * k.toNat + tileW ((opened s).task.regs.getT k)) (trigVal s h)
        ∧ (landDue t.task t.task.regs.cyc).regs.getT k
            = setTileW ((opened s).task.regs.getT k) (advance ((opened s).task.regs.getT k) (tileW ((opened s).task.regs.getT k))))

/-- R19, R24, R28, R29, R31, R153: a plain move into a register, an operand port or a tile write port. -/
def Obligations.PlainMoves : Prop := Claims.MoveToRegister ∧ Claims.MoveToPort ∧ Claims.MoveToTile

/-- R22, R31: a squashed slot, operation or move, writes nothing, latches nothing and marks no port held, triggers nothing, consumes nothing, pops nothing: only the bundle is counted. -/
def Obligations.SquashedSlot : Prop := ∀ (s : State), Ready s →
  let nothing := fun (i : Instr) => ∃ t, exec i s = .next t ∧ Advances s t ∧ KeepsAll s t .acp ∧ t.task.ports = s.task.ports
    ∧ t.task.flights = (opened s).task.flights ∧ t.task.lq = s.task.lq ∧ t.task.time.rxCursor = s.task.time.rxCursor
  (∀ i h, i.head? = some h → Skipped s h.g → nothing i)
    ∧ ∀ g src hold dst, Skipped s g → nothing (.move g src hold dst)

/-- R36: from its landing cycle on a result's register reads the result and the result is no longer on its way; before, the register is undefined. -/
def Obligations.ResultLands : Prop := ∀ (t : Task) (d : RegDst) (x : Row) (due seq now : Nat),
  t.flights = [] → d ≠ .p 0 → d ≠ .m 0 →
  let u := sendResult t (.reg d) x due seq
  (due ≤ now → (landDue u now).flights = [] ∧ (landDue u now).regs.read d = holds d x
      ∧ (∀ e, e ≠ d → (landDue u now).regs.read e = t.regs.read e) ∧ inFlight (landDue u now) d = false)
    ∧ (now < due → inFlight (landDue u now) d = true ∧ ∀ e, (landDue u now).regs.read e = t.regs.read e)

/-! ### Control -/

/-- R102, R103: where the taken branches go, and their target issues three cycles after them. -/
def Obligations.Branches : Prop := ∀ (s : State) (h : Head), Acts s h →
  let t := (trig64 s h).toNat
  Completes (.jmp h) s h.src (jumped s t)
    ∧ Completes (.jmpi h) s h.src (eaten (jumped s ((port64 s .ctla).toNat + t)) [.ctla])
    ∧ (regPoisoned (opened s).task (.s 31) = false →
        Completes (.ret h) s h.src (jumped s (lo64 (readReg (opened s).task (s.fresh + 408) (.s 31))).toNat))
    ∧ (∀ b, fragOf s.task.info.ftab (t % 256) = some b → Completes (.jtab h) s h.src (jumped s b))
    ∧ ∃ t', exec (.call h) s = .next t' ∧ t'.task.regs.pc = t % 8192 ∧ t'.task.regs.cyc = s.task.regs.cyc + 3
        ∧ t'.task.regs.read (.s 31) = BitVec.ofNat 1024 ((s.task.regs.pc + 1) % 8192)
        ∧ KeepsRegs s t' h.src [.s 31] ∧ KeepsMemory s t' ∧ KeepsDevice s t' ∧ KeepsTask s t' ∧ t'.task.ports = s.task.ports

/-- R104: loop falls through when lc is 0; else it decrements lc, rotates, writes the stage predicate and branches without a bubble. -/
def Obligations.LoopPass : Prop := ∀ (s : State) (h : Head), Acts s h →
  (∀ d ∈ [RegDst.lc, .ec, .rrb], regPoisoned (opened s).task d = false ∧ inFlight (opened s).task d = false) →
  let lc := (opened s).task.regs.lc
  let rrb : W64 := BitVec.ofNat 64 (((opened s).task.regs.rrb.toNat % 32 + 1) % 32)
  let q := RegDst.p (renP rrb 7)
  (lc = 0 → Completes (.loop h) s h.src (begun s))
    ∧ (lc ≠ 0 → ∃ t, exec (.loop h) s = .next t ∧ t.task.regs.pc = (trig64 s h).toNat % 8192 ∧ t.task.regs.cyc = s.task.regs.cyc + 1
        ∧ t.task.regs.lc = lc - 1 ∧ t.task.regs.rrb = rrb
        ∧ t.task.regs.read q = (if (opened s).task.regs.ec.toNat ≤ (lc - 1).toNat then 1 else 0)
        ∧ KeepsRegs s t h.src [.lc, .rrb, q] ∧ KeepsMemory s t ∧ KeepsDevice s t ∧ KeepsTask s t ∧ t.task.ports = s.task.ports)

/-- R108, R109, R110, R312, R367: done freezes the core for its end; spt takes its mirror point, or its leave where a safe point is asked for and slots are there, and does nothing outside its conditions; wait counts t[15:0] cycles; sys takes effect and freezes the core for its leave. -/
def Obligations.DoneWaitSys : Prop := ∀ (s : State) (h : Head), Acts s h → speculative s.task = false → roundOpen s.task.spec = false →
  let t := (trig64 s h).toNat
  let mapped := lmapEntry s.task (t % 4096) s.task.regs.pc
  let mirrored := s.mir.standing.any (fun x => x.uid == s.task.uid)
  let asked := s.sched.safePt && s.task.time.softPending && slotsThere s (groupOfTask s)
  Completes (.done h) s h.src (frozen (begun s) .done)
    ∧ Completes (.wait h) s h.src { begun s with task := { (begun s).task with time := { s.task.time with waitN := t % 65536 } } }
    ∧ Completes (.sys h) s h.src (frozen (begun s) (.sysWait (t % 65536) s.task.regs.pc s.clk.ftime))
    ∧ ((mapped = none ∨ (mirrored = false ∧ asked = false)) → Completes (.spt h) s h.src (begun s))
    ∧ (mapped.isSome = true → mirrored = true → asked = false → Completes (.spt h) s h.src (frozen (begun s) (.mirror false)))
    ∧ (mapped.isSome = true → mirrored = false → asked = true → Completes (.spt h) s h.src (frozen (begun s) (.safePoint (t % 4096))))
    ∧ (mapped.isSome = true → mirrored = true → asked = true →
        Completes (.spt h) s h.src (frozen (frozen (begun s) (.mirror false)) (.safePoint (t % 4096))))

/-- R185, R186, R188, R189: for a task on its own, dcpl leaves it so, rejoin parks it unless the mask is its own alone, and fuse joins the parked members that the mask names, where it is their leader. -/
def Sys2Proof.Claims.FuseLeaves : Prop := ∀ (s : State) (h : Head), Acts s h →
  let i := s.task.info
  let m := effMask i (trig64 s h)
  let joined := (named (begun s) i m).filter fun t => t.uid == s.task.uid || parkedWith t m
  Completes (.dcpl h) s h.src { begun s with task := { (begun s).task with fused := [] } }
    ∧ (m = 2 ^ i.x → Completes (.rejoin h) s h.src (begun s))
    ∧ (m ≠ 2 ^ i.x → Completes (.rejoin h) s h.src (frozen (begun s) (.rejoin m)))
    ∧ ((m % 2 ^ i.x ≠ 0 ∨ joined.length < 2) → Completes (.fuse h) s h.src (begun s))
    ∧ (m % 2 ^ i.x = 0 → 2 ≤ joined.length → ∃ t, exec (.fuse h) s = .next t ∧ t.mem = s.mem
        ∧ ((joined.map Task.uid).contains s.task.uid = true → t.task.fused = joined.map Task.uid ∧ t.task.regs.pc = (s.task.regs.pc + 1) % 8192)
        ∧ ∀ u, (joined.map Task.uid).contains u = true → u ≠ s.task.uid → ∀ x, findTask s u = some x →
          ∃ y, findTask t u = some y ∧ y.fused = joined.map Task.uid ∧ y.regs.pc = (s.task.regs.pc + 1) % 8192)

/-- R185 to R189: in a group of fused members whose bundle issues, dcpl lets every member go on alone, rejoin parks every member that its mask does not name alone, and fuse does nothing. -/
def Sys2Proof.Claims.GroupBundles : Prop := ∀ (s : State) (h : Head) (ld : Nat),
  let l := groupOfTask s
  let m := fun (t : Task) => effMask t.info (trig64 (focus s ld) h)
  let pc := (focus s ld).task.regs.pc
  2 ≤ s.task.fused.length → leadOf s l = ld → ((allTasks s).map Task.uid).Nodup → Taken (focus s ld) h.g →
  (∀ u ∈ l, ∃ x, findTask s u = some x ∧ Readable (focus s u) h.g h.src ∧ canIssue (focus s u) = true ∧ 2 ≤ x.fused.length ∧ x.time.waitN = 0 ∧ x.pending = [] ∧ lateSeqs x = []
    ∧ x.spec.todo = []) →
  let all := fun (i : Instr) (p : Task → Task → Prop) => ∃ t, exec i s = .next t ∧ t.mem = s.mem
    ∧ ∀ u ∈ l, ∀ x, findTask s u = some x → ∃ y, findTask t u = some y ∧ y.regs.pc = (pc + 1) % 8192 ∧ y.plates = x.plates ∧ p x y
  all (.dcpl h) (fun _ y => y.fused = [] ∧ y.freeze = [])
    ∧ all (.rejoin h) (fun x y => y.fused = x.fused ∧ y.freeze = if m x = 2 ^ x.info.x then [] else [.rejoin (m x)])
    ∧ all (.fuse h) (fun x y => y.fused = x.fused ∧ y.freeze = [])

/-- R313: csrr lands the register within 2 cycles; csrw clears rngs by a 0 (what a 1 does while RNGSAT is 0 is the model's choice, log 83), writes sysr, and from a privileged task the partition's nbv. -/
def Obligations.ControlRegisters : Prop := ∀ (s : State) (h : Head), Acts s h →
  let n := (trig64 s h).toNat % 4096
  let x := port64 s .ctla
  (∀ d, destAt s .ctlb = some d → Yields (.csrr h) s h.src .ctlb [] d (row64 (csrVal (opened s).task n)) 2)
    ∧ (speculative s.task = false →
        (n = 1 → Completes (.csrw h) s h.src
          (eaten { begun s with task := { (begun s).task with time := { s.task.time with rngs := if x.getLsbD 0 then s.task.time.rngs else 0 } } } [.ctla]))
        ∧ (n = 6 → Completes (.csrw h) s h.src
          (eaten { begun s with task := { (begun s).task with time := { s.task.time with sysr := x } } } [.ctla]))
        ∧ (n = 0 → s.task.info.vf = 0 → Completes (.csrw h) s h.src
          (modPart (eaten (begun s) [.ctla]) s.task.info.part fun q => { q with nbv := nbvWrite q.nbv x })))

/-! ### Memory triggers -/

/-- R37, R38, R114, R115, R117: a load whose checks pass is queued; its result is on its way to the landing slot of lsu.c (0 acts as 1), or has an entry of the load queue. -/
def Obligations.LoadTriggers : Prop := ∀ (s s1 : State) (h : Head), Acts s h → speculative s.task = false →
  let va := (trig64 s h).toNat % 2 ^ 57 / 128 * 128
  let due := s.task.regs.cyc + max 1 ((port64 s .lsuc).toNat % 4096)
  let ty := (port64 s .lsuy).toNat % 16
  (∀ tgt, resolve (begun s) accLoad va = .ok (s1, tgt) →
      (∀ d, destAt s .lsud = some d → outstanding (opened s).task < 32 →
        Completes (.ld h) s h.src (awaiting (push (eaten s1 [.lsuc, .lsud]) (s.seq + 1) (.ld tgt)) d due (s.seq + 1)))
      ∧ (s.task.lq.length < 16 →
        let u := push s1 (s.seq + 1) (.ld tgt)
        Completes (.ldq h) s h.src { u with task := { u.task with lq := u.task.lq ++ [{ seq := s.seq + 1, val := none, poison := false }] } }))
    ∧ (∀ d l, destAt s .lsud = some d → outstanding (opened s).task < 32 → ty < 13 →
        lanesOf accLoad (tyWidth ty) (alignBase (port64 s .lsua) (tyWidth ty)) (trigVal s h) (fun _ => 0) (fun _ => 0)
          (List.range (min 32 (1024 / tyWidth ty))) (begun s) = .ok (s1, l) →
        Completes (.ldx h) s h.src
          (awaiting (push (eaten s1 [.lsua, .lsuc, .lsuy, .lsud]) (s.seq + 1) (.ldx (tyWidth ty) l)) d due (s.seq + 1)))

/-- R116, R117, R245, R354: a store whose checks pass enters the store queue, or the buffer of its speculative iteration, with its rows and its data. -/
def Sys2Proof.Claims.QueuedStores : Prop := ∀ (s s1 : State) (h : Head), Acts s h → hasRoom s →
  let va := (trig64 s h).toNat % 2 ^ 57 / 128 * 128
  let ty := (port64 s .lsuy).toNat % 16
  (∀ tgt, resolve (begun s) accStore va = .ok (s1, tgt) → tentative s.task.spec tgt = none →
      Completes (.st h) s h.src (enters s (eaten s1 [.lsua]) (.st tgt (portRow s .lsua))))
    ∧ (∀ l, ty < 13 →
        lanesOf accStore (tyWidth ty) (alignBase (port64 s .lsua) (tyWidth ty)) (trigVal s h) (laneN (portRow s .lsub) (tyWidth ty))
          (fun _ => 0) (List.range (min 32 (1024 / tyWidth ty))) (begun s) = .ok (s1, l) →
        (∀ x ∈ l, tentative s.task.spec x.tgt = none) →
        Completes (.stx h) s h.src (enters s (eaten s1 [.lsua, .lsub, .lsuy]) (.stx (tyWidth ty) l)))

/-- R351: a store into a tentative window raises HI to its row and is not held back; its own iteration's loads see it. -/
def Sys2Proof.Claims.TentativeStores : Prop := ∀ (s s1 : State) (h : Head) (tgt : Target) (n row : Nat), Acts s h → storeEntries s.task < 32 →
  resolve (begun s) accStore ((trig64 s h).toNat % 2 ^ 57 / 128 * 128) = .ok (s1, tgt) → tentative s.task.spec tgt = some (n, row) →
  ∃ t, exec (.st h) s = .next t ∧ t.task.memq = s.task.memq ++ [{ seq := s.seq + 1, kind := .st tgt (portRow s .lsua) }]
    ∧ t.task.spec.regions = (raiseHi s.task.spec n row).regions
    ∧ (speculative s.task = true → t.task.spec.tent = s.task.spec.tent ++ [(iterOf s.task, { seq := s.seq + 1, kind := .st tgt (portRow s .lsua) })])
    ∧ t.mem = s1.mem

/-- R116, R117, R245, R351, R354: stores that are queued or buffered, and stores into a tentative window. -/
def Obligations.StoreTriggers : Prop := Claims.QueuedStores ∧ Claims.TentativeStores

/-- R86, R265 to R267: an atomic whose checks pass is queued with its checked lanes; an amo's old values are on their way to its landing slot. -/
def Obligations.AtomicTriggers : Prop := ∀ (s s1 : State) (h : Head) (l : List Lane), Acts s h → storeEntries s.task < 32 → speculative s.task = false →
  let ty := (port64 s .lsuy).toNat % 16
  let due := s.task.regs.cyc + max 1 ((port64 s .lsuc).toNat % 4096)
  (∀ p ∈ [(Instr.amoAdd h, AmoOp.add), (.amoFadd h, .fadd), (.amoMax h, .max), (.amoMin h, .min), (.amoMaxu h, .maxu), (.amoMinu h, .minu),
        (.amoFmax h, .fmax), (.amoFmin h, .fmin), (.amoAnd h, .and), (.amoOr h, .or), (.amoXor h, .xor), (.amoSwp h, .swp), (.amoCas h, .cas)],
      ∀ d, destAt s .lsud = some d → outstanding (opened s).task < 32 → amoLanes p.2 accAmo (trigger s h) (begun s) = .ok (s1, l) →
      Completes p.1 s h.src
        (awaiting (push (eaten s1 [.lsua, .lsub, .lsuc, .lsuy, .lsud]) (s.seq + 1) (.amo p.2 ty true l)) d due (s.seq + 1)))
    ∧ (∀ p ∈ [(Instr.nraAdd h, AmoOp.add), (.nraFadd h, .fadd), (.nraMax h, .max), (.nraMin h, .min), (.nraMaxu h, .maxu), (.nraMinu h, .minu),
        (.nraFmax h, .fmax), (.nraFmin h, .fmin), (.nraAnd h, .and), (.nraOr h, .or), (.nraXor h, .xor)],
      amoLanes p.2 accNra (trigger s h) (begun s) = .ok (s1, l) →
      Completes p.1 s h.src (push (eaten s1 [.lsua, .lsub, .lsuy]) (s.seq + 1) (.amo p.2 ty false l)))

/-- R268, R354: a red form whose type and target it accepts is queued, or deferred by a speculative iteration, with the contribution of each active lane. -/
def Obligations.ReductionTriggers : Prop := ∀ (s s1 : State) (h : Head) (tgt : Target), Acts s h → hasRoom s →
  let ty := (port64 s .lsuy).toNat % 16
  let w := tyWidth ty
  let va := alignBase (port64 s .lsua) w % 2 ^ 57
  let vals := (List.range (min 32 (1024 / w))).map fun i => if (trigVal s h).getLsbD i then some (laneN (portRow s .lsub) w i) else none
  ∀ p ∈ [(Instr.redAdd h, RedOp.add), (.redFadd h, .fadd), (.redFmax h, .fmax)], redTypeOk p.2 ty = true →
    redTarget (begun s) va = .ok (s1, tgt) →
    Completes p.1 s h.src (enters s (eaten s1 [.lsua, .lsub, .lsuy]) (.red p.2 ty tgt (va % 128) vals))

/-- R119, R261, R263, R278: qmark, fence and fsc place their marks, fence and fsc freeze the core unless its iteration is speculative; pref leaves the state as the bundle found it, which is the model's choice where R278 lets the row be brought or dropped (log 43). -/
def Sys2Proof.Claims.OrderTriggers : Prop := ∀ (s : State) (h : Head), Acts s h →
  let sc := (trigVal s h).toNat % 256
  let holdsCore := fun (u : State) (f : Freeze) => if speculative s.task then u else frozen u f
  Completes (.qmark h) s h.src (enters s (begun s) .mark) ∧ Completes (.pref h) s h.src (begun s)
    ∧ (sc ≤ 4 → Completes (.fence h) s h.src (holdsCore (enters s (begun s) (.fence sc)) (.fence sc)))
    ∧ Completes (.fsc h) s h.src (holdsCore (enters s (begun s) (.fence 3)) (.fsc none))

/-- R277, R279: own with COUNT 0 does nothing, else it is queued for its plates unless they go past plate 127, or go to the engine while stash-bound; rinv is queued for the row's region, and does nothing in the local window and on private pages; that rinv acts at once in a speculative iteration is log 42. -/
def Sys2Proof.Claims.OwnAndRinv : Prop := ∀ (s : State) (h : Head), Acts s h → hasRoom s →
  let first := (port64 s .lsua).toNat % 128
  let count := (port64 s .lsua).toNat / 256 % 256
  let toEng := (trigVal s h).getLsbD 0
  let va := (trig64 s h).toNat % 2 ^ 57
  (∀ i ∈ [Instr.ownToEngine h, .ownToThread h],
      (count = 0 → Completes i s h.src (eaten (begun s) [.lsua]))
      ∧ (count ≠ 0 → first + count ≤ 128 → (toEng = true → ∀ j < count, stashOfPlate (opened s).task (first + j) = none) →
          Completes i s h.src (enters s (eaten (begun s) [.lsua]) (.own toEng first count))))
    ∧ (isLocal va = true → Completes (.rinv h) s h.src (begun s))
    ∧ (isLocal va = false → storeEntries s.task < 32 → ∀ s1 v pa coh fmt base bad,
        translate (begun s) s.task.info.part accRinv va = .ok (s1, .glob v pa coh fmt base bad) →
        Completes (.rinv h) s h.src (if coh = 0 then s1 else push s1 (s.seq + 1) (.rinv va (if (packedOf fmt).isSome then base + pa else pa))))

/-- R119, R261, R263, R277 to R279: marks, fences, the hint, ownership, region invalidation (logs 42 and 43: the model's choices). -/
def Obligations.OrderingTriggers : Prop := Claims.OrderTriggers ∧ Claims.OwnAndRinv

/-- R274 to R276: sunm ends an entry's binding and queues its write-backs; smap, after unbinding its entry, binds its window, unless it is refused; sfl queues the write-backs of one entry or of all and freezes the core after its bundle. That an unbinding's write-backs are one operation of the store queue is log 77, and that smap, sunm and sfl act at once in a speculative iteration is log 42. -/
def Sys2Proof.Claims.StashBindings : Prop := ∀ (s : State) (h : Head), Acts s h →
  let e := (trigVal s h).toNat % 16
  let old := nth s.task.stash e StashEntry.empty
  let x := smapEntry (port64 s .lsua) (port64 s .lsub)
  let left := if old.valid then push (begun s) (s.seq + 1) (.unbind old.first old.count) else begun s
  let freed := { left with task := { left.task with stash := if old.valid then setNth s.task.stash e { old with valid := false } else s.task.stash } }
  ((old.valid = true → storeEntries s.task < 32) →
    Completes (.sunm h) s h.src freed
    ∧ (smapRefused freed.task x = false → (∀ j < x.count, (ownersAt freed.task).getLsbD (x.first + j) = false) →
        let u := push (eaten freed [.lsua, .lsub]) (s.seq + 9) (.smap x.first x.count)
        Completes (.smap h) s h.src { u with task := { u.task with stash := setNth freed.task.stash e x } })
    ∧ (speculative s.task = false → smapRefused freed.task x = true → Traps (.smap h) s { cause := .prot })
    ∧ (speculative s.task = false → smapRefused freed.task x = false → (∃ j < x.count, (ownersAt freed.task).getLsbD (x.first + j) = true) →
        Traps (.smap h) s { cause := .owner }))
    ∧ Completes (.sfl h) s h.src (frozen (push (begun s) (s.seq + 1) (.flush (sflPlates s.task (trigVal s h)))) .flush)

/-- R228, R275, R276: the write-backs of a sunm issue as one store-queue operation (log 77), after which no row of its plates is bound; those of an sfl leave the rows of its plates CLEAN and thaw the core. Each dirty row's 128 bytes then stand at the physical row captured at its fill, and every other byte reads as before. -/
def Sys2Proof.Claims.WriteBacks : Prop := ∀ (s : State) (q : Nat),
  (∀ f c rest, s.task.memq = { seq := q, kind := .unbind f c } :: rest → rowsThere s (.unbind f c) = true →
      let home := s.task.stashRows.filter fun r => r.dirty && inPlates f c r.row
      ∃ t, exec .storeQueueIssue s = .next t ∧ t.task.memq = rest ∧ t.task.regs = s.task.regs ∧ (∀ r ∈ t.task.stashRows, inPlates f c r.row = false)
        ∧ (Apart s.task → t.task.stashRows = s.task.stashRows.filter (fun r => !inPlates f c r.row) ∧ t.task.plates = s.task.plates)
        ∧ (home = [] → KeepsMemory s t) ∧ (HomeBound s home → AtHome s t home))
    ∧ (∀ l, s.task.memq = [{ seq := q, kind := .flush l }] → rowsThere s (.flush l) = true → atMirror s.task = false →
      let flushed := fun (r : StashRow) => l.any fun p => inPlates p.1 p.2 r.row
      let home := s.task.stashRows.filter fun r => r.dirty && flushed r
      ∃ t, exec .fenceDone s = .next t ∧ t.task.memq = [] ∧ .flush ∉ t.task.freeze ∧ t.task.regs = s.task.regs
        ∧ (∀ r ∈ t.task.stashRows, flushed r = true → r.dirty = false)
        ∧ (Apart s.task → t.task.plates = s.task.plates ∧ t.task.stashRows = s.task.stashRows.map fun r => if flushed r then { r with dirty := false } else r)
        ∧ (home = [] → KeepsMemory s t) ∧ (HomeBound s home → AtHome s t home))

/-- R228, R274 to R276: the stash: its triggers, and what they have queued (logs 42 and 77: the model's reading). -/
def Obligations.StashTriggers : Prop := Claims.StashBindings ∧ Claims.WriteBacks

/-! ### Memory operations take effect -/

/-- R36, R37, R38: a fixed result may land before its bound, its register staying undefined until then; a timed one lands at its slot; a load of a plate row fills its queue entry. -/
def Obligations.Landings : Prop := ∀ (s : State) (n : Nat),
  (∀ f d x, s.task.flights[n]? = some f → f.dest = .reg d → f.val = some x → f.dead = false → f.landed = false → f.poison = false →
      (f.kind = .fixed → ∃ t, exec (.resultLanding n) s = .next t ∧ t.task.regs.read d = holds d x
        ∧ (∀ e, e ≠ d → t.task.regs.read e = s.task.regs.read e) ∧ inFlight t.task d = true ∧ t.mem = s.mem ∧ t.task.ports = s.task.ports)
      ∧ (f.kind = .timed → f.due ≤ s.task.regs.cyc → memIdx s.task f.seq = none → ∃ t, exec (.timedLanding n) s = .next t
        ∧ t.task.regs.read d = holds d x ∧ (∀ e, e ≠ d → t.task.regs.read e = s.task.regs.read e)
        ∧ t.task.flights = s.task.flights.eraseIdx n ∧ t.mem = s.mem ∧ t.task.ports = s.task.ports))
    ∧ (∀ e r rest, s.task.lq[n]? = some e → e.val = none → s.task.memq = { seq := e.seq, kind := .ld (.plate r) } :: rest →
        (∀ f ∈ s.task.flights, f.seq ≠ e.seq) →
        ∃ t, exec (.loadQueueFill n) s = .next t ∧ t.task.memq = rest ∧ t.mem = s.mem ∧ t.task.regs = s.task.regs
          ∧ t.task.lq[n]? = some { e with val := some (sget s.task.plates r), poison := s.task.platePoison.contains r })

/-- R116, R221, R245: the store at the head issues: its 128 bytes are the row, every other byte is as before; a local store writes its plate row and no memory. -/
def Sys2Proof.Claims.StoreIssues : Prop := ∀ (s : State) (q : Nat) (x : Row) (rest : List MemOp), opsOf s s.task.uid = [] → Memory.wf s.mem = true →
  (∀ l ∈ s.side.l1, l.core = coreNum s.task → l.coh = 0 → l.dirty = false) →
  (∀ r, s.task.memq = { seq := q, kind := .st (.plate r) x } :: rest →
      ∃ t, exec .storeQueueIssue s = .next t ∧ t.task.plates = sset s.task.plates r x ∧ t.task.platePoison.contains r = false
        ∧ t.task.memq = rest ∧ t.task.regs = s.task.regs ∧ KeepsMemory s t ∧ KeepsDevice s t)
    ∧ (∀ va pa base, s.task.memq = { seq := q, kind := .st (.glob va pa 2 0 base false) x } :: rest →
        rowsThere s (.st (.glob va pa 2 0 base false) x) = true → quietRow s pa →
        ∃ t, exec .storeQueueIssue s = .next t ∧ writesRow s t pa x ∧ t.task.memq = rest ∧ t.task.regs = s.task.regs
          ∧ ∀ k, (∀ r ∈ s.task.stashRows, r.row = k → stashHit r (pa / 128) = false) → sget t.task.plates k = sget s.task.plates k)

/-- R265, R266: each atomic's new value, and one lane's update of a plate row: the element takes the new value, the amo's result the old one. -/
def Sys2Proof.Claims.AtomicIssues : Prop :=
  (∀ (v1 : Bool) (ty old v cmp : Nat),
    let w := tyWidth ty
    amoNew v1 .add ty old v cmp = (old + v) % 2 ^ w ∧ amoNew v1 .fadd ty old v cmp = laneAdd v1 ty 0 old v
      ∧ sgn w (amoNew v1 .max ty old v cmp) = max (sgn w old) (sgn w v) ∧ sgn w (amoNew v1 .min ty old v cmp) = min (sgn w old) (sgn w v)
      ∧ amoNew v1 .maxu ty old v cmp = max old v ∧ amoNew v1 .minu ty old v cmp = min old v
      ∧ amoNew v1 .fmax ty old v cmp = maxNum ty old v ∧ amoNew v1 .fmin ty old v cmp = minNum ty old v
      ∧ amoNew v1 .and ty old v cmp = old &&& v ∧ amoNew v1 .or ty old v cmp = old ||| v ∧ amoNew v1 .xor ty old v cmp = old ^^^ v
      ∧ amoNew v1 .swp ty old v cmp = v ∧ (old = cmp → amoNew v1 .cas ty old v cmp = v) ∧ (old ≠ cmp → amoNew v1 .cas ty old v cmp = old))
    ∧ (∀ (s : State) (q r : Nat) (op : AmoOp) (ty : Nat) (ret : Bool) (l : Lane) (rest : List MemOp), opsOf s s.task.uid = [] →
        s.task.memq = { seq := q, kind := .amo op ty ret [l] } :: rest → l.tgt = .plate r → s.task.platePoison.contains r = false →
        (∀ f ∈ s.task.flights, f.seq = q → f.kind = .timed) →
        let w := tyWidth ty
        let row := sget s.task.plates r
        let old := row.toNat / 2 ^ (8 * l.off) % 2 ^ w
        ∃ t, exec .storeQueueIssue s = .next t ∧ t.task.memq = rest ∧ KeepsMemory s t ∧ t.task.regs = s.task.regs
          ∧ t.task.plates = sset s.task.plates r (patch row [(l.off, w / 8, amoNew (ver1 s.task) op ty old (l.val % 2 ^ w) (l.cmp % 2 ^ w))])
          ∧ (ret = true → ∀ f, s.task.flights = [f] → f.seq = q → f.kind = .timed →
              t.task.flights = [{ f with val := some (setLane 0 w l.i old), poison := false }]))

/-- R116, R221, R245, R265, R266: stores and atomics at the head of the queue. -/
def Obligations.MemoryIssues : Prop := Claims.StoreIssues ∧ Claims.AtomicIssues

/-- R271 to R273: a pass that has every declared contribution is applied at its target as one update with the root of the tree, in its turn, and counted. -/
def Obligations.ReductionPass : Prop := ∀ (s : State) (inst gi va pa base : Nat) (i : Inst) (la : LaunchState) (g : RedGroup) (c : Contrib) (r : List Contrib),
  findInst s inst = some i → findLaunch s i.seqno = some la → la.groups[gi]? = some g →
  let k := passesDone s inst gi
  let mine := fun (c : Contrib) => c.inst == inst && c.group == gi && c.pass == k
  s.sched.contribs.filter mine = c :: r → (c :: r).length = expected la g →
  c.tgt = .glob va pa 2 0 base false → poisonedRow s (pa / 128) = false → quietRow s pa →
  let w := tyWidth g.ty
  let v1 := nbvVer1 la.nbv
  let root := passTree v1 g (if la.lr.bcast = 0 then 1 else popcN 8 la.lr.bcast) (c :: r)
  let old := (readRow s.mem pa).toNat / 2 ^ (8 * c.off) % 2 ^ w
  ∃ t, exec (.redPassApply inst gi k) s = .next t
    ∧ t.mem = writeRow s.mem pa (patch (readRow s.mem pa) [(c.off, w / 8, redNode v1 g.op g.ty old root)])
    ∧ passesDone t inst gi = k + 1 ∧ t.sched.contribs.filter mine = [] ∧ t.task.regs = s.task.regs

/-- R261, R263, R277: a fence that has gone through thaws its core with no private line left in its L1, an fsc then waits for the next tick; an own to thread flips its plates when no engine operation names them. -/
def Obligations.FenceAndFlip : Prop := ∀ (s : State) (q : Nat),
  (∀ sc, s.task.memq = [{ seq := q, kind := .fence sc }] → atMirror s.task = false →
      ∃ t, exec .fenceDone s = .next t ∧ t.task.memq = [] ∧ t.task.regs = s.task.regs
        ∧ (∀ n, .fence n ∉ t.task.freeze) ∧ (.fsc none ∉ t.task.freeze) ∧ (.fsc none ∈ s.task.freeze → .fsc (some (s.clk.hb + 1)) ∈ t.task.freeze)
        ∧ (sc ≠ 0 → ∀ l ∈ t.side.l1, l.core = coreNum s.task → l.coh ≠ 0))
    ∧ (∀ f n rest, s.task.memq = { seq := q, kind := .own false f n } :: rest → opsOf s s.task.uid = [] →
        ∃ t, exec .plateFlipThread s = .next t ∧ t.task.owners = s.task.owners &&& ~~~ plateBits f n ∧ t.task.memq = rest
          ∧ t.task.regs = s.task.regs ∧ t.task.plates = s.task.plates ∧ KeepsMemory s t ∧ KeepsDevice s t)

/-! ### The vector unit -/

/-- R122 to R124, R74: lane arithmetic, exact and then wrapped or clamped in integer lanes, rounded once in floating-point lanes; inactive lanes pass a, c or t through. -/
def Sys2Proof.Claims.VectorArithmetic : Prop := ∀ (s : State) (h : Head),
  let c := vecCfg s
  let a := vecP s .veca
  let x := vecP s .vecc
  let t := vecT s h
  let Gives := fun (i : Instr) (ports : List Port) (lat : Nat) (op pass : Nat → Nat) =>
    GivesLanes i s h ports lat fun k => if vecOn s k then op k else pass k
  let val := intVal c.ty
  let int := fun (v : Int) => ((if c.sat then max (intMin c.ty) (min (intMax c.ty) v) else v) % 2 ^ c.w).toNat
  let real := fun (k : Nat → Nat) (j : Nat) => decodeF (tyFmt c.ty) (k j)
  let round := encodeV c.v1 (tyFmt c.ty) c.rm
  (c.ty < 8 →
    Gives (.vadd h) [.veca] 2 (fun k => int (val (a k) + val (t k))) a ∧ Gives (.vsub h) [.veca] 2 (fun k => int (val (a k) - val (t k))) a
    ∧ Gives (.vmul h) [.veca] 3 (fun k => int (val (a k) * val (t k))) a
    ∧ Gives (.vfma h) [.veca, .vecc] 4 (fun k => int (val (x k) + val (a k) * val (t k))) x
    ∧ Gives (.vmin h) [.veca] 2 (fun k => if val (a k) ≤ val (t k) then a k else t k) a
    ∧ Gives (.vmax h) [.veca] 2 (fun k => if val (a k) ≤ val (t k) then t k else a k) a
    ∧ Gives (.vabs h) [] 2 (fun k => int (val (t k)).natAbs) t ∧ Gives (.vneg h) [] 2 (fun k => int (-val (t k))) t)
  ∧ (10 ≤ c.ty → c.ty ≤ 12 →
    Gives (.vadd h) [.veca] 2 (fun k => round (addF c.rm (real a k) (real t k))) a
    ∧ Gives (.vsub h) [.veca] 2 (fun k => round (addF c.rm (real a k) (negF (real t k)))) a
    ∧ Gives (.vmul h) [.veca] 3 (fun k => round (mulF (real a k) (real t k))) a
    ∧ Gives (.vfma h) [.veca, .vecc] 4 (fun k => round (addF c.rm (real x k) (mulF (real a k) (real t k)))) x
    ∧ Gives (.vmin h) [.veca] 2 (fun k => minNum c.ty (a k) (t k)) a ∧ Gives (.vmax h) [.veca] 2 (fun k => maxNum c.ty (a k) (t k)) a
    ∧ Gives (.vabs h) [] 2 (fun k => t k % 2 ^ (c.w - 1)) t ∧ Gives (.vneg h) [] 2 (fun k => (t k + 2 ^ (c.w - 1)) % 2 ^ c.w) t)

/-- R125 to R127: bitwise operations, shifts that are not reduced, comparisons into masks, selection by the mask. -/
def Sys2Proof.Claims.VectorBits : Prop := ∀ (s : State) (h : Head),
  let c := vecCfg s
  let a := vecP s .veca
  let t := vecT s h
  let Gives := fun (i : Instr) (op : Nat → Nat) => GivesLanes i s h [.veca] 2 fun k => if vecOn s k then op k else a k
  let val := intVal c.ty
  let num := fun (x : Nat) => (decodeF (tyFmt c.ty) x).isNaN = false
  let order := fun (k : Nat) => cmpF (decodeF (tyFmt c.ty) (a k)) (decodeF (tyFmt c.ty) (t k))
  (c.ty ≤ 12 → Gives (.vand h) (fun k => a k &&& t k) ∧ Gives (.vor h) (fun k => a k ||| t k) ∧ Gives (.vxor h) (fun k => a k ^^^ t k)
      ∧ Gives (.vsel h) t)
    ∧ (c.ty < 8 → Gives (.vshl h) (fun k => a k * 2 ^ t k % 2 ^ c.w) ∧ Gives (.vshr h) (fun k => a k / 2 ^ t k)
      ∧ Gives (.vsar h) (fun k => (sgn c.w (a k) / 2 ^ t k % 2 ^ c.w).toNat)
      ∧ GivesMask (.vceq h) s h [.veca] 2 (fun k => val (a k) = val (t k)) ∧ GivesMask (.vclt h) s h [.veca] 2 (fun k => val (a k) < val (t k))
      ∧ GivesMask (.vcle h) s h [.veca] 2 (fun k => val (a k) ≤ val (t k)))
    ∧ (10 ≤ c.ty → c.ty ≤ 12 →
      GivesMask (.vceq h) s h [.veca] 2 (fun k => num (a k) ∧ num (t k) ∧ order k = .eq)
      ∧ GivesMask (.vclt h) s h [.veca] 2 (fun k => num (a k) ∧ num (t k) ∧ order k = .lt)
      ∧ GivesMask (.vcle h) s h [.veca] 2 (fun k => num (a k) ∧ num (t k) ∧ order k ≠ .gt))

/-- R51, R52, R55, R56, R74: what a pattern stands for; encoding an exact value gives the value of the grid that the mode chooses, the nearest with ties to the even one, or the one below, above or toward zero; overflow; NaN and infinities; the flush of VER = 1. The sign of a zero that a non-zero value rounds to is the model's choice (log 99). -/
def Sys2Proof.Claims.Rounding : Prop := ∀ f ∈ [fmt32, fmt16, fmtB, fmtE5, fmtE4],
  (∀ x < 2 ^ f.width, let s := x.testBit (f.ebits + f.p)
      let e : Nat := x / 2 ^ f.p % 2 ^ f.ebits
      let m : Nat := x % 2 ^ f.p
      let top := e = 2 ^ f.ebits - 1
      (e = 0 → Shows f x s ((if s then -(m : Rat) else m) * (2 : Rat) ^ (1 - (f.bias : Int) - f.p)))
        ∧ (e ≠ 0 → (¬ top ∨ (f.inf = false ∧ m ≠ 2 ^ f.p - 1)) →
          Shows f x s ((if s then -1 else 1) * (1 + (m : Rat) / 2 ^ f.p) * (2 : Rat) ^ ((e : Int) - f.bias)))
        ∧ (top → f.inf = true → decodeF f x = if m = 0 then .inf s else .nan) ∧ (top → f.inf = false → m = 2 ^ f.p - 1 → decodeF f x = .nan))
    ∧ (∀ rm < 4, ∀ v1,
      (∀ s m e, m ≠ 0 → Takes f rm (exactly (numOf (.fin s m e))) s (encodeF f rm (.fin s m e)) ∧ Delivers v1 f rm (exactly (numOf (.fin s m e))) s (encodeV v1 f rm (.fin s m e)))
        ∧ (∀ s e, Shows f (encodeV v1 f rm (.fin s 0 e)) s 0)
        ∧ encodeV v1 f rm .nan = f.nan ∧ (∀ s, if f.inf then decodeF f (encodeV v1 f rm (.inf s)) = .inf s else encodeV v1 f rm (.inf s) = f.nan)
        ∧ ∀ v, encodeV false f rm v = encodeF f rm v)
    ∧ fmt32.nan = 0x7fc00000 ∧ fmtB.nan = 0x7fc0 ∧ fmt16.nan = 0x7e00 ∧ fmtE5.nan = 0x7e ∧ fmtE4.nan = 0x7f

/-- R53, R56, R67, R69: sums and products of decoded values are exact; NaN and infinities; the sign of a zero; the order of reals. -/
def Sys2Proof.Claims.ExactArithmetic : Prop :=
  (∀ rm s m e t n g, let a := FV.fin s m e
      let b := FV.fin t n g
      (∃ u k q, addF rm a b = .fin u k q ∧ numOf (.fin u k q) = numOf a + numOf b
        ∧ (numOf a + numOf b = 0 → (u = true ↔ (m = 0 ∧ n = 0 ∧ s = true ∧ t = true) ∨ (rm = 3 ∧ ¬ (m = 0 ∧ n = 0 ∧ s = false ∧ t = false)))))
      ∧ (∃ k q, mulF a b = .fin (s != t) k q ∧ numOf (.fin (s != t) k q) = numOf a * numOf b)
      ∧ (cmpF a b = if numOf a < numOf b then .lt else if numOf a = numOf b then .eq else .gt)
      ∧ (∀ u, addF rm (.inf u) b = .inf u ∧ addF rm b (.inf u) = .inf u ∧ mulF (.inf u) b = (if n = 0 then .nan else .inf (u != t)) ∧ mulF b (.inf u) = if n = 0 then .nan else .inf (u != t)))
    ∧ (∀ rm s t, addF rm (.inf s) (.inf t) = (if s = t then .inf s else .nan) ∧ mulF (.inf s) (.inf t) = .inf (s != t))
    ∧ (∀ rm v, addF rm .nan v = .nan ∧ addF rm v .nan = .nan ∧ mulF .nan v = .nan ∧ mulF v .nan = .nan)
    ∧ ∀ s m e, negF (.fin s m e) = .fin (!s) m e

/-- R51 to R56, R74, R122 to R127: the vector unit lane by lane, and the rounding that its floating-point lanes take. -/
def Obligations.VectorLanes : Prop := Claims.VectorArithmetic ∧ Claims.VectorBits ∧ Claims.Rounding ∧ Claims.ExactArithmetic

/-- R128 to R131: conversion of the elements that both types have room for, broadcast, extract, insert, permute, rotate-merge. -/
def Sys2Proof.Claims.VectorMoves : Prop := ∀ (s : State) (h : Head),
  let c := vecCfg s
  let a := vecP s .veca
  let b := vecP s .vecb
  let t := vecT s h
  let j := (trig64 s h).toNat
  let z := (port64 s .vecz).toNat
  let wz := tyWidth (z % 16)
  let o := (trigVal s h).toNat % 128
  (c.ty ≤ 12 → z % 16 ≤ 12 → ∀ r : Row,
      (∀ k < 1024 / wz, laneN r wz k = if k < 1024 / c.w ∧ vecOn s k = true then convert c.v1 (t k) c.ty (z % 16) (z / 16 % 4) (z.testBit 6) else 0) →
      Results (.vcvt h) s h .vecd [.veck, .vecy, .vecz] r 3)
    ∧ (c.ty ≤ 12 →
      GivesLanes (.vbc h) s h [] 2 (fun k => if vecOn s k then t 0 else 0)
      ∧ Results (.vext h) s h .vecd [.veck, .vecy, .veca]
          (if j < c.n ∧ vecOn s j = true then row64 (BitVec.ofInt 64 (if tySigned c.ty then sgn c.w (a j) else a j)) else 0) 3
      ∧ (let i := (port64 s .vecb).toNat
        GivesLanes (.vins h) s h [.veca, .vecb] 3 fun k => if k = i ∧ vecOn s i = true then t 0 else a k)
      ∧ GivesLanes (.vperm h) s h [.veca, .vecb] 3 (fun k => if vecOn s k then
          (if t k < c.n then a (t k) else if t k < 2 * c.n then b (t k - c.n) else 0) else a k)
      ∧ ∀ x : Row, (∀ q < 128, laneN x 8 q = if o + q < 128 then laneN (portRow s .veca) 8 (o + q) else laneN (portRow s .vecb) 8 (o + q - 128)) →
          GivesLanes (.vrot h) s h [.veca, .vecb] 2 fun k => if vecOn s k then laneN x c.w k else a k)

/-- R68 to R70, R74, R132, R133: the sum of the active integer lanes modulo 2^w, their greatest and least, 0 with none active; the fixed tree with its identities in floating-point lanes; the index of the first greatest lane. -/
def Obligations.VectorReductions : Prop := ∀ (s : State) (h : Head),
  let c := vecCfg s
  let t := vecT s h
  let active := fun (k : Nat) => k < c.n ∧ vecOn s k = true
  let val := intVal c.ty
  let tree := fun (op : Nat → Nat → Nat) (id : Nat) => treeN op 0 7 ((List.range c.n).map fun k => if vecOn s k then t k else id)
  let index := fun (x k : Nat) => Results (.vmaxi h) s h .vecd [.veck, .vecy] (BitVec.ofNat 1024 (x + 2 ^ 32 * k)) 8
  (c.ty < 8 →
    GivesOne (.vsum h) s h ((((List.range c.n).map fun k => if vecOn s k then t k else 0).sum) % 2 ^ c.w) 8
    ∧ (∀ k, active k → (∀ j, active j → val (t j) ≤ val (t k)) → GivesOne (.vrmax h) s h (t k) 8)
    ∧ (∀ k, active k → (∀ j, active j → val (t k) ≤ val (t j)) → GivesOne (.vrmin h) s h (t k) 8)
    ∧ ((∀ k, ¬ active k) → GivesOne (.vrmax h) s h 0 8 ∧ GivesOne (.vrmin h) s h 0 8))
  ∧ (10 ≤ c.ty → c.ty ≤ 12 →
    (c.v1 = false → GivesOne (.vsum h) s h (tree (laneAdd false c.ty c.rm) (zeroPat (tyFmt c.ty) true)) 8)
    ∧ (c.v1 = true → let lane := fun (k : Nat) => if vecOn s k then t k else zeroPat (tyFmt c.ty) true
      GivesOne (.vsum h) s h ((List.range (c.n - 1)).foldl (fun x k => laneAdd true c.ty c.rm x (lane (k + 1))) (lane 0)) 8)
    ∧ GivesOne (.vrmax h) s h (tree (maxNum c.ty) (tyFmt c.ty).nan) 8 ∧ GivesOne (.vrmin h) s h (tree (minNum c.ty) (tyFmt c.ty).nan) 8)
  ∧ ((c.ty ≤ 5 ∨ 10 ≤ c.ty ∧ c.ty ≤ 12) →
    let num := fun (k : Nat) => active k ∧ (c.ty < 8 ∨ isNaNPat c.ty (t k) = false)
    (∀ k, num k → (∀ j, num j → j < k → beats c.ty (t j) (t k) = true) → (∀ j, num j → k < j → beats c.ty (t k) (t j) = false) → index (t k) k)
    ∧ ((∀ k, ¬ num k) → index (if c.ty < 8 then 0 else (tyFmt c.ty).nan) 0xffffffff))

/-- R134, R135: counts, mask expansion and packing, places and compaction of the active lanes, attention bounds. -/
def Sys2Proof.Claims.VectorBitmaps : Prop := ∀ (s : State) (h : Head),
  let c := vecCfg s
  let t := vecT s h
  let below := fun (k : Nat) => (List.range k).countP (vecOn s)
  (c.ty < 8 →
    GivesLanes (.vpopc h) s h [] 2 (fun k => if vecOn s k then (List.range c.w).countP (fun j => (t k).testBit j) else t k)
    ∧ GivesLanes (.vcls h) s h [] 2 (fun k => if vecOn s k then (List.range (c.w - 1)).countP (fun j => (t k).testBit j == (t k).testBit (c.w - 1)) else t k)
    ∧ GivesLanes (.viota h) s h [] 3 (fun k => if vecOn s k then (t 0 + below k) % 2 ^ c.w else 0))
  ∧ (c.ty ≤ 12 →
    GivesLanes (.vmexp h) s h [] 2 (fun k => if vecOn s k ∧ (trigVal s h).getLsbD k = true then 2 ^ c.w - 1 else 0)
    ∧ GivesMask (.vmpak h) s h [] 2 (fun k => t k ≠ 0)
    ∧ ∀ r : Row, (∀ k < c.n, vecOn s k = true → laneN r c.w (below k) = t k) → (∀ k < c.n, below c.n ≤ k → laneN r c.w k = 0) →
        Results (.vsqz h) s h .vecd [.veck, .vecy] r 3)
  ∧ (10 ≤ c.ty → c.ty ≤ 12 →
    let lower := fun (k : Nat) => isNaNPat c.ty (t k) = false ∧ isNaNPat c.ty (vecP s .vecb 0) = false
      ∧ cmpF (decodeF (tyFmt c.ty) (t k)) (decodeF (tyFmt c.ty) (vecP s .vecb 0)) = .lt
    GivesMask (.vbnd h) s h [.vecb] 4 (fun k => askpOn s.task.info.askp = true → ¬ lower k))

/-- R57, R58: a conversion takes the exact value and rounds it once: to a float as R55 and R56 say, or saturating into e4m3 and e5m2; to an integer, which is clamped; between integers wrapped or clamped. -/
def Sys2Proof.Claims.Conversions : Prop := ∀ (v1 : Bool) (x fr dst rm : Nat) (sat : Bool), rm < 4 → fr < 13 → dst < 13 →
  let v := decodeF (tyFmt fr) x
  let f := tyFmt dst
  let r := convert v1 x fr dst rm sat
  let lo := fun (c : Nat) => if c % 2 = 0 then -(2 : Int) ^ (tyWidth c - 1) else 0
  let hi := fun (c : Nat) => if c % 2 = 0 then (2 : Int) ^ (tyWidth c - 1) - 1 else (2 : Int) ^ tyWidth c - 1
  let pinned := fun (k : Int) => max (lo dst) (min (hi dst) k)
  let i : Int := if fr % 2 = 0 ∧ 2 ^ (tyWidth fr - 1) ≤ x then (x : Int) - 2 ^ tyWidth fr else x
  let holds := fun (k : Int) => (r : Int) = k % 2 ^ tyWidth dst
  let bound := sat = true ∧ (dst = 8 ∨ dst = 9)
  let toFlt := fun (s : Bool) (q : Rat) => q ≠ 0 →
    (¬ bound → Delivers v1 f rm (exactly q) s r)
      ∧ (bound → ∃ y, RoundsTo (fmtGrid f) rm (exactly q) y ∧ Shows f r s (if y.abs ≤ greatest f then y else if s then -greatest f else greatest f))
  (8 ≤ fr → 8 ≤ dst → (v = .nan → r = f.nan)
      ∧ (∀ s, v = .inf s → (bound → Shows f r s (if s then -greatest f else greatest f)) ∧ (¬ bound → if f.inf then decodeF f r = .inf s else r = f.nan))
      ∧ (∀ s m e, v = .fin s m e → toFlt s (numOf v) ∧ (m = 0 → Shows f r s 0)))
    ∧ (8 ≤ fr → dst < 8 → (v = .nan → r = 0) ∧ (∀ s, v = .inf s → holds (if s then lo dst else hi dst))
      ∧ (∀ s m e, v = .fin s m e → ∃ k : Int, RoundsTo intGrid rm (exactly (numOf v)) k ∧ holds (pinned k)))
    ∧ (fr < 8 → x < 2 ^ tyWidth fr → (8 ≤ dst → toFlt (decide (i < 0)) i ∧ (i = 0 → Shows f r false 0)) ∧ (dst < 8 → holds (if sat then pinned i else i)))

/-- R57, R58, R128 to R131, R134, R135: conversions, moves of elements, masks and places. -/
def Obligations.VectorPlaces : Prop := Claims.VectorMoves ∧ Claims.VectorBitmaps ∧ Claims.Conversions

/-! ### The transcendental and the sort unit -/

/-- R71: the special values of the nine functions, in each of the three formats. -/
def Sys2Proof.Claims.FunctionSpecials : Prop := ∀ (v1 : Bool), ∀ f ∈ [fmtB, fmt16, fmt32], ∀ (m : Nat) (e e' : Int), m ≠ 0 →
  let fn := fun (op : LgOp) (v : FV) => decodeF f (lgFun v1 f op v)
  let isZero := fun (v : FV) (s : Bool) => ∃ g, v = .fin s 0 g
  let isOne := fun (v : FV) (s : Bool) => cmpF v (.fin s 1 0) = .eq ∧ v.isNaN = false
  (∀ op, fn op .nan = .nan)
    ∧ (∀ op ∈ [LgOp.lg2, .ln], fn op (.inf true) = .nan ∧ fn op (.fin true m e) = .nan ∧ fn op (.fin true 0 e) = .inf true
        ∧ fn op (.fin false 0 e) = .inf true ∧ fn op (.inf false) = .inf false ∧ isZero (fn op (.fin false 1 0)) false)
    ∧ (∀ op ∈ [LgOp.ex2, .exp], isZero (fn op (.inf true)) false ∧ isOne (fn op (.fin true 0 e)) false ∧ isOne (fn op (.fin false 0 e')) false
        ∧ fn op (.inf false) = .inf false)
    ∧ isZero (fn .rcp (.inf true)) true ∧ fn .rcp (.fin true 0 e) = .inf true ∧ fn .rcp (.fin false 0 e) = .inf false ∧ isZero (fn .rcp (.inf false)) false
    ∧ fn .rsq (.inf true) = .nan ∧ fn .rsq (.fin true m e) = .nan ∧ fn .rsq (.fin true 0 e) = .inf true ∧ fn .rsq (.fin false 0 e) = .inf false
    ∧ isZero (fn .rsq (.inf false)) false
    ∧ fn .sqrt (.inf true) = .nan ∧ fn .sqrt (.fin true m e) = .nan ∧ isZero (fn .sqrt (.fin true 0 e)) true ∧ isZero (fn .sqrt (.fin false 0 e)) false
    ∧ fn .sqrt (.inf false) = .inf false
    ∧ isOne (fn .tanh (.inf true)) true ∧ isZero (fn .tanh (.fin true 0 e)) true ∧ isZero (fn .tanh (.fin false 0 e)) false ∧ isOne (fn .tanh (.inf false)) false
    ∧ isZero (fn .sigm (.inf true)) false ∧ (∀ s, cmpF (fn .sigm (.fin s 0 e)) (.fin false 1 (-1)) = .eq ∧ (fn .sigm (.fin s 0 e)).isNaN = false) ∧ isOne (fn .sigm (.inf false)) false

/-- R136 to R138: every lane of the type takes its function's value, and gmb its transform, within the operation's bound. -/
def Sys2Proof.Claims.FunctionUnit : Prop := ∀ (s : State) (h : Head) (r : Row),
  let ty := (port64 s .lgy).toNat % 16
  let w := tyWidth ty
  let t := fun (k : Nat) => laneN (trigVal s h) w k
  (10 ≤ ty → ty ≤ 12 →
    ∀ p ∈ [(Instr.lg2 h, LgOp.lg2, 6), (.ln h, .ln, 8), (.ex2 h, .ex2, 6), (.exp h, .exp, 8), (.rcp h, .rcp, 6), (.rsq h, .rsq, 6), (.sqrt h, .sqrt, 6),
        (.tanh h, .tanh, 10), (.sigm h, .sigm, 10)],
      (∀ k < 1024 / w, laneN r w k = lgFun (ver1 (opened s).task) (tyFmt ty) p.2.1 (decodeF (tyFmt ty) (t k))) →
      Results p.1 s h .lgd [.lgy] r p.2.2)
    ∧ (ty = 12 → (∀ k < 32, laneN r 32 k = gmbPat (t k)) → Results (.gmb h) s h .lgd [.lgy] r 18)

/-- R139 to R143: the uniforms of generator mode and the table words of replay mode, whose read is queued as a load of its plates (R142) and gives the result when it performs; a draw index above 2^24 - 1 saturates and sets RNGSAT. -/
def Sys2Proof.Claims.Uniforms : Prop := ∀ (s : State) (h : Head) (d : Dest) (x : Row), Acts s h → destAt s .lgd = some d →
  let y := (portRow s .lgy).toNat
  let b := (portRow s .lgb).toNat
  let raw := fun (k : Nat) => laneN (trigVal s h) 32 k
  let draw := fun (k : Nat) => min (raw k) 0xffffff
  let done := fun (i : Instr) (sent : State → Prop) => ∃ t, exec i s = .next t ∧ sent t ∧ Consumes s t [.lgy, .lgd, .lgb] ∧ Advances s t
    ∧ KeepsRegs s t h.src [] ∧ KeepsMemory s t
    ∧ ((∃ k < 32, 0xffffff < raw k) → t.task.time.rngs = 1) ∧ ((∀ k < 32, raw k ≤ 0xffffff) → t.task.time.rngs = s.task.time.rngs)
  y % 16 = 12 →
    (y.testBit 6 = false → b / 2 ^ 64 % 2 ^ 40 + y / 16 % 4 < 2 ^ 40 →
      let mix := fun (x mul : Nat) => (x ^^^ x / 2 ^ 31) * mul % 2 ^ 64
      let seed := fun (k : Nat) => b % 2 ^ 64 ^^^ (b / 2 ^ 64 % 2 ^ 40 + y / 16 % 4) * 0x9E3779B97F4A7C15 % 2 ^ 64
        ^^^ (b / 2 ^ 104 % 2 ^ 24 * 2 ^ 24 ||| draw k)
      let bits := fun (k : Nat) => mix (mix (seed k) 0xBF58476D1CE4E5B9) 0x94D049BB133111EB / 2 ^ 40
      (∀ k < 32, laneN x 32 k = encodeF fmt32 1 (.fin false (2 * bits k + 1) (-25))) → done (.rndGenerator h) fun t => Sends s t d x 6)
    ∧ (y.testBit 6 = true → b / 2 ^ 21 % 2 ^ 36 = 2 ^ 36 - 1 → s.task.memq = [] → speculative s.task = false → s.task.platePoison = [] →
      (∀ f ∈ (opened s).task.flights, f.seq ≠ s.seq + 1) →
      let off := fun (k : Nat) => (b / 4 % 2 ^ 19 * 4 + 4 * ((b / 2 ^ 64 + draw k) % 2 ^ 64)) % 2 ^ 21
      (∀ k < 32, (ownersAt (opened s).task).getLsbD (off k / 16384) = false ∧ stashOfPlate (opened s).task (off k / 16384) = none) →
      (∀ k < 32, laneN x 32 k = laneN (sget s.task.plates (off k / 128)) 32 (off k % 128 / 4)) → done (.rndReplay h) fun t =>
        t.task.memq = [{ seq := s.seq + 1, kind := .ldx 32 (rndLanes ((List.range 32).map off)) }]
          ∧ t.task.flights = (promised (opened s) d .fixed (s.task.regs.cyc + 6) (s.seq + 1)).task.flights
          ∧ Sends s (performSeq t (s.seq + 1)) d x 6)

/-- R71, R74, R137: rcp, sqrt and rsq of a decoded lane are the exact reciprocal, root and reciprocal root, rounded once to nearest even; so are ex2 of an integer and lg2 of a power of two. (That the intervals of the other arguments decide the rounding rests on log 11.) -/
def Sys2Proof.Claims.RoundedFunctions : Prop := ∀ (v1 : Bool), ∀ f ∈ [fmtB, fmt16, fmt32], ∀ (x : Nat) (s : Bool) (m : Nat) (e : Int), decodeF f x = .fin s m e → m ≠ 0 →
  let a := numOf (.fin s m e)
  let gives := fun (op : LgOp) (y : Exact) (sign : Bool) => Delivers v1 f 0 y sign (lgFun v1 f op (decodeF f x))
  gives .rcp (exactly (1 / a)) s
    ∧ (0 < a → gives .sqrt (fun y => if y < 0 then .gt else exactly a (y * y)) false ∧ gives .rsq (fun y => if y ≤ 0 then .gt else exactly 1 (a * (y * y))) false)
    ∧ ∀ k : Int, (a = k → gives .ex2 (exactly ((2 : Rat) ^ k)) false) ∧ (a = (2 : Rat) ^ k → k ≠ 0 → gives .lg2 (exactly k) (decide (k < 0)))

/-- R71, R136 to R143: the transcendental unit, its special values, its roundings and its uniforms. -/
def Obligations.Functions : Prop := Claims.FunctionSpecials ∧ Claims.FunctionUnit ∧ Claims.RoundedFunctions ∧ Claims.Uniforms

/-- R144 to R150: sclr empties the Lake, smrg keeps the best 64 in value order, srd reads ranks or the count, ssort sorts by index, scsum returns the running sums. -/
def Sys2Proof.Claims.LakeMerges : Prop := ∀ (s : State) (h : Head) (x : Row),
  let l := s.task.lake
  let t := fun (k : Nat) => laneN (trigVal s h) 32 k
  let base := (port64 s .srtb).toNat % 2 ^ 32
  let cand := fun (k : Nat) => ({ val := BitVec.ofNat 32 (t k), idx := BitVec.ofNat 32 (base + k) } : Cand)
  let fresh := ((List.range 32).filter fun k => isNaNPat 12 (t k) == false).map cand
  let rank := (trigVal s h).toNat % 256
  let with_ := fun (m : Lake) => ({ begun s with task := { (begun s).task with lake := m } } : State)
  (Acts s h → Completes (.sclr h) s h.src (with_ { entries := [], ord := false })
    ∧ Completes (.ssort h) s h.src (with_ { l with ord := true })
    ∧ ∃ m : Lake, m.ord = false ∧ m.entries.length = min 64 (l.entries.length + fresh.length)
        ∧ (∀ c ∈ m.entries, c ∈ l.entries ∨ c ∈ fresh)
        ∧ (l.entries.Pairwise (fun a b => ranksAbove b a = false) → (∀ c ∈ l.entries, isNaNPat 12 c.val.toNat = false) →
            m.entries.Pairwise (fun a b => ranksAbove b a = false) ∧ ∀ c, c ∈ l.entries ∨ c ∈ fresh → c ∉ m.entries → ∀ e ∈ m.entries, ranksAbove c e = false)
        ∧ Completes (.smrg h) s h.src (eaten (with_ m) [.srtb]))
    ∧ ((trigVal s h).getLsbD 8 = true → x = BitVec.ofNat 1024 l.entries.length → Results (.srd h) s h .srtd [] x 4)
    ∧ ((trigVal s h).getLsbD 8 = false →
        (∀ j < 16, laneN x 64 j = match (lakeView l)[rank + j]? with
          | some c => c.val.toNat + 2 ^ 32 * c.idx.toNat
          | none => 0xFFFFFFFF7FC00000) →
        Results (.srd h) s h .srtd [] x 4)
    ∧ ((∀ i < 32, laneN x 32 i = ((cumSums (weightsOf l (t 0)))[(trigVal s h).toNat / 2 ^ 32 % 256 + i]?).getD 0x7FC00000) →
        Results (.scsum h) s h .srtd [] x 8)

/-- R144, R149: ssort reads the entries in index order, ties by value order, and loses none. -/
def Sys2Proof.Claims.LakeOrders : Prop := ∀ (l : Lake), l.ord = true →
  (lakeView l).Perm l.entries ∧ (lakeView l).Pairwise (fun a b => a.idx.toNat ≤ b.idx.toNat)
    ∧ (l.entries.Pairwise (fun a b => ranksAbove b a = false) → (lakeView l).Pairwise (fun a b => a.idx = b.idx → ranksAbove b a = false))

/-- R144 to R150: the Lake's operations and its two orders. -/
def Obligations.SortUnit : Prop := Claims.LakeMerges ∧ Claims.LakeOrders

/-! ### The matrix unit -/

/-- R164, R165, R169: push loads a row into a shadow plane that is not full, shift exchanges or moves the planes, mxclr empties both. -/
def Sys2Proof.Claims.MatrixLoads : Prop := ∀ (s : State) (h : Head), Acts s h → MxReady s →
  let m := s.task.mx
  let f := mxField s Regs.mcfg 0 6
  let cols := mxField s Regs.pcfg 8 8
  let p := if m.shadow.fmt = 0 then { m.shadow with fmt := f, nc := if cols = 0 ∨ 96 < cols then 96 else cols } else m.shadow
  ((m.shadow.fmt = 0 ∨ m.shadow.fmt = f) → (1 ≤ f ∧ f ≤ 4 ∨ 8 ≤ f ∧ f ≤ 14 ∨ 16 ≤ f ∧ f ≤ 22 ∨ 24 ≤ f ∧ f ≤ 26) → m.shadow.lost = [] →
      (p.rows < fullRows p → Completes (.push h) s h.src
        (withMx (begun s) { m with shadow := { p with data := sset p.data p.rows (trigVal s h), rows := p.rows + 1 } }))
      ∧ (fullRows p ≤ p.rows → Completes (.push h) s h.src (withMx (begun s) { m with shadow := p })))
    ∧ ((trigVal s h).getLsbD 0 = true →
        Completes (.shift h) s h.src (withMx (begun s) { m with active := dropPrologue m.shadow, shadow := m.active }))
    ∧ ((trigVal s h).getLsbD 0 = false →
        Completes (.shift h) s h.src (withMx (begun s) { m with active := dropPrologue m.shadow, shadow := { fmt := 0, nc := 0, rows := 0, data := [], lost := [] } }))
    ∧ Completes (.mxclr h) s h.src (withMx (begun s) { m with
        active := { fmt := 0, nc := 0, rows := 0, data := [], lost := [] }, shadow := { fmt := 0, nc := 0, rows := 0, data := [], lost := [] } })

/-- R67, R157, R161, R163, R166: a beat without feed adds the products of KLEN positions to the entries of the columns of the active plane, with one rounding, accz from -0; BASE steps by STEP; no other entry changes. -/
def Sys2Proof.Claims.MatrixSums : Prop := ∀ (s : State) (h : Head), Acts s h → MxReady s → swf s.task.mx.acc = true →
  let p := s.task.mx.active
  let ty := mxField s Regs.mcfg 8 4
  let positions := 1024 / tyWidth ty
  let klen := mxField s Regs.pcfg 0 8
  let used := if klen = 0 ∨ positions ≤ klen then positions else klen
  let cols := if p.fmt = 0 then 96 else p.nc
  let base := mxField s Regs.acp 0 10
  let step := mxField s Regs.acp 16 10
  let row0 := (base + (port64 s .mxa).toNat) % 1024
  let old := s.task.mx.acc
  let products := fun (j : Nat) => (List.range used).map fun k => mulF (decodeF (tyFmt ty) (laneN (trigVal s h) (tyWidth ty) k)) (weight p k j)
  mxPairs p.fmt ty = true → 1 ≤ cols → cols ≤ 96 → mxField s Regs.mcfg 12 1 = 0 →
  ∀ x ∈ [(Instr.acc h, false), (.accz h, true)], ∃ t, exec x.1 s = .next t
    ∧ (∀ i < bfpRate p.fmt, ∀ n < cols, sget t.task.mx.acc (96 * ((row0 + i) % 1024) + n)
        = BitVec.ofNat 32 (beat (ver1 s.task) (if x.2 then 0x80000000 else (sget old (96 * ((row0 + i) % 1024) + n)).toNat) (products (cols * i + n))))
    ∧ (∀ key, (∀ i < bfpRate p.fmt, ∀ n < cols, key ≠ 96 * ((row0 + i) % 1024) + n) → sget t.task.mx.acc key = sget old key)
    ∧ t.task.mx.active = p ∧ t.task.mx.shadow = s.task.mx.shadow
    ∧ t.task.regs.acp.toNat % 2 ^ 10 = (if step = 0 then base else (base + step) % 1024)
    ∧ t.task.regs.acp.toNat / 2 ^ 16 % 2 ^ 10 = step ∧ KeepsRegs s t h.src [.acp] ∧ Consumes s t [.mxa] ∧ KeepsMemory s t ∧ KeepsDevice s t ∧ Advances s t

/-- R167, R168: drain scales the entries of one segment, rectifies them with RELU, rounds each once into the output type, and leaves them as they are; where poisoned rows were written to the segment the result carries their mark (log 91). -/
def Sys2Proof.Claims.MatrixDrain : Prop := ∀ (s : State) (h : Head) (x : Row), MxReady s →
  let e := (port64 s .mxe).toNat
  let o := e % 16
  let q := (mxField s Regs.acp 0 10 + (trigVal s h).toNat) % 1024
  let c := min 96 (1024 / tyWidth o)
  let sg := (trigVal s h).toNat / 2 ^ 16 % 4
  let scaled := fun (j : Nat) => mulF (decodeF fmt32 (sget s.task.mx.acc (96 * q + j)).toNat) (decodeF fmtB (e / 2 ^ 16 % 2 ^ 16))
  let out := fun (v : FV) => convertV (ver1 s.task) (if e.testBit 7 ∧ v.isNaN = false ∧ v.neg? = true then .fin false 0 0 else v) o (e / 16 % 4) (e.testBit 6)
  (o = 0 ∨ o = 4 ∨ 8 ≤ o ∧ o ≤ 12) →
  let bad := drainBad s.task.mx (tyWidth o) q sg
  (∀ i < 1024 / tyWidth o, laneN x (tyWidth o) i = if i < c ∧ c * sg + i < 96 then out (scaled (c * sg + i)) else 0) →
  (bad = false → Results (.drain h) s h .mxd [.mxe] x 6)
    ∧ (bad = true → ∀ d, Acts s h → destAt s .mxd = some d → ∃ t, exec (.drain h) s = .next t
        ∧ t.task.flights = (sendMarked (opened s).task d x true (s.task.regs.cyc + 6) (s.seq + 1)).flights
        ∧ Consumes s t [.mxd, .mxe] ∧ Advances s t ∧ KeepsAll s t h.src)

/-- R164, R165, R167 to R169: the planes, and what drain takes from the accumulators. -/
def Obligations.MatrixPlanes : Prop := Claims.MatrixLoads ∧ Claims.MatrixDrain

/-- R161, R166: with FEED = 1 a beat also loads the segment at the read pointer of the feed tile into a shadow plane that is not full, and the pointer advances. -/
def Sys2Proof.Claims.MatrixFeed : Prop := ∀ (s : State) (h : Head), Acts s h → MxReady s →
  let m := s.task.mx
  let f := mxField s Regs.mcfg 0 6
  let k := BitVec.ofNat 3 (mxField s Regs.mcfg 13 3)
  let cfg := (opened s).task.regs.getT k
  mxPairs m.active.fmt (mxField s Regs.mcfg 8 4) = true → mxField s Regs.mcfg 12 1 = 1 → mxField s Regs.acp 16 10 = 0 →
  (1 ≤ f ∧ f ≤ 4) → tileTy cfg = feedType f → m.shadow.fmt = f → m.shadow.lost = [] → m.shadow.rows < m.shadow.nc →
  inFlight (opened s).task (.tcfg k) = false → regPoisoned (opened s).task (.tcfg k) = false →
  (opened s).task.tilePoison.contains (256 * k.toNat + tileR cfg) = false → (∀ j, h.src ≠ .tn j) →
  segEarly (opened s).task (segKey (opened s).task k) = false →
  ∀ i ∈ [Instr.acc h, .accz h], ∃ t, exec i s = .next t
    ∧ t.task.mx.shadow = { m.shadow with data := sset m.shadow.data m.shadow.rows (sget (opened s).task.tiles (256 * k.toNat + tileR cfg)), rows := m.shadow.rows + 1 }
    ∧ t.task.regs.getT k = setTileR cfg (advance cfg (tileR cfg)) ∧ t.task.mx.active = m.active
    ∧ KeepsRegs s t h.src [.tcfg k] ∧ Consumes s t [.mxa] ∧ KeepsMemory s t ∧ KeepsDevice s t ∧ Advances s t

/-- R67, R74: a beat adds the exact sum of its products to the entry and rounds once, to nearest even; under VER = 1 it rounds after every 32 products; NaN and infinities are decided over the whole beat. -/
def Sys2Proof.Claims.BeatSums : Prop := ∀ (v1 : Bool) (acc : Nat) (l : List FV), acc < 2 ^ 32 → l.length ≤ 128 →
  let all := decodeF fmt32 acc :: l
  let sum := (all.map numOf).sum
  let nan := .nan ∈ all ∨ (.inf true ∈ all ∧ .inf false ∈ all)
  (nan → beat v1 acc l = 0x7fc00000)
    ∧ (¬ nan → ∀ s, .inf s ∈ all → decodeF fmt32 (beat v1 acc l) = .inf s)
    ∧ ((∀ v ∈ all, ∃ s m e, v = .fin s m e) →
      (sum ≠ 0 → Takes fmt32 0 (exactly sum) (decide (sum < 0)) (beat false acc l))
        ∧ (sum = 0 → ∃ s, Shows fmt32 (beat false acc l) s 0 ∧ (s = true ↔ ∀ v ∈ all, ∃ e, v = .fin true 0 e))
        ∧ beat true acc l = (List.range 4).foldl (fun x k => if 32 * k < l.length then beat false x ((l.drop (32 * k)).take 32) else x) acc)

/-- R67, R74, R157, R161, R163, R166: beats, their roundings, and their feed. -/
def Obligations.MatrixBeat : Prop := Claims.MatrixSums ∧ Claims.MatrixFeed ∧ Claims.BeatSums

/-! ### Traps, the handler, bundles of several slots -/

/-- R33, R88, R309, R315: a terminal trap of a task that has nothing under way ends it, fails its instance and leaves a record of cause, kind, lane, slot and bundle, address and code; no effect of the bundle stays. -/
def Sys2Proof.Claims.TerminalTraps : Prop := ∀ (s : State) (c : Trap), Bare s → onCore s.task = true → s.task.pending = [] →
  groupOfTask s = [s.task.uid] → .replayWait ∉ s.task.freeze → c.cause ∉ [Cause.pageFault, .killed, .poison, .machineCheck] → c.kind = 0 → c.loc = none → ringRoom s (ringOf s s.task.info.part false) →
  EndsWith s (takeTrap s c) c

/-- R324: a page fault of a task that has nothing under way, with a frame slot at hand, takes it off its core with pc and registers as they were and leaves a retryable record with the slot and the address. -/
def Sys2Proof.Claims.PageFaultSwap : Prop := ∀ (s : State) (c : Trap) (n : Nat), Bare s → onCore s.task = true → s.task.pending = [] →
  groupOfTask s = [s.task.uid] → c.cause = .pageFault → c.kind = 0 → c.loc = none → slotFor s s.task = some n → ringOf s s.task.info.part true < s.rings.length →
  let t := takeTrap s c
  let r := ringOf s s.task.info.part true
  t.task.place = .onRecord n ∧ t.task.regs = s.task.regs ∧ t.task.frame.slot = some n ∧ t.task.plates = s.task.plates ∧ t.task.tiles = s.task.tiles
    ∧ (ringAt t r).waiting.length = (ringAt s r).waiting.length + 1
    ∧ newest t r 16 16 = n % 2 ^ 16 ∧ newest t r 32 8 = 0x10 ∧ newest t r 40 8 = 0 ∧ newest t r 72 5 = c.lane % 32
    ∧ newest t r 80 16 = (c.slot * 2 ^ 13 + s.task.regs.pc) % 2 ^ 16 ∧ newest t r 320 64 = c.addr % 2 ^ 64

/-- R311: trap raises TRAP_INSN with its code, and no slot of its bundle takes effect. -/
def Sys2Proof.Claims.TrapInstruction : Prop := ∀ (s : State) (h : Head), Acts s h → speculative s.task = false →
  Bare s → groupOfTask s = [s.task.uid] → ringRoom s (ringOf s s.task.info.part false) →
  ∃ t, exec (.trap h) s = .next t ∧ EndsWith (opened s) t { cause := .trapInsn, info := (trig64 s h).toNat % 2 ^ 16 }

/-- R33, R309, R311, R315, R324: how a trap is taken. -/
def Obligations.TrapsTaken : Prop := Claims.TerminalTraps ∧ Claims.PageFaultSwap ∧ Claims.TrapInstruction

/-- R25, R32, R34, R48, R121, R162, R307, R313, R346, R350: what an acting operation that is not speculative traps on. That a bad destination comes before the operation's own causes is log 20, and which address and lane a memory trap reports is log 68. -/
def Obligations.TrapCauses : Prop := ∀ (s : State) (h : Head), Acts s h → speculative s.task = false →
  let t := (trig64 s h).toNat
  let y := (port64 s .vecy).toNat % 16
  (∀ i ∈ [Instr.add .sa0 h, .mul .sa0 h, .clz .sa0 h], destAt s .sa0d = none → Traps i s { cause := .illDst })
    ∧ (∀ i ∈ [Instr.vadd h, .vand h, .vcvt h, .vmaxi h, .vbnd h], destAt s .vecd = none → Traps i s { cause := .illDst })
    ∧ (∀ d, destAt s .vecd = some d →
        (∀ i ∈ [Instr.vadd h, .vsub h, .vmul h, .vfma h, .vmin h, .vmax h, .vabs h, .vneg h, .vceq h, .vclt h, .vcle h, .vsum h, .vrmax h, .vrmin h],
          y = 8 ∨ y = 9 ∨ 13 ≤ y → Traps i s { cause := .illType })
        ∧ (∀ i ∈ [Instr.vand h, .vor h, .vxor h, .vsel h, .vbc h, .vext h, .vins h, .vperm h, .vrot h, .vmexp h, .vmpak h, .vsqz h, .vcvt h],
          13 ≤ y → Traps i s { cause := .illType })
        ∧ (∀ i ∈ [Instr.vshl h, .vshr h, .vsar h, .vpopc h, .vcls h, .viota h], 8 ≤ y → Traps i s { cause := .illType })
        ∧ (6 ≤ y ∧ y ≤ 9 ∨ 13 ≤ y → Traps (.vmaxi h) s { cause := .illType }) ∧ (y < 10 ∨ 13 ≤ y → Traps (.vbnd h) s { cause := .illType }))
    ∧ (∀ d c, destAt s .lsud = some d → outstanding (opened s).task < 32 → resolve (begun s) accLoad (t % 2 ^ 57 / 128 * 128) = .error c →
        Traps (.ld h) s { rowFault (t % 2 ^ 57 / 128 * 128) c with slot := 0 })
    ∧ (32 ≤ outstanding (opened s).task → Traps (.ld h) s { cause := .bundleConflict })
    ∧ (16 ≤ s.task.lq.length → h.src ≠ .lq → Traps (.ldq h) s { cause := .bundleConflict })
    ∧ (4 < t % 256 → Traps (.fence h) s { cause := .illScope })
    ∧ (t % 4096 ≠ 0 → t % 4096 ≠ 1 → t % 4096 ≠ 6 → Traps (.csrw h) s { cause := .priv })
    ∧ (t % 4096 = 0 → s.task.info.vf ≠ 0 → Traps (.csrw h) s { cause := .priv })
    ∧ (t % 2 = 1 → fragOf s.task.info.ftab 255 = none → Traps (.uien h) s { cause := .trapInsn })
    ∧ (roundOpen s.task.spec = true → Traps (.sgo h) s { cause := .specDepth } ∧ Traps (.apreg h) s { cause := .specEffect })

/-- R305 to R308: in the handler uret restores the shadow, leaves the handler and branches back; outside it does nothing. -/
def Obligations.HandlerReturn : Prop := ∀ (s : State) (h : Head), Acts s h →
  (s.task.uint.inHandler = false → Completes (.uintReturn h) s h.src (begun s))
    ∧ (s.task.uint.inHandler = true → ∃ t, exec (.uintReturn h) s = .next t ∧ t.task.uint.inHandler = false
        ∧ t.task.regs.pc = s.task.uint.ret % 8192 ∧ t.task.regs.cyc = s.task.regs.cyc + 3
        ∧ (∀ k < 8, t.task.regs.read (.s (BitVec.ofNat 6 (56 + k))) = row64 (s.task.uint.shS.getD k 0))
        ∧ (∀ k < 3, t.task.regs.read (.p (BitVec.ofNat 3 (1 + k))) = BitVec.ofNat 1024 (b2n (s.task.uint.shP.getD k false)))
        ∧ t.task.regs.rrb = s.task.uint.shRrb &&& 0x1f
        ∧ KeepsRegs s t h.src ((List.range 8).map (fun k => RegDst.s (BitVec.ofNat 6 (56 + k))) ++ [.p 1, .p 2, .p 3, .rrb])
        ∧ t.task.ports = s.task.ports ∧ KeepsMemory s t ∧ KeepsDevice s t)

/-- R189: a group forms when every core that the mask names is parked with it: its members follow the bundle after the rejoin; else nothing happens. -/
def Sys2Proof.Claims.GroupForms : Prop := ∀ (s : State) (m : Nat), parkMask s.task = some m → ((allTasks s).map Task.uid).Nodup →
  let l := named s s.task.info m
  (l.length = popcN 8 m → (∀ t ∈ l, parkedWith t m = true) → l ≠ [] →
      ∃ t, exec .groupForm s = .next t ∧ t.mem = s.mem
        ∧ ∀ x ∈ allTasks t, (l.map Task.uid).contains x.uid = true →
            x.fused = l.map Task.uid ∧ .rejoin m ∉ x.freeze ∧ x.regs.pc = (l.map fun y => y.regs.pc).headD 0)
    ∧ ((l.length ≠ popcN 8 m ∨ ∃ t ∈ l, parkedWith t m = false) → exec .groupForm s = .next s)

/-- R185 to R189: groups form, issue together, are left and are joined. -/
def Obligations.Fusion : Prop := Claims.FuseLeaves ∧ Claims.GroupBundles ∧ Claims.GroupForms

/-- R22, R26, R28: a bundle of one live slot is that slot's operation alone; two moves of a bundle read both their sources before either writes. -/
def Obligations.BundleOfSlots : Prop := ∀ (s : State) (b : Bundle),
  (∀ i, liveSlots b = [0] → decodeSlot b 0 = .ok i → i.head?.isSome = true → exec (.bundleIssue b) s = exec i s)
    ∧ (∀ r1 r2 n1 n2, liveSlots b = [0, 1] → Ready s →
        decodeSlot b 0 = .ok (.move { inv := false, p := 0 } (.s n1) false (.reg (.s r1))) →
        decodeSlot b 1 = .ok (.move { inv := false, p := 0 } (.s n2) false (.reg (.s r2))) →
        let name := fun (n : BitVec 6) => renDst (rrbRead (opened s)) (.s n)
        name r1 ≠ name r2 → Readable s { inv := false, p := 0 } (.s n1) → Readable s { inv := false, p := 0 } (.s n2) →
        inFlight (opened s).task (name n1) = false → inFlight (opened s).task (name n2) = false →
        ∃ t, exec (.bundleIssue b) s = .next t ∧ t.task.regs.read (name r1) = (opened s).task.regs.read (name n1)
          ∧ t.task.regs.read (name r2) = (opened s).task.regs.read (name n2)
          ∧ KeepsRegs s t .acp [name r1, name r2] ∧ t.task.ports = s.task.ports ∧ KeepsMemory s t ∧ KeepsDevice s t ∧ Advances s t)

/-! ### The synchronisation unit -/

/-- R202, R204, R205, R290, R304: dcnt, cstage and barv are queued with their operands; spawn and spawnd whose record can be read, and a spawnd of class F whatever its record, are queued, with their status on its way, or deferred, with it, where the deferred queue takes them. -/
def Obligations.SyncTriggers : Prop := ∀ (s s1 : State) (h : Head), Acts s h → hasRoom s →
  let t := trig64 s h
  let a := port64 s .syna
  let ra := a.toNat % 2 ^ 57 / 256 * 256
  Completes (.dcnt h) s h.src (enters s (begun s) (.dcnt (t.toNat % 4096)))
    ∧ Completes (.cstage h) s h.src (enters s (begun s) (.cstage (t.toNat % 512)))
    ∧ Completes (.barv h) s h.src
        (enters s (eaten (begun s) [.syna]) (.barv (a.toNat % 64) (a.getLsbD 8) (t.toNat % 2 ^ 32) s.task.regs.pc))
    ∧ ∀ d, destAt s .synd = some d → ∀ p ∈ [(Instr.spawn h, false, 64), (.spawnd h, true, 1)],
        let classF := p.2.1 = true ∧ s.task.info.cls = 0
        (classF → s1 = begun s) → (¬ classF → recordFault (begun s) ra = .ok s1) →
        let k := MemKind.spawn ra t p.2.1
        let u := eaten s1 [.syna, .synd]
        let held := bufferOp u (iterOf s.task) { seq := s.seq + 1, kind := k }
        (speculative s.task = false →
          Completes p.1 s h.src (push (promised u d .fixed (s.task.regs.cyc + p.2.2) (s.seq + 1)) (s.seq + 1) k))
        ∧ (speculative s.task = true → held.task.spec.buf.any (fun e => e.2.seq == s.seq + 1) = true →
          Completes p.1 s h.src (promised held d .deferred s.task.regs.cyc (s.seq + 1)))
        ∧ (speculative s.task = true → held.task.spec.buf.any (fun e => e.2.seq == s.seq + 1) = false → Completes p.1 s h.src held)

/-- R206, R301 to R303, R307: uien sets EN; bpost adds to PEND, breaks on overflow or on an overdrawn credit, completes at 0; bwait passes or freezes by parity, and one that passes acquires; hbw freezes until its tick. What an acquire does with the core's private lines is log 64; that these four act at once in a speculative iteration is log 42. -/
def Obligations.BarriersAndWaits : Prop := ∀ (s : State) (h : Head), Acts s h →
  let t := (trig64 s h).toNat
  let hb := s.clk.hb
  let tick := if (trig64 s h).getLsbD 63 then t % 2 ^ 63 else hb + max 1 (t % 2 ^ 32)
  let i := s.task.info
  let n := (port64 s .syna).toNat % 64
  let b := getBar s i n
  let q : Int := b.pend + (t % 2 ^ 32 : Nat)
  let w := getBar s i (t % 64)
  let parity := (trig64 s h).getLsbD 8
  (t % 2 = 0 → Completes (.uien h) s h.src { begun s with task := { (begun s).task with uint := { s.task.uint with en := false } } })
    ∧ (t % 2 = 1 → (fragOf i.ftab 255).isSome = true →
        Completes (.uien h) s h.src { begun s with task := { (begun s).task with uint := { s.task.uint with en := true } } })
    ∧ ((∀ x ∈ s.sched.barSets, x.bars.length = 64) → ∃ u, exec (.bpost h) s = .next u ∧ KeepsRegs s u h.src [] ∧ Consumes s u [.syna] ∧ Advances s u
        ∧ (∀ k < 64, k ≠ n → getBar u i k = getBar s i k)
        ∧ (b.broken = true → getBar u i n = b)
        ∧ (b.broken = false → 2 ^ 31 ≤ q → getBar u i n = { b with broken := true })
        ∧ (b.broken = false → q < 0 → getBar u i n = { b with pend := q, posted := true, broken := true })
        ∧ (b.broken = false → q = 0 → getBar u i n = { b with pend := 0, phase := !b.phase, posted := false })
        ∧ (b.broken = false → 0 < q → q < 2 ^ 31 → getBar u i n = { b with pend := q, posted := true }))
    ∧ (w.broken = true → speculative s.task = false → Traps (.bwait h) s { cause := .barBroken })
    ∧ (w.broken = false → w.phase = parity → Completes (.bwait h) s h.src (frozen (begun s) (.bwait (t % 64) parity s.task.regs.pc)))
    ∧ (w.broken = false → w.phase ≠ parity → Completes (.bwait h) s h.src (acquireCore (begun s) (begun s).task))
    ∧ (tick ≤ hb → Completes (.hbw h) s h.src (begun s)) ∧ (hb < tick → Completes (.hbw h) s h.src (frozen (begun s) (.hbw tick)))

/-- R291, R295, R396: gth and coll read their command row in the trigger bundle and are queued for their engine; esend posts its row to the egress buffer, or answers NOSESS or POISON. -/
def Obligations.EngineTriggers : Prop := ∀ (s s1 : State) (h : Head) (r : Nat), Acts s h → speculative s.task = false → s.task.memq = [] →
  let t := (trig64 s h).toNat
  let va := (port64 s .syna).toNat % 2 ^ 57 / 128 * 128
  let row := sget s.task.plates r
  (isLocal va = true → resolve (begun s) accLoad va = .ok (s1, .plate r) → s.task.platePoison.contains r = false → opsOf s s.task.uid = [] →
      Completes (.gth h) s h.src
        (push (eaten s1 [.syna, .synb]) (s.seq + 1) (.engine (newOp .gather row (t % 2 ^ 32) (gatherRows row) (port64 s .synb))))
      ∧ Completes (.coll h) s h.src
        (push (eaten s1 [.syna, .synb]) (s.seq + 1) (.engine { newOp .coll row t (collSrcRows row) (port64 s .synb) with trigger := s.clk.ftime })))
    ∧ ∀ d, destAt s .synd = some d → isLocal va = true → s.task.egress.length < 8 →
      (ownersAt s.task).getLsbD (va % 2 ^ 21 / 16384) = false → stashOfPlate s.task (va % 2 ^ 21 / 16384) = none →
      let b := (port64 s .synb).toNat
      let live := ∃ x ∈ s.ept.sessions, x.num = b % 2 ^ 14 ∧ x.part = s.task.info.part ∧ x.image.getLsbD 0 = true
      let bad := s.task.platePoison.contains (va % 2 ^ 21 / 128)
      ∃ u, exec (.esend h) s = .next u ∧ Consumes s u [.syna, .synb, .synd] ∧ KeepsRegs s u h.src [] ∧ KeepsMemory s u ∧ Advances s u
        ∧ (¬ live → Sends s u d 1 16 ∧ u.task.egress = s.task.egress)
        ∧ (live → bad = true → Sends s u d 2 16 ∧ u.task.egress = s.task.egress)
        ∧ (live → bad = false → Sends s u d 0 16
            ∧ u.task.egress = s.task.egress ++ [(b % 2 ^ 14, b / 2 ^ 32, t, sget s.task.plates (va % 2 ^ 21 / 128))])

/-! ### The speculation unit -/

/-- R345: sgo in batch mode opens a round: phase GUESS, the width asked for or the header's, halved from level L1 on, the carry of the bundle as TC and as CI[0]. -/
def Sys2Proof.Claims.RoundOpens : Prop := ∀ (s s1 : State) (h : Head) (hd : BitVec 72), Acts s h → s.task.memq = [] → roundOpen s.task.spec = false →
  let va := (port64 s .spca).toNat % 2 ^ 57 / 64 * 64
  let t := (trig64 s h).toNat
  let asked := if t % 16 = 0 then hd.toNat / 2 ^ 64 % 16 else t % 16
  headerRow (begun s) va = .ok (some (s1, hd)) → hd.getLsbD 68 = true → 2 ≤ asked → asked ≤ 8 →
  (∀ d ∈ carryRegs hd, regPoisoned (opened s).task d = false ∧ inFlight (opened s).task d = false) →
  ∃ u, exec (.sgo h) s = .next u ∧ u.task.spec.phase = .guess ∧ u.task.spec.team = false ∧ u.task.spec.header = some hd
    ∧ u.task.spec.width = (if askpLevel s.task.info.askp = 0 then asked else max 2 (asked / 2))
    ∧ u.task.spec.cur = 0 ∧ u.task.spec.abnd = false ∧ u.task.spec.regions = s.task.spec.regions
    ∧ (∀ k < 8, u.task.spec.tc.s.getD k 0 = if hd.getLsbD (48 + k) then (opened s).task.regs.getS (BitVec.ofNat 6 (8 + k)) else 0)
    ∧ (iterAt u.task.spec 0).ci = some u.task.spec.tc ∧ (iterAt u.task.spec 0).row = some 0
    ∧ (∀ j, 1 ≤ j → j < 8 → iterAt u.task.spec j = Iter.empty)
    ∧ KeepsRegs s u h.src [] ∧ Consumes s u [.spca] ∧ Advances s u ∧ u.mem = s1.mem

/-- R346, R347: the five actions of acmp in a batch round, in the phase that allows them. -/
def Obligations.CarryActions : Prop := ∀ (s : State) (h : Head) (hd : BitVec 72) (d : Dest), Acts s h → destAt s .spcd = some d →
  let m := s.task.spec
  let x := (trig64 s h).toNat
  let op := x / 16 % 8
  let j := x % 16
  let carry := readCarry (opened s).task (freeTrig (opened s) 0) hd
  m.team = false → m.header = some hd → m.iters.length = 8 → m.width ≤ 8 → s.task.memq = [] → m.buf = [] →
  (∀ r ∈ carryRegs hd, regPoisoned (opened s).task r = false) →
  (op = 0 → m.phase = .guess → 1 ≤ j → j < m.width → (iterAt m j).ci = none → rowOk m j (x / 256 % 2 ^ 16) = true →
      ∃ u, exec (.acmpGuess h) s = .next u ∧ (iterAt u.task.spec j).ci = some carry ∧ (iterAt u.task.spec j).row = some (x / 256 % 2 ^ 16)
        ∧ u.task.spec.phase = .guess ∧ KeepsRegs s u h.src [] ∧ KeepsMemory s u ∧ Advances s u)
    ∧ (op = 1 → m.phase = .guess → ∃ u, exec (.acmpRun h) s = .next u ∧ u.task.spec.phase = .spec ∧ u.task.spec.cur = 0
        ∧ (∀ k < 8, hd.getLsbD (48 + k) = true → u.task.regs.read (.s (BitVec.ofNat 6 (8 + k))) = row64 (m.tc.s.getD k 0))
        ∧ (∀ k < 4, hd.getLsbD (56 + k) = true → u.task.regs.read (.v (BitVec.ofNat 5 (8 + k))) = m.tc.v.getD k 0)
        ∧ KeepsRegs s u h.src (carryRegs hd) ∧ KeepsMemory s u ∧ Advances s u)
    ∧ (m.phase = .spec → j < m.width → (iterAt m j).fail = false → (iterAt m j).co = none →
      (op = 2 → ∃ u, exec (.acmpOut h) s = .next u ∧ (iterAt u.task.spec j).co = some carry ∧ (iterAt u.task.spec j).done = true
        ∧ KeepsRegs s u h.src [] ∧ KeepsMemory s u ∧ Advances s u)
      ∧ (op = 3 → ∃ u, exec (.acmpLast h) s = .next u ∧ (iterAt u.task.spec j).co = some carry ∧ (iterAt u.task.spec j).done = true
        ∧ (iterAt u.task.spec j).last = true ∧ KeepsRegs s u h.src [] ∧ KeepsMemory s u ∧ Advances s u))
    ∧ (op = 4 → m.phase = .spec → j < m.width → ∃ u, exec (.acmpTag h) s = .next u ∧ u.task.spec.cur = j ∧ u.task.spec.iters = m.iters
        ∧ KeepsRegs s u h.src [] ∧ KeepsMemory s u ∧ Advances s u)

/-- R344, R348, R349: scmt of a batch round without append regions commits its longest correct run, the carry that of the run's last iteration; sabt restores the carry and leaves the round. -/
def Sys2Proof.Claims.RoundEnds : Prop := ∀ (s : State) (h : Head) (hd : BitVec 72) (n : Nat), Acts s h →
  let m := s.task.spec
  let good := fun (j : Nat) => j < m.width ∧ (iterAt m j).done = true ∧ (iterAt m j).fail = false
    ∧ (j = 0 ∨ (iterAt m (j - 1)).ok = true ∧ (iterAt m (j - 1)).last = false)
  let takes := fun (u : State) (c : Carry) =>
    (∀ k < 8, hd.getLsbD (48 + k) = true → u.task.regs.read (.s (BitVec.ofNat 6 (8 + k))) = row64 (c.s.getD k 0))
    ∧ (∀ k < 4, hd.getLsbD (56 + k) = true → u.task.regs.read (.v (BitVec.ofNat 5 (8 + k))) = c.v.getD k 0)
    ∧ KeepsRegs s u h.src (carryRegs hd) ∧ u.task.spec.buf = [] ∧ KeepsMemory s u ∧ Advances s u
  m.team = false → m.header = some hd → m.width ≤ 8 → s.task.memq = [] → m.buf = [] → (∀ r ∈ m.regions, r = none) →
  (m.phase = .spec → 1 ≤ n → (∀ j < n, good j) → ¬ good n → ∃ u, exec (.scmt h) s = .next u ∧ u.task.spec.phase = .done ∧ u.task.spec.n = n
      ∧ u.task.spec.fin = (iterAt m (n - 1)).last ∧ takes u ((iterAt m (n - 1)).co.getD Carry.zero))
    ∧ (m.phase ≠ .spec → ∃ u, exec (.scmt h) s = .next u ∧ u.task.spec = m ∧ KeepsRegs s u h.src [] ∧ KeepsMemory s u ∧ Advances s u)
    ∧ ((m.phase = .guess ∨ m.phase = .spec) → ∃ u, exec (.sabt h) s = .next u ∧ u.task.spec.phase = .idle ∧ u.task.spec.abnd = true ∧ takes u m.tc)

/-- R344, R345, R348, R349: rounds open, commit and are abandoned. -/
def Obligations.Rounds : Prop := Claims.RoundOpens ∧ Claims.RoundEnds

/-- R350, R353: apreg sets or empties a region slot outside a round; fnext gives the header's fragment for the phase, END and NOHDR. -/
def Obligations.RegionsAndFragments : Prop := ∀ (s : State) (h : Head), Acts s h →
  let m := s.task.spec
  let t := (trig64 s h).toNat
  let b := (port64 s .spcb).toNat
  let r : Region := { base := (port64 s .spca).toNat % 2 ^ 57 / 128 * 128, rb := max 1 (b / 2 ^ 32 % 256), tail := b % 2 ^ 32, hi := none }
  let byte := fun (n : Nat) => (m.header.getD 0).toNat / 2 ^ (8 * n) % 256
  let frag := if m.header = none then 0 else match t % 4 with
    | 0 => (match m.phase with
      | .spec => byte 3
      | .done => if m.fin then byte 5 else byte 4
      | _ => byte 2)
    | 1 => byte 2
    | 2 => byte 3
    | _ => byte 4
  (roundOpen m = false → m.regions.length = 4 →
      Completes (.apreg h) s h.src { eaten (begun s) [.spca, .spcb] with task := { (eaten (begun s) [.spca, .spcb]).task with
        spec := { m with regions := m.regions.set (t % 4) (if (trig64 s h).getLsbD 8 then none else some r) } } })
    ∧ Results (.fnext h) s h .spcd [] (BitVec.ofNat 1024 (frag + (if m.phase = .done ∧ m.fin = true then 256 else 0)
        + (if m.header = none then 512 else 0))) 2

/-! ### The scheduler -/

/-- R183, R190, R199, R200, R387: a doorbell sets TAIL of a queue in use; the head entry is refused, admitted with the next sequence number and its quota unit, or waits for a unit (what it then holds is the model's choice, log 75); an instance is released at its time, or counted as skipped. -/
def Obligations.LaunchFlow : Prop := ∀ (s : State),
  (∀ p n v, HasPart s p →
      (n < 4 → (queueAt s p n).en = true → ∃ t, exec (.queueDoorbell p n v) s = .next t
        ∧ queueAt t p n = { queueAt s p n with tail := v.toNat % 2 ^ 16 } ∧ (∀ k, k ≠ n → queueAt t p k = queueAt s p k) ∧ t.mem = s.mem)
      ∧ ((4 ≤ n ∨ (queueAt s p n).en = false) → exec (.queueDoorbell p n v) s = .next s))
    ∧ (∀ p n, HasPart s p → n < 4 →
      let q := queueAt s p n
      let at_ := q.base * 8 + q.head % queueSize q * 8
      let admits := fun (l : LaunchState) => ∃ t, exec (.queueEntrySubmit p n) s = .next t
        ∧ t.sched.seq = s.sched.seq + 1 ∧ (∃ x ∈ t.sched.launches, x.lr = { l.lr with seqno := s.sched.seq + 1 } ∧ x.admitted = s.clk.ftime ∧ x.clusters = l.clusters)
        ∧ t.sched.launches.length = s.sched.launches.length + 1
        ∧ (queueAt t p n).head = (q.head + 1) % queueSize q ∧ (queueAt t p n).wait = none
      let hasUnit := fun (l : LaunchState) => l.lr.cls = 0 ∨ unitFree s l.lr.part l.lr.qcls = true
      partOpen (getPart s p) = true → 4 ≤ heldUnits (getPart s p) 14 0 → q.en = true → q.head % queueSize q ≠ q.tail % queueSize q →
      (∀ l, q.wait = some l → (hasUnit l → admits l) ∧ (¬ hasUnit l → exec (.queueEntrySubmit p n) s = .next s))
      ∧ ∀ a, q.wait = none → virtWaits s p accData at_ 8 = false → readVirt s p accData at_ 8 = .ok a →
        let ra := a % 2 ^ 57 / 256 * 256
        recordWaits s p ra none = false → ∀ raw, readImg s p ra 256 = .ok raw →
        let lr := parseLaunch ra raw
        (∀ st b, judge s p lr raw = .refuse st b → NoBound s → ∃ t, exec (.queueEntrySubmit p n) s = .next t ∧ t.sched = s.sched
          ∧ (queueAt t p n).head = (q.head + 1) % queueSize q)
        ∧ ∀ img c, judge s p lr raw = .takes img c →
          let l := newLaunch s p lr img c
          (hasUnit l → admits l)
          ∧ (¬ hasUnit l → ∃ t, exec (.queueEntrySubmit p n) s = .next t ∧ (queueAt t p n).wait = some l ∧ (queueAt t p n).head = q.head
            ∧ t.sched.launches = s.sched.launches ∧ t.sched.seq = s.sched.seq))
    ∧ ∀ q l r, findLaunch s q = some l → nextRelease l = some r → r ≤ s.clk.ftime → l.gateOpen = true → partOpen (getPart s l.lr.part) = true →
      (skips l = false → ∃ t, exec (.instanceRelease q) s = .next t
        ∧ t.sched.insts = s.sched.insts ++ [newInst s l r] ∧ t.sched.nextInst = s.sched.nextInst + 1
        ∧ (∃ x, findLaunch t q = some x ∧ x.nextK = l.nextK + 1 ∧ x.lastRelease = r) ∧ t.mem = s.mem)
      ∧ (skips l = true → (l.lr.period ≠ 0 ∨ l.lr.sess ≠ none) → HasPart s l.lr.part → ∃ t, exec (.instanceRelease q) s = .next t
        ∧ t.sched.insts = s.sched.insts ∧ (getPart t l.lr.part).sch.cntSkip = (getPart s l.lr.part).sch.cntSkip + 1
        ∧ (∃ x, findLaunch t q = some x ∧ x.nextK = l.nextK + 1) ∧ t.mem = s.mem)

/-- R17, R176, R181: what a task starts with; its level is the one that its launch's latest release brought into effect (log 79). -/
def Sys2Proof.Claims.TaskStart : Prop := ∀ (uid : Nat) (l : LaunchState) (i : Inst) (x y z g copy : Nat) (core : Nat × Nat × Nat),
  let t := startTask uid l i x y z g copy core
  let reads := fun (n : Nat) (v : W64) => t.regs.read (.s (BitVec.ofNat 6 n)) = row64 v
  (∀ b, fragOf l.ftab (l.lr.ents.getD i.ent 0) = some b → t.regs.pc = b) ∧ t.regs.cyc = 0 ∧ t.place = .onCore core.1 core.2.1 core.2.2
    ∧ reads 0 l.lr.arg0 ∧ reads 1 l.lr.arg1 ∧ reads 2 (BitVec.ofNat 64 l.lr.data) ∧ reads 3 (BitVec.ofNat 64 l.lr.recAddr)
    ∧ reads 4 (BitVec.ofNat 64 i.release) ∧ reads 5 (match i.deadline with
      | some d => BitVec.ofNat 64 d
      | none => BitVec.allOnes 64)
    ∧ reads 6 (BitVec.ofNat 64 i.k) ∧ reads 7 (BitVec.ofNat 64 ((if l.lr.cls = 1 then l.inEffect else 0) % 4 * 2 ^ 16 + l.lr.sess.getD 0xffff))
    ∧ (∀ d, (∀ n < 8, d ≠ .s (BitVec.ofNat 6 n)) → d ≠ .p 0 → d ≠ .m 0 → t.regs.read d = 0)
    ∧ t.tiles = [] ∧ t.plates = [] ∧ t.lake = { entries := [], ord := false } ∧ t.lq = [] ∧ t.flights = [] ∧ t.memq = []
    ∧ t.mx.acc = [] ∧ t.mx.active.fmt = 0 ∧ t.mx.shadow.fmt = 0 ∧ t.spec.phase = .idle ∧ t.uint.en = false

/-- R174, R192: the least of the ready teams that compete for a cluster starts there, whole, on free cores. That it, or nothing, starts there is log 58, and that the free cores it takes are the lowest is log 27. -/
def Sys2Proof.Claims.LeastStarts : Prop := ∀ (s : State) (c : Nat × Nat) (r : Rival) (p : Pipe) (i : Inst) (l : LaunchState),
  leastOf (rivals s c) = some r → r.seats = some (p, [((0, 0, c) : Seat)]) → findInst s p.inst = some i → findLaunch s i.seqno = some l → i.id = p.inst →
  keyLt r.key (orderKey i 0 p.z p.y) = false →
  l.lr.extX ≤ (freeCores s c).length → setFree s l.lr.part c = true → l.sched = [] → (∀ t ∈ allTasks s, t.uid < s.sched.nextUid) →
  (∀ x ∈ rivals s c, keyLt x.key r.key = false)
    ∧ ∃ t, exec (.teamDispatch c.1 c.2) s = .next t ∧ t.sched.nextUid = s.sched.nextUid + l.lr.extX ∧ t.task = s.task
      ∧ (∀ n < l.lr.extX, ∃ x ∈ t.others, x.uid = s.sched.nextUid + n ∧ x.info.x = n ∧ x.info.y = p.y ∧ x.info.z = p.z ∧ x.info.inst = i.id
          ∧ x.place = .onCore c.1 c.2 ((freeCores s c).getD n 0))
      ∧ (∀ j, findInst t p.inst = some j → ∀ g, (g, p.z, p.y) ∉ j.teamsLeft) ∧ t.mem = s.mem

/-- R17, R174, R176, R192: the dispatch of a team, and the state its tasks start with (logs 27, 58 and 79: the model's choices). -/
def Obligations.Dispatch : Prop := Claims.TaskStart ∧ Claims.LeastStarts

/-- R180, R184, R190, R272: an instance whose tasks have all ended, its open passes closed, completes: STATE 2 with DONEK counted, the counter of dnext, the interrupt; a failed one gets STATE 3 with FAILED and leaves DONEK and the counter alone. The launch goes with its last instance. -/
def Obligations.InstanceEnds : Prop := ∀ (s : State) (id : Nat) (i : Inst) (l : LaunchState), findInst s id = some i → findLaunch s i.seqno = some l →
  i.id = id → allEnded i = true → statusWaits s l = false →
  let p := l.lr.part
  let gone := fun (t : State) => (l.parent = none → findInst t id = none) ∧ (l.parent ≠ none → ∃ j, findInst t id = some j ∧ j.closed = true)
    ∧ (noneLeft l = true → l.parent = none → (∀ j ∈ s.sched.insts, j.seqno = i.seqno → j.id ≠ id → j.closed = true) → findLaunch t i.seqno = none)
  let closed := (List.range l.groups.length).foldl (fun s g => closePasses s.sched.contribs.length s l id g) s
  let counted := writeStatus (modLaunch closed l.lr.seqno fun x => { x with doneK := x.doneK + 1 }) l.recPart l.lr.recAddr (l.doneK + 1) 0 2
  let done := match l.lr.dnext with
    | some c => decCounter counted p c
    | none => counted
  let failed := writeStatus { s with sched := { s.sched with contribs := s.sched.contribs.filter fun c => c.inst != id } } l.recPart l.lr.recAddr l.doneK stFailed 3
  (i.failed = false → ∃ t, exec (.instanceComplete id) s = .next t ∧ gone t ∧ t.mem = done.mem ∧ t.task = done.task
      ∧ (getPart t p).sch.counters = (getPart done p).sch.counters
      ∧ t.boot.interrupts = (if l.lr.irq then done.boot.interrupts ++ [l.lr.vf] else done.boot.interrupts)
      ∧ (noneLeft l = false → ∃ x, findLaunch t i.seqno = some x ∧ x.doneK = l.doneK + 1))
    ∧ (i.failed = true → ∃ t, exec (.instanceFail id) s = .next t ∧ gone t ∧ t.mem = failed.mem ∧ t.task = failed.task
      ∧ (getPart t p).sch.counters = (getPart failed p).sch.counters ∧ t.boot.interrupts = failed.boot.interrupts
      ∧ (noneLeft l = false → ∃ x, findLaunch t i.seqno = some x ∧ x.doneK = l.doneK))

/-- R190, R198, R199, R316: MISS and LATE count once, and are answered by the B hold or by a higher level; a level falls after 32 quiet periods, the hold after 1 ms. That the 32 periods count from the later of the last change and the last LATE or MISS is log 55. -/
def Sys2Proof.Claims.LateAndMiss : Prop := ∀ (s : State) (id q p : Nat) (i : Inst) (l : LaunchState),
  findInst s id = some i → i.id = id → i.seqno = q → findLaunch s q = some l → l.lr.seqno = q → l.lr.part = p → HasPart s p → ringRoom s (ringOf s p false) → id < 2 ^ 63 →
  let now := s.clk.ftime
  let c := (getPart s p).sch
  (∀ d, i.deadline = some d → i.closed = false →
      (i.missRaised = false → d ≤ now → l.lr.cls ≠ 1 → ∃ t, exec (.miss id) s = .next t ∧ EventRaised s t p 5 2 i.k
        ∧ (getPart t p).sch.cntMiss = c.cntMiss + 1 ∧ (∃ j, findInst t id = some j ∧ j.missRaised = true) ∧ t.mem = s.mem ∧ t.task = s.task)
      ∧ ((i.missRaised = true ∨ now < d) → exec (.miss id) s = .next s)
      ∧ (i.lateRaised = false → d < now + l.lr.wct → l.lr.cls = 1 → i.teamsLeft ≠ [] →
        (c.bhold = false → bTeamThere s p = true → ∃ t, exec (.late id) s = .next t ∧ EventRaised s t p 3 2 0
          ∧ (getPart t p).sch.cntLate = c.cntLate + 1 ∧ (getPart t p).sch.bhold = true ∧ (∃ x, findLaunch t q = some x ∧ x.level = l.level))
        ∧ (c.bhold = true → l.level < 3 → l.lastChange = none → ∃ t, exec (.late id) s = .next t ∧ EventRaised s t p 1 2 (l.level + 1)
          ∧ (getPart t p).sch.cntLate = c.cntLate + 1 ∧ (getPart t p).sch.cntLvl = c.cntLvl + 1
          ∧ (∃ x, findLaunch t q = some x ∧ x.level = l.level + 1 ∧ x.lastChange = some now) ∧ t.task = s.task)))
    ∧ (l.lr.cls = 1 → 1 ≤ l.level → max (l.lastChange.getD 0) c.lastS + 32 * (if l.lr.period = 0 then 1000000 else l.lr.period) ≤ now → l.lr.period ≠ 0 →
      ∃ t, exec (.lvlDown q) s = .next t ∧ EventRaised s t p 2 2 (l.level - 1) ∧ (getPart t p).sch.cntLvl = c.cntLvl + 1
        ∧ (∃ x, findLaunch t q = some x ∧ x.level = l.level - 1 ∧ x.lastChange = some now ∧ (l.level = 3 → x.fromL3 = true)) ∧ t.task = s.task)
    ∧ (c.bhold = true → c.lastS + 1000000 ≤ now → ∃ t, exec (.bholdOff p) s = .next t ∧ EventRaised s t p 4 2 0
        ∧ (getPart t p).sch.bhold = false ∧ t.task = s.task ∧ t.mem = s.mem)

/-- R190, R199: an instance that could not be released by its deadline raises MISS all the same, once; one that the launch's level skips raises none and is only passed over; where there is no such launch or no such instance, or its deadline is to come, nothing happens. -/
def Sys2Proof.Claims.HeldMiss : Prop := ∀ (s : State) (q : Nat),
  let i := Instr.miss (2 ^ 63 + q)
  (findLaunch s q = none → exec i s = .next s)
    ∧ ∀ l, findLaunch s q = some l → l.lr.seqno = q →
      (heldNext l = none → exec i s = .next s)
      ∧ ∀ k e, heldNext l = some (k, e) →
        let p := l.lr.part
        (s.clk.ftime < e → exec i s = .next s)
        ∧ (e ≤ s.clk.ftime → skipsK l k = true → ∃ t, exec i s = .next t ∧ findLaunch t q = some { l with missK := k + 1 }
            ∧ t = { s with sched := { s.sched with launches := t.sched.launches } })
        ∧ (e ≤ s.clk.ftime → skipsK l k = false → l.lr.cls ≠ 1 → HasPart s p → ringRoom s (ringOf s p false) → ∃ t, exec i s = .next t ∧ EventRaised s t p 5 2 k
            ∧ (getPart t p).sch.cntMiss = (getPart s p).sch.cntMiss + 1 ∧ (∃ x, findLaunch t q = some x ∧ x.missK = k + 1) ∧ t.mem = s.mem ∧ t.task = s.task)

/-- R190, R198: a MISS of a class S instance, released or not, is counted and raised, and is answered as a LATE is: by the B hold where none is on and B teams are there, else by a higher level where one is left and a period has passed, else by nothing. -/
def Sys2Proof.Claims.ClassSMiss : Prop := ∀ (s : State) (q p k : Nat) (l : LaunchState) (i : Instr),
  findLaunch s q = some l → l.lr.seqno = q → l.lr.part = p → l.lr.cls = 1 → HasPart s p → ringOf s p false < s.rings.length →
  ((ringAt s (ringOf s p false)).waiting.filter fun w => !w.retry).length < 63 →
  ((∃ id x d, i = .miss id ∧ id < 2 ^ 63 ∧ findInst s id = some x ∧ x.id = id ∧ x.seqno = q ∧ x.k = k ∧ x.deadline = some d ∧ x.closed = false
      ∧ x.missRaised = false ∧ d ≤ s.clk.ftime)
    ∨ ∃ d, i = .miss (2 ^ 63 + q) ∧ heldNext l = some (k, d) ∧ skipsK l k = false ∧ d ≤ s.clk.ftime) →
  let c := (getPart s p).sch
  let missed := fun (t : State) => exec i s = .next t ∧ (getPart t p).sch.cntMiss = c.cntMiss + 1 ∧ (getPart t p).sch.lastS = s.clk.ftime ∧ t.mem = s.mem
  (c.bhold = false → bTeamThere s p = true → ∃ t, missed t ∧ TwoEvents s t p 5 2 k 3 2 0 ∧ (getPart t p).sch.bhold = true
      ∧ ∃ x, findLaunch t q = some x ∧ x.level = l.level)
    ∧ ((c.bhold = true ∨ bTeamThere s p = false) → l.level < 3 → l.lastChange.all (fun n => decide (n + periodOf l.lr ≤ s.clk.ftime)) = true →
      ∃ t, missed t ∧ TwoEvents s t p 5 2 k 1 2 (l.level + 1) ∧ (getPart t p).sch.bhold = c.bhold ∧ (getPart t p).sch.cntLvl = c.cntLvl + 1
        ∧ (∃ x, findLaunch t q = some x ∧ x.level = l.level + 1 ∧ x.lastChange = some s.clk.ftime) ∧ t.task = s.task)
    ∧ ((c.bhold = true ∨ bTeamThere s p = false) → (3 ≤ l.level ∨ l.lastChange.all (fun n => decide (n + periodOf l.lr ≤ s.clk.ftime)) = false) →
      ∃ t, missed t ∧ EventRaised s t p 5 2 k ∧ (getPart t p).sch.bhold = c.bhold ∧ (∃ x, findLaunch t q = some x ∧ x.level = l.level) ∧ t.task = s.task)

/-- R190, R198, R199, R316: deadlines missed and threatened, and what answers them. -/
def Obligations.Degradation : Prop := Claims.LateAndMiss ∧ Claims.HeldMiss ∧ Claims.ClassSMiss

/-- R319, R323, R328 to R331: the escalation ladder of a task alone on its core with nothing under way: soft request, halt at the grace expiry, kill, the end of a save, wct, a slot that frees, the restore. -/
def Obligations.Escalation : Prop := ∀ (s : State),
  let t := s.task
  let q := getPart s t.info.part
  let now := s.clk.ftime
  let grace := 1000 * max 1 (q.sch.grace.toNat % 2 ^ 16)
  let kill := 1000 * max (max 1 (q.sch.grace.toNat % 2 ^ 16)) (q.sch.kill.toNat % 2 ^ 20)
  let r := ringOf s t.info.part false
  (onCore t = true → t.time.ladder = .run →
      exec .softRequest s = .next { s with task := { t with time := { t.time with ladder := .asked now, softPending := true } } })
    ∧ (t.time.ladder ≠ .run → exec .softRequest s = .next s)
    ∧ (∀ n d c k, t.place = .saving n d c k → exec .contextSaveDone s = .next { s with task := { t with place := .ready n, time := { t.time with ladder := .off } } })
    ∧ (∀ n a d c k, t.place = .onCore d c k → t.time.ladder = .asked a → a + grace ≤ now → s.sched.safePt = false → t.freeze = [] → grouped t = false →
        groupOfTask s = [t.uid] → Bare s → slotFor s t = some n →
        ∃ u, exec .graceExpire s = .next u ∧ u.task.place = .saving n d c k ∧ u.task.time.ladder = .halting a ∧ u.task.regs = t.regs ∧ u.task.plates = t.plates)
    ∧ (∀ a, (t.time.ladder = .asked a ∨ t.time.ladder = .halting a) → a + kill ≤ now → onCore t = true → groupOfTask s = [t.uid] → t.egress = [] → opsOf s t.uid = [] → t.memq = [] → ringRoom s r →
        ∃ u, exec .killExpire s = .next u ∧ u.task.place = .ended false ∧ u.task.plates = [] ∧ u.task.tiles = [] ∧ u.task.regs = Regs.zero
          ∧ newest u r 32 8 = 0x41 ∧ newest u r 40 8 = 0)
    ∧ (onCore t = true → t.info.wct < t.time.wctUsed → grouped t = false → groupOfTask s = [t.uid] → t.freeze = [] → t.pending = [] → Bare s → ringRoom s r →
        ∃ u, exec .wctExceeded s = .next u ∧ EndsWith s u { cause := .wctExceeded })
    ∧ (∀ n c, onCore t = true → awaitsChild s t.uid = false → t.freeze = [.faultWait c] → c.cause = .pageFault → (∃ x, c.loc = some x ∧ x < 2 ^ 16) → groupOfTask s = [t.uid] →
        Bare s → slotFor s t = some n → ringOf s t.info.part true < s.rings.length →
        ∃ u, exec .frameSlotFree s = .next u ∧ u.task.place = .onRecord n ∧ newest u (ringOf s t.info.part true) 16 16 = n % 2 ^ 16
          ∧ newest u (ringOf s t.info.part true) 32 8 = 0x10)
    ∧ (∀ n d c k, t.place = .ready n → groupOfTask s = [t.uid] → (freeCoresFor s (fun u => sameTeam u.info t.info) (d, c)).contains k = true → k < 8 → mayReturn s t (d, c) = true →
        (inPool s (d, c) = false ∨ ∃ x ∈ rivals s (d, c), x.key = taskKey s t ∧ x.seats = none) →
        setFree s t.info.part (d, c) = true → (∀ x ∈ rivals s (d, c), keyLt x.key (taskKey s t) = false) →
        ∃ u, exec (.taskRestore d c k) s = .next u ∧ u.task.place = .onCore d c k ∧ u.task.time.ladder = .run
          ∧ (frameCells s t = t.frame.kept → u.task.regs = t.regs ∧ u.task.plates = t.plates ∧ u.task.tiles = t.tiles ∧ u.task.ports = t.ports))

/-! ### Fault rings, errors, resets -/

/-- R315, R317, R318: the oldest record of the only ring with records is written at TAIL with its PHASE bit, TAIL moves on and the phase turns at the end of the ring; WEIGHT_0 is reported once for a record; FLT_RDROP clears the drop counter. -/
def Sys2Proof.Claims.RingWrites : Prop := ∀ (s : State) (r : Nat), r < 65 → r < s.rings.length →
  let g := ringAt s r
  let size := 2 ^ (g.cfg.toNat / 2 % 8 + 6)
  let i := g.tail % size
  (∀ x rest, g.waiting = x :: rest → (∀ q, q ≠ r → (ringAt s q).waiting = []) → g.cfg.getLsbD 0 = true → (g.tail + 1) % size ≠ g.head % size →
      (r < 2 ∨ heldUnits (getPart s (r - 1)) 10 0 ≠ 0) → frameOk (getPart s (r - 1)) (g.base * 64) = true → frameOk (getPart s (r - 1)) (g.base * 64 + 64 * i) = true →
      physWaits s (g.base * 64 + 64 * i) 64 = false →
      ∃ u, exec (.ringRecordWrite r) s = .next u
        ∧ u.mem = (writePhys s (r - 1) (g.base * 64 + 64 * i) 64 (x.words.toNat + (if g.phase then 2 ^ 15 else 0))).mem
        ∧ (ringAt u r).waiting = rest ∧ (ringAt u r).tail = (i + 1) % size ∧ (ringAt u r).phase = (if i + 1 = size then !g.phase else g.phase)
        ∧ (∀ q, q ≠ r → ringAt u q = ringAt s q) ∧ u.boot.interrupts = (if g.cfg.getLsbD 8 then s.boot.interrupts ++ [r - 1] else s.boot.interrupts))
    ∧ (g.waiting = [] → exec (.ringRecordWrite r) s = .next s)
    ∧ (2 ≤ r → g.cfg.toNat / 2 ^ 12 % 16 = 0 → (∃ x ∈ g.waiting, x.warned = false ∧ x.at_ + 1000000 < s.clk.ftime) → ringRoom s (ringOf s (r - 1) false) →
      ∃ u, exec (.weight0 r) s = .next u ∧ EventRaised s u (r - 1) 0x12 3 g.waiting.length ∧ (∀ x ∈ (ringAt u r).waiting, x.warned = true)
        ∧ u.mem = s.mem ∧ u.task = s.task)
    ∧ ∃ u, exec (.fltRdrop r) s = .next u ∧ OnlyRing s u r ∧ ringAt u r = { g with drop := 0 }

/-- R312, R324, R388: FLT_RESUME makes the task of the slot ready with FLT_RESVAL in sysr, and in its frame where that lies in the partition's blocks (R6), or ends it with KILLED; SCH_PREEMPT asks an instance's teams; SCH_CANCEL stops a launch's releases. That a launch cancelled before its first release binds no counter any more, and that its spawnd parent then resumes with FAILED, are the model's choices (log 80). -/
def Sys2Proof.Claims.ResumeAndCancel : Prop := ∀ (s : State) (p : Nat) (v : W64),
  let t := s.task
  (∀ n, t.info.part = p → t.place = .onRecord n → v.toNat = n → n < 2 ^ 16 → groupOfTask s = [t.uid] → NoBound s →
      ∃ u, exec (.fltResume p v) s = .next u ∧ u.task = { t with place := .ready n, time := { t.time with sysr := (getPart s p).sch.resval } }
        ∧ u.mem = (if ownerOf s t.frame.sysrAt = some p then (writePhys s p t.frame.sysrAt 8 (getPart s p).sch.resval.toNat).mem else s.mem))
    ∧ (∀ n, t.info.part = p → t.place = .onRecord n → v.toNat = n + 2 ^ 16 → n < 2 ^ 16 → groupOfTask s = [t.uid] → Bare s → t.egress = [] → ringRoom s (ringOf s p false) →
      ∃ u, exec (.fltResumeEnd p v) s = .next u ∧ u.task.place = .ended false ∧ u.task.regs = Regs.zero
        ∧ newest u (ringOf s p false) 32 8 = 0x41 ∧ newest u (ringOf s p false) 40 8 = 0)
    ∧ ((∀ x ∈ allTasks s, x.info.part = p → ∀ n, x.place ≠ .onRecord n) → exec (.fltResume p v) s = .next s ∧ exec (.fltResumeEnd p v) s = .next s)
    ∧ (∃ u, exec (.schPreempt p v) s = .next u ∧ Asks s u (fun x => x.info.part == p && x.info.seqno == v.toNat) ∧ u.mem = s.mem ∧ u.sched = s.sched)
    ∧ (∀ l, findLaunch s v.toNat = some l → l.lr.part ≠ p → exec (.schCancel p v) s = .next s)
    ∧ ∀ l, findLaunch s v.toNat = some l → l.lr.part = p → p < s.parts.length →
      let bound := fun (u : State) => (∀ k, k ≠ p → getPart u k = getPart s k)
        ∧ (getPart u p).sch.bound = (getPart s p).sch.bound.filter (fun b => b.2 != v.toNat) ∧ (getPart u p).sch.counters = (getPart s p).sch.counters
      ((∃ i ∈ s.sched.insts, i.seqno = v.toNat ∧ i.closed = false) → ∃ u, exec (.schCancel p v) s = .next u ∧ findLaunch u v.toNat = some { l with cancelled := true }
          ∧ u.sched.insts = s.sched.insts ∧ bound u ∧ u.task = s.task ∧ u.mem = s.mem)
        ∧ ((∀ i ∈ s.sched.insts, i.seqno ≠ v.toNat) → (l.parent = none → ∃ u, exec (.schCancel p v) s = .next u ∧ findLaunch u v.toNat = none ∧ bound u
            ∧ u.task = s.task ∧ u.mem = s.mem)
          ∧ ∀ q n, l.parent = some (s.task.uid, q) → s.task.place = .onChild n → groupOfTask s = [s.task.uid] →
            (∀ m ∈ s.sched.launches, m.lr.seqno ≠ l.lr.seqno → ∀ x, m.parent = some x → x.1 ≠ s.task.uid) →
            ∃ u, exec (.schCancel p v) s = .next u ∧ findLaunch u v.toNat = none ∧ u.task.place = .ready n
              ∧ u.task.flights = (fillResult s.task q (row64 (spawnStatus l.lr.seqno stFailed)) false).flights ∧ u.mem = s.mem)

/-- R314, R316, R388: what a ring, FLT_RESUME, SCH_PREEMPT and SCH_CANCEL do. -/
def Obligations.RingsAndResume : Prop := Claims.RingWrites ∧ Claims.ResumeAndCancel

/-- R244, R332, R333: an uncorrectable error in a replica or a clean copy drops it; in a dirty copy or in the home it poisons the row, once, with a charge; in the scratchpad it poisons that row; MACHINE_CHECK waits for the task's next boundary. -/
def Sys2Proof.Claims.StoredErrors : Prop := ∀ (s : State) (row : Nat),
  let p := (ownerOf s (row * 128)).getD 0
  (∃ u, exec (.uncorrectableError (.replica row)) s = .next u ∧ OnlySide s u ∧ u.side = { s.side with slices := u.side.slices }
      ∧ ∀ l, l ∈ u.side.slices ↔ l ∈ s.side.slices ∧ (l.row ≠ row ∨ l.die = homeDie s (row * 128)))
    ∧ (∃ u, exec (.uncorrectableError (.cleanCopy row)) s = .next u ∧ OnlySide s u ∧ u.side = { s.side with l1 := u.side.l1, slices := u.side.slices }
      ∧ (∀ l, l ∈ u.side.l1 ↔ l ∈ s.side.l1 ∧ (l.row ≠ row ∨ l.dirty = true)) ∧ ∀ l, l ∈ u.side.slices ↔ l ∈ s.side.slices ∧ l.row ≠ row)
    ∧ (poisonedRow s row = true → exec (.uncorrectableError (.home row)) s = .next s)
    ∧ (poisonedRow s row = false → ringRoom s (ringOf s p false) →
      (∃ u, exec (.uncorrectableError (.home row)) s = .next u ∧ (∀ r, poisonedRow u r = (poisonedRow s r || r == row)) ∧ Charged s u p 1 (row * 128)
        ∧ u.mem = s.mem ∧ u.task = s.task)
      ∧ ((∃ l ∈ s.side.l1, l.row = row ∧ l.dirty = true) → ∃ u, exec (.uncorrectableError (.dirtyL1 row)) s = .next u ∧ poisonedRow u row = true
        ∧ (∀ l ∈ u.side.l1, l.row = row → l.dirty = false) ∧ (dirOf u row).owner = none ∧ Charged s u p 1 (row * 128) ∧ u.mem = s.mem ∧ u.task = s.task))
    ∧ (∀ k r, k < 128 → r < 128 → (∀ x ∈ s.task.stashRows, x.row ≠ 128 * k + r) →
      ∃ u, exec (.uncorrectableError (.scratch k r)) s = .next u ∧ OnlyTask s u ∧ u.task.platePoison.contains (128 * k + r) = true ∧ u.task.plates = (putPlate s.task (128 * k + r)
        (sget s.task.plates (128 * k + r)) true).plates ∧ u.task.regs = s.task.regs)
    ∧ (onCore s.task = true → (∀ c ∈ s.task.pending, c.cause ≠ .machineCheck) →
      ∃ u, exec .machineCheck s = .next u ∧ OnlyTask s u ∧ u.task = { s.task with pending := s.task.pending ++ [{ cause := .machineCheck, at_ := some s.clk.ftime }] })
    ∧ (onCore s.task = false → exec .machineCheck s = .next s)

/-- R336: an orderly die reset asks the die's teams, and class F instances that can be replayed leave for the partner; once the die is empty its caches go home (STATE 2); a forced one takes tasks and caches at once: a task ends with MACHINE_CHECK, or, where its pair mirrors and its image can replay it, waits for its replay; the end keeps the die and raises 0x0022, for a lost die too, whether or not its memory has been taken over (R415). A write while STATE is 1 or 2 leaves the state as it is, and an isolated die whose reset had to wait for another one is reset then (log 54). -/
def Sys2Proof.Claims.DieResets : Prop := ∀ (s : State) (d : Nat),
  let st := s.sched.dierst.toNat / 16 % 4
  let busy := st = 1 ∨ st = 2
  let x := s.sched.dierst.toNat % 8
  let noCaches := fun (u : State) (d : Nat) => (∀ l ∈ u.side.l1, l.core / 64 ≠ d) ∧ (∀ l ∈ u.side.slices, l.die ≠ d)
    ∧ ∀ e ∈ u.side.dir, e.dies &&& dieBit d = 0 ∧ ∀ c, e.owner = some c → c / 64 ≠ d
  ((8 ≤ d ∨ busy) → exec (.dierstOrderly d) s = .next s ∧ exec (.dierstForced d) s = .next s)
    ∧ (d < 8 → ¬ busy → (pairAt s (d / 2)).state ≠ 0 →
      (∃ u, exec (.dierstOrderly d) s = .next u ∧ u.sched = { s.sched with dierst := BitVec.ofNat 64 (16 + d) }
        ∧ Asks s u (fun t => dieOf t == d && onCore t) ∧ u.mem = s.mem ∧ u.side = s.side)
      ∧ (tasksOn s d = [] → ∃ u, exec (.dierstForced d) s = .next u ∧ u.sched = { s.sched with dierst := BitVec.ofNat 64 (32 + 8 + d) }
        ∧ noCaches u d ∧ u.task = s.task ∧ u.mem = s.mem)
      ∧ (let r := ringOf s s.task.info.part false
        ∀ c k, s.task.place = .onCore d c k → Bare s → groupOfTask s = [s.task.uid] → (∀ t ∈ s.others, t.uid ≠ s.task.uid ∧ ∀ x, coreOf t = some x → x.1 ≠ d) →
        ringRoom (loseCaches s d) r → ∃ u, exec (.dierstForced d) s = .next u ∧ u.sched.dierst = BitVec.ofNat 64 (32 + 8 + d) ∧ noCaches u d
          ∧ u.task.place = .ended false ∧ (∀ i, findInst s s.task.info.inst = some i → ∃ j, findInst u s.task.info.inst = some j ∧ j.failed = true)
          ∧ newest u r 32 8 = causeCode .machineCheck ∧ newest u r 40 8 = 0 ∧ u.mem = s.mem))
    ∧ (d < 8 → ¬ busy → (pairAt s (d / 2)).state = 0 → s.mir.pairs.length = 4 →
      ((∀ t ∈ allTasks s, onCore t = true → dieOf t = d → canReplay s t = false) → ∃ u, exec (.dierstOrderly d) s = .next u ∧ u.sched.dierst = BitVec.ofNat 64 (16 + d)
        ∧ (pairAt u (d / 2)).state = 1 ∧ (pairAt u (d / 2)).lost = d ∧ Asks s u (fun t => dieOf t == d && onCore t) ∧ u.mem = s.mem)
      ∧ (∀ c k, s.task.place = .onCore d c k → canReplay s s.task = true → Bare s → (∀ t ∈ s.others, t.uid ≠ s.task.uid ∧ dieOf t ≠ d) →
        (∃ u, exec (.dierstOrderly d) s = .next u ∧ u.sched.dierst = BitVec.ofNat 64 (16 + d) ∧ u.task.place = .replay d c k ∧ u.task.regs = s.task.regs ∧ u.mem = s.mem)
        ∧ ((∀ t ∈ s.others, ∀ x, coreOf t = some x → x.1 ≠ d) → ∃ u, exec (.dierstForced d) s = .next u ∧ u.sched.dierst = BitVec.ofNat 64 (32 + 8 + d) ∧ noCaches u d
          ∧ u.task.place = .replay d c k ∧ u.task.regs = s.task.regs ∧ (pairAt u (d / 2)).isolated = some d ∧ u.mem = s.mem)))
    ∧ (let waits := fun (k : Nat) => (pairAt s (k / 2)).isolated = some k ∧ (pairAt s (k / 2)).taken = true
      ¬ busy → ((∀ k < 8, ¬ waits k) → exec .dieReset s = .next s)
        ∧ ∀ k < 8, waits k → (∀ j < k, ¬ waits j) → exec .dieReset s = .next { s with sched := { s.sched with dierst := BitVec.ofNat 64 (32 + 8 + k) } })
    ∧ (st = 1 → dieEmpty s x = false → exec .dieReset s = .next s)
    ∧ (st = 1 → dieEmpty s x = true → ∃ u, exec .dieReset s = .next u ∧ u.sched = { s.sched with dierst := BitVec.ofNat 64 (32 + x) } ∧ noCaches u x ∧ u.task = s.task
      ∧ ((∀ l ∈ s.side.l1, l.core / 64 = x → l.dirty = false) → u.mem = s.mem))
    ∧ (st = 2 → ringRoom s (ringOf s 0 false) →
      let force := if s.sched.dierst.getLsbD 3 then 1 else 0
      ∃ u, exec .dieReset s = .next u ∧ u.sched.dierst = BitVec.ofNat 64 (48 + 8 * force + x) ∧ EventRaised s u 0 0x22 2 (x + 256 * force)
        ∧ (let p := pairAt s (x / 2)
          s.mir.pairs.length = 4 → (pairAt u (x / 2)).isolated = if p.isolated = some x ∧ p.taken = true then none else p.isolated)
        ∧ u.task = s.task ∧ u.mem = s.mem)

/-- R337, R338: PAR_DLOG; a stop asks every running team and writes STOPPING, resumes with ADDR = 0, and is complete when nothing of the partition is on a core. -/
def Sys2Proof.Claims.StopAndLog : Prop := ∀ (s : State) (p : Nat) (v : W64), HasPart s p →
  let q := (getPart s p).sch
  let addr := v.toNat / 2 ^ 3 % 2 ^ 49 * 8
  (v.getLsbD 0 = false → ∃ u, exec (.parDlog p v) s = .next u ∧ OnlyPart s u p
      ∧ (getPart u p).sch = { q with dlog := BitVec.ofNat 64 (v.toNat / 2 ^ 12 % 2 ^ 40 * 2 ^ 12) })
    ∧ (v.getLsbD 0 = true → ∃ u, exec (.parDlog p v) s = .next u ∧ (getPart u p).sch.dirtyFrames = []
      ∧ (getPart u p).sch.dlog = BitVec.ofNat 64 (v.toNat / 2 ^ 12 % 2 ^ 40 * 2 ^ 12 + 1))
    ∧ (addr = 0 → q.stopping ≠ 3 → ∀ i ∈ [Instr.parStop p v, Instr.parStopResume p], ∃ u, exec i s = .next u ∧ OnlyPart s u p
      ∧ (getPart u p).sch = { q with stopping := 0 })
    ∧ (addr ≠ 0 → isDevice addr = true → Still s → (q.stopping = 0 ∨ q.stopping = 2) → ∃ u, exec (.parStop p v) s = .next u
      ∧ (getPart u p).sch.stopping = 1 ∧ (getPart u p).sch.stop = BitVec.ofNat 64 addr ∧ (getPart u p).sch.anyKilled = false
      ∧ WritesBytes s u addr (bytesOf 8 1) ∧ Asks s u (fun t => t.info.part == p))
    ∧ (q.stopping = 1 → quiet s p = true → q.dirtyFrames = [] → isDevice q.stop.toNat = true → Still s → ringRoom s (ringOf s p false) →
      ∃ u, exec (.stopped p) s = .next u ∧ (getPart u p).sch.stopping = 2 ∧ WritesBytes s u q.stop.toNat (bytesOf 8 (if q.anyKilled then 3 else 2))
        ∧ EventRaised s u p 0x21 2 0 ∧ u.boot.interrupts = s.boot.interrupts ++ [0] ∧ u.task = s.task)
    ∧ (q.stopping = 0 → exec (.stopped p) s = .next s)

/-- R244, R332, R333, R336 to R338: errors in stored data, die resets, the dirty log and the stop of a partition. -/
def Obligations.ErrorsAndResets : Prop := Claims.StoredErrors ∧ Claims.DieResets ∧ Claims.StopAndLog

/-! ### The registers of memory -/

/-- R212, R219: a commit of the staged heap is accepted or refused as a whole; PAR_PTROOT and PAR_TLBINV begin an invalidation, ignored while one is under way; at its end no translation that it covers is left. What a write of PAR_PTROOT does while one is under way is the model's choice (log 82). -/
def Sys2Proof.Claims.Translations : Prop := ∀ (s : State) (p : Nat) (v : W64), HasPart s p →
  let q := (getPart s p).mem
  let base := q.hbaseSt.toNat / 2 ^ 21 % 2 ^ 36
  let lim := q.hlimSt.toNat / 2 ^ 21 % 2 ^ 36
  let all := q.tlbinv.getLsbD 63 = true
  let lo := q.tlbinv.toNat / 2 ^ 12 % 2 ^ 45 * 4096
  let n := if q.tlbinv.toNat / 2 % 2 ^ 11 = 0 then 2048 else q.tlbinv.toNat / 2 % 2 ^ 11
  ((lim < base ∨ v.toNat / 2 ^ 13 % 4 = 3 ∨ 5 < v.toNat / 2 ^ 7 % 2 ^ 6 ∨ 0x1ffffffffe00000 < lim * 2 ^ 21
        ∨ (base < lim ∧ (v.toNat / 2 ^ 15 % 2 ^ 7 = 0 ∨ (getPart s p).res.keys.contains (v.toNat / 2 ^ 15 % 2 ^ 7) = false))) →
      ∃ u, exec (.parHattr p v) s = .next u ∧ OnlyPart s u p ∧ (getPart u p).mem = { q with herr := true })
    ∧ (heapOk (getPart s p) v = true → tasksOf s p = [] → let w := passWaits s p fun _ => true
      ∃ u, exec (.parHattr p v) s = .next u ∧ (∀ k, k ≠ p → getPart u k = getPart s k)
      ∧ (getPart u p).mem = { q with
          hbase := q.hbaseSt, hlim := q.hlimSt, hoff := q.hoffSt, hattr := v &&& 0x3fff83, herr := false
          tlbinv := if w then 0x8000000000000000 else q.tlbinv, tlbBusy := q.tlbBusy || w }
      ∧ (∀ e, e ∈ u.side.tlb ↔ e ∈ s.side.tlb ∧ e.part ≠ p) ∧ u.mem = s.mem ∧ u.task = s.task)
    ∧ (∃ u, exec (.parPtroot p v) s = .next u ∧ OnlyPart s u p ∧ (getPart u p).mem.tlbBusy = true ∧ (getPart u p).mem.tlbinv.getLsbD 63 = true
      ∧ (getPart u p).mem.ptroot = BitVec.ofNat 64 (v.toNat / 2 ^ 13 % 2 ^ 39 * 2 ^ 13 + v.toNat % 2))
    ∧ (q.tlbBusy = false → ∃ u, exec (.parTlbinv p v) s = .next u ∧ OnlyPart s u p ∧ (getPart u p).mem = { q with tlbinv := v &&& 0x81fffffffffffffe, tlbBusy := true })
    ∧ (q.tlbBusy = true → ∃ u, exec (.parTlbinv p v) s = .next u ∧ OnlyPart s u p ∧ getPart u p = getPart s p)
    ∧ (q.tlbBusy = false → exec (.tlbinvDone p) s = .next s)
    ∧ (q.tlbBusy = true → tasksOf s p = [] → passWaits s p (vaHit s p q.tlbinv) = true → exec (.tlbinvDone p) s = .next s)
    ∧ (q.tlbBusy = true → tasksOf s p = [] → passWaits s p (vaHit s p q.tlbinv) = false → ∃ u, exec (.tlbinvDone p) s = .next u ∧ (getPart u p).mem = { q with tlbBusy := false }
      ∧ (∀ e, e ∈ u.side.tlb ↔ e ∈ s.side.tlb ∧ ¬ (e.part = p ∧ (all ∨ (e.vbase < lo + n * 4096 ∧ lo < e.vbase + e.size)))) ∧ u.mem = s.mem ∧ u.task = s.task)

/-- R237, R239: the region commands: query, PLACE where the region stands or by an exchange, UNPLACE, DEGPIN, DEGUNPIN; a VF's command for a region that is not its partition's is refused, the PF may address any region; a completed exchange swaps the homes. -/
def Sys2Proof.Claims.RegionCommands : Prop := ∀ (s : State) (p : Nat) (v : W64), HasPart s p →
  let n := v.toNat % 2 ^ 18
  let op := v.toNat / 2 ^ 60
  let r := regionOf s n
  let w := (ownerOf s (n * 2 ^ 21)).getD p
  let plain := v.toNat / 2 ^ 57 % 2 ^ 3 = 0 ∧ v.toNat / 2 ^ 18 % 2 ^ 34 = 0
  let good := plain ∧ (p = 0 ∨ ownerOf s (n * 2 ^ 21) = some p) ∧ HasPart s w
  let answers := fun (i : Instr) (x : RegionState) => ∃ u, exec i s = .next u ∧ regionOf u n = x ∧ (∀ k, k ≠ n → regionOf u k = regionOf s k)
    ∧ (getPart u p).mem.rgnstat = rgnStat x 2 ∧ u.mem = s.mem ∧ u.task = s.task
  let refused := fun (i : Instr) => ∃ u, exec i s = .next u ∧ OnlyPart s u p ∧ (getPart u p).mem = { (getPart s p).mem with rgnstat := 3 }
  (getPart s p).mem.rgnstat.toNat % 4 ≠ 1 →
    (good → (op = 0 → answers (.rgnQuery p v) r)
      ∧ (op = 1 → (plainBlocks (getPart s w)).contains (n / 1024) = false → refused (.place p v))
      ∧ (op = 1 → (plainBlocks (getPart s w)).contains (n / 1024) = true → r.home = v.toNat / 2 ^ 54 % 8 → answers (.place p v) { r with ppin := true })
      ∧ (op = 1 → (plainBlocks (getPart s w)).contains (n / 1024) = true → r.home ≠ v.toNat / 2 ^ 54 % 8 → (getPart s w).mem.exchange = none → (getPart s p).mem.exchange = none →
        (∀ m, partnerRegion s (getPart s w) (v.toNat / 2 ^ 54 % 8) n = some m →
          ∃ u, exec (.place p v) s = .next u ∧ (getPart u p).mem.exchange = some (n, m, true) ∧ (getPart u p).mem.rgnstat.toNat % 4 = 1)
        ∧ (partnerRegion s (getPart s w) (v.toNat / 2 ^ 54 % 8) n = none → refused (.place p v)))
      ∧ (op = 2 → answers (.unplace p v) { r with ppin := false })
      ∧ (op = 3 → r.deg = v.toNat / 2 ^ 52 % 4 → answers (.degpin p v) { r with dpin := true })
      ∧ (op = 3 → r.deg ≠ v.toNat / 2 ^ 52 % 4 → answers (.degpin p v) { r with dpin := true, deg := v.toNat / 2 ^ 52 % 4, epochs := 0 })
      ∧ (op = 4 → answers (.degunpin p v) { r with dpin := false }))
    ∧ ((¬ plain ∨ (p ≠ 0 ∧ ownerOf s (n * 2 ^ 21) ≠ some p)) →
      (op = 0 → refused (.rgnQuery p v)) ∧ (op = 1 → refused (.place p v)) ∧ (op = 2 → refused (.unplace p v)) ∧ (op = 3 → refused (.degpin p v))
        ∧ (op = 4 → refused (.degunpin p v)))
    ∧ ∀ a b byPlace, (getPart s p).mem.exchange = some (a, b, byPlace) → a ≠ b →
      ∃ u, exec (.exchangeComplete p) s = .next u ∧ (regionOf u a).home = (regionOf s b).home ∧ (regionOf u b).home = (regionOf s a).home
        ∧ (∀ x ∈ [a, b], (regionOf u x).deg = if (regionOf s x).dpin then (regionOf s x).deg else 0) ∧ (∀ k, k ≠ a → k ≠ b → regionOf u k = regionOf s k)
        ∧ (getPart u p).mem.exchange = none ∧ u.mem = s.mem ∧ u.task = s.task

/-- R232, R236, R240, R241: an epoch's end moves each degree by its counters and clears them; a way map that leaves two ways open is taken; a frame's start commits or refuses the staged slot tables; a translation that is complete lets its core go on, unless what it stands for is still short. -/
def Sys2Proof.Claims.EpochsAndSlots : Prop := ∀ (s : State),
  (s.clk.ftime / 64000 ≤ s.side.epoch → exec .epochEnd s = .next s)
    ∧ (s.side.epoch < s.clk.ftime / 64000 → (s.side.regions.map RegionState.num).Nodup →
      (∀ r ∈ s.side.regions, r.ppin = true ∨ r.accDie.sum < 512) → ∃ u, exec .epochEnd s = .next u ∧ u.side.epoch = s.clk.ftime / 64000 ∧ u.mem = s.mem ∧ u.task = s.task
        ∧ ∀ r ∈ s.side.regions, let x := regionOf u r.num
          x.hits = 0 ∧ x.missr = 0 ∧ x.coll = 0 ∧ x.accDie = List.replicate 9 0 ∧ x.home = r.home ∧ x.ppin = r.ppin ∧ x.dpin = r.dpin
            ∧ (r.dpin = true ∨ r.epochs < 4 → x.deg = r.deg)
            ∧ (r.dpin = false → 4 ≤ r.epochs → r.deg < 3 → 64 ≤ r.missr → 16 * r.coll ≤ r.missr → x.deg = r.deg + 1)
            ∧ (r.dpin = false → 4 ≤ r.epochs → ¬ (r.deg < 3 ∧ 64 ≤ r.missr ∧ 16 * r.coll ≤ r.missr) → 0 < r.deg →
              (4 * r.coll > r.hits ∨ r.hits + r.missr < 8) → x.deg = r.deg - 1))
    ∧ (∀ (d : Nat) (v : BitVec 128), let opens := ((List.range 16).filter fun k => v.getLsbD (8 * k + 7) = false).length
      (d < 8 → s.side.ways.length = 8 → 2 ≤ opens → ∃ u, exec (.parWaymap d v) s = .next u ∧ OnlySide s u
          ∧ (∀ k < 128, (nth u.side.ways d 0).getLsbD k = (v.getLsbD k && k % 8 != 6)) ∧ ∀ e, e ≠ d → nth u.side.ways e 0 = nth s.side.ways e 0)
        ∧ ((8 ≤ d ∨ opens < 2) → exec (.parWaymap d v) s = .next s))
    ∧ (∀ k, (8 ≤ k → exec (.hbmSlotcmt k) s = .next s)
      ∧ (k < 8 → s.side.hbmCommit.length = 8 → ∃ u, exec (.hbmSlotcmt k) s = .next u ∧ OnlySide s u ∧ u.side = { s.side with hbmCommit := u.side.hbmCommit }
        ∧ nth u.side.hbmCommit k false = true ∧ ∀ j, j ≠ k → nth u.side.hbmCommit j false = nth s.side.hbmCommit j false))
    ∧ (s.clk.ftime / 1280 ≤ s.side.hbmFrame → exec .hbmFrameStart s = .next s)
    ∧ (s.side.hbmFrame < s.clk.ftime / 1280 → s.side.hbmCommit.length = 8 → s.side.hbmActive.length = 8 → s.side.hbmErr.length = 8 →
      ∃ u, exec .hbmFrameStart s = .next u ∧ u = { s with side := u.side, parts := u.parts } ∧ u.side.hbmFrame = s.clk.ftime / 1280
        ∧ (∀ p < s.parts.length, let q := getPart s p
          getPart u p = { q with mem := { q.mem with beRows := 0 }, res := { q.res with lnkF := List.replicate 40 0 } }) ∧ ∀ k < 8,
        nth u.side.hbmCommit k false = false
          ∧ (nth s.side.hbmCommit k false = true → slotsOk s (nth s.side.hbmStaged k []) = true → nth u.side.hbmActive k [] = nth s.side.hbmStaged k [] ∧ nth u.side.hbmErr k false = false)
          ∧ (nth s.side.hbmCommit k false = true → slotsOk s (nth s.side.hbmStaged k []) = false → nth u.side.hbmActive k [] = nth s.side.hbmActive k [] ∧ nth u.side.hbmErr k false = true)
          ∧ (nth s.side.hbmCommit k false = false → nth u.side.hbmActive k [] = nth s.side.hbmActive k [] ∧ nth u.side.hbmErr k false = nth s.side.hbmErr k false))
    ∧ (stallOver s = true → ∃ u, exec .translationComplete s = .next u ∧ OnlyTask s u ∧ u.task = { s.task with freeze := s.task.freeze.filter (· != .stall) })
    ∧ (stallOver s = false → exec .translationComplete s = .next s)

/-- R212, R219, R232, R236, R237, R239 to R241: the registers of memory and what the device does on their word. -/
def Obligations.MemoryRegisters : Prop := Claims.Translations ∧ Claims.RegionCommands ∧ Claims.EpochsAndSlots

/-- R230, R231: the row of a line is PA[20:7] with PA[30:27] xored into its upper four bits, its bank is PA[38:21] mod 3, its set 16,384 × bank + row, one of 49,152; the lines of an aligned 128 KiB have one colour and stand in sets of their own, and frames of different colours share no set. -/
def Obligations.SliceIndex : Prop := ∀ a b : Nat, a < 2 ^ 39 → b < 2 ^ 39 →
  sliceSet a < 49152 ∧ colour a < 16
    ∧ (a / 2 ^ 17 = b / 2 ^ 17 → colour a = colour b ∧ (sliceSet a = sliceSet b ↔ a / 128 = b / 128))
    ∧ (colour a ≠ colour b → sliceSet a ≠ sliceSet b)
    ∧ (∀ k < 14, (sliceRow a).testBit k = (a.testBit (7 + k) != (decide (10 ≤ k) && a.testBit (17 + k))))
    ∧ sliceSet a = 16384 * (a / 2 ^ 21 % 3) + sliceRow a ∧ colour a = (a / 2 ^ 17 % 16) ^^^ (a / 2 ^ 27 % 16)

/-! ### Power, links, heat, the register maps -/

/-- R374, R381, R382, R403: an interval hands out each partition's tokens; a partition whose tokens for general work are spent waits for its turn at the pool, where the partitions draw 16 tokens at a time in turns of WEIGHT draws, one of WEIGHT 0 only while no other waits, or, with nothing left to draw, stands still, class F only without reserved ones too (when that is, and what the meters leave, is the outside's word: log 7); PWR_TOKEN and LNK_VCW are taken while the sums stay within the budget; heat lowers the budget and never raises it, and the trip takes the power of every die but Mordant's, whose own values stay (log 62). -/
def Sys2Proof.Claims.Power : Prop := ∀ (s : State) (p : Nat) (v : W64),
  let issue := fun (q : Part) => q.res.pwrToken.toNat % 2 ^ 20
  let others := (s.parts.filter fun q => q.id != p).map issue
  (s.clk.ftime / 1000000 ≤ s.boot.interval → exec .powerInterval s = .next s)
    ∧ (s.boot.interval < s.clk.ftime / 1000000 → ∃ u, exec .powerInterval s = .next u ∧ u.boot.interval = s.clk.ftime / 1000000
      ∧ u.boot.poolWait = [] ∧ u.mem = s.mem ∧ u.task = s.task ∧ u.sched = s.sched ∧ ∀ k < s.parts.length, (getPart u k).res.frozen = false
        ∧ (getPart u k).res.pwrStat.toNat / 2 ^ 32 = (getPart s k).res.pwrStat.toNat / 2 ^ 32
        ∧ ((s.parts.map issue).sum ≤ s.boot.pwrBudget → (getPart u k).res.pwrStat.toNat % 2 ^ 20 = issue (getPart s k)))
    ∧ (p < s.parts.length → let r := (getPart s p).res
      let most := min (r.pwrStat.toNat % 2 ^ 20) (r.pwrToken.toNat / 2 ^ 20 % 2 ^ 20)
      let draws := r.frozen = false ∧ s.boot.pool ≠ 0
      let same := fun (u : State) => (∀ k, k ≠ p → getPart u k = getPart s k) ∧ u.mem = s.mem ∧ u.task = s.task ∧ u.others = s.others
      (draws → ∃ u left, exec (.powerThrottle p) s = .next u ∧ left ≤ most ∧ (getPart u p).res.frozen = false
        ∧ (getPart u p).res.pwrStat.toNat = r.pwrStat.toNat / 2 ^ 32 * 2 ^ 32 + left
        ∧ u.boot = { s.boot with poolWait := p :: s.boot.poolWait.filter (· != p) } ∧ same u ∧ ∀ t : Task, t.info.part = p → powerFrozen u t = (t.info.cls != 0))
      ∧ (¬ draws → ∃ u left, exec (.powerThrottle p) s = .next u ∧ left ≤ most ∧ (getPart u p).res.frozen = true
        ∧ (getPart u p).res.pwrStat.toNat = (r.pwrStat.toNat / 2 ^ 32 + (if r.frozen then 0 else 1)) % 2 ^ 32 * 2 ^ 32 + left ∧ u.boot = s.boot ∧ same u
        ∧ (∀ t : Task, t.info.part = p → t.info.cls ≠ 0 → powerFrozen u t = true)
        ∧ (∀ t : Task, t.info.part = p → t.info.cls = 0 → (powerFrozen u t = true ↔ left = 0))))
    ∧ (∀ d n, drawNext s = some (d, n) → d < s.parts.length →
      let weight := fun (k : Nat) => (getPart s k).res.pwrToken.toNat / 2 ^ 40 % 2 ^ 8
      let r := (getPart s d).res
      let served := { s.boot with pool := s.boot.pool - min 16 s.boot.pool, poolWait := s.boot.poolWait.filter (· != d), drawTurn := 256 * d + (n + 1) % 256 }
      d ∈ s.boot.poolWait ∧ (n ≠ 0 → n < weight d) ∧ (weight d = 0 → ∀ k ∈ s.boot.poolWait, k < 64 → weight k = 0)
        ∧ (poolServe s).boot = served ∧ (∀ k, k ≠ d → getPart (poolServe s) k = getPart s k)
        ∧ (s.boot.pool ≠ 0 → (getPart (poolServe s) d).res.frozen = r.frozen
            ∧ (getPart (poolServe s) d).res.pwrStat.toNat = r.pwrStat.toNat / 2 ^ 32 * 2 ^ 32 + (r.pwrStat.toNat % 2 ^ 20 + min 16 s.boot.pool) % 2 ^ 20)
        ∧ (s.boot.pool = 0 → (getPart (poolServe s) d).res.frozen = true))
    ∧ ((v.toNat % 2 ^ 20 < v.toNat / 2 ^ 20 % 2 ^ 20 ∨ s.boot.pwrBudget < others.sum + v.toNat % 2 ^ 20) → exec (.pwrToken p v) s = .next s)
    ∧ (v.toNat / 2 ^ 20 % 2 ^ 20 ≤ v.toNat % 2 ^ 20 → others.sum + v.toNat % 2 ^ 20 ≤ s.boot.pwrBudget → p < s.parts.length →
      ∃ u, exec (.pwrToken p v) s = .next u ∧ OnlyPart s u p ∧ (getPart u p).res.pwrToken.toNat = v.toNat % 2 ^ 48)
    ∧ (∀ port, let used := ((s.parts.filter fun q => q.id != p).map fun q => (nth q.res.lnk port 0).toNat / 2 ^ 32 % 2 ^ 16).sum + v.toNat / 2 ^ 32 % 2 ^ 16
      ((40 ≤ port ∨ 36000 < used) → exec (.lnkVcw p port v) s = .next s)
        ∧ (port < 40 → used ≤ 36000 → p < s.parts.length → (getPart s p).res.lnk.length = 40 → ∃ u, exec (.lnkVcw p port v) s = .next u ∧ OnlyPart s u p
          ∧ nth (getPart u p).res.lnk port 0 = (v &&& 0xffff0000ffff) ∧ ∀ k, k ≠ port → nth (getPart u p).res.lnk k 0 = nth (getPart s p).res.lnk k 0))
    ∧ (∀ die (tok : BitVec 20), s.boot.powered = true → die < 11 →
      (tok.toNat < 17500 → ∃ u, exec (.thermalOver die tok) s = .next u ∧ OnlyBoot s u ∧ u.boot.pwrBudget = min tok.toNat s.boot.pwrBudget ∧ die ∈ u.boot.hot)
        ∧ (17500 ≤ tok.toNat → (∀ d ∈ s.boot.hot, d = die) → ∃ u, exec (.thermalOver die tok) s = .next u ∧ OnlyBoot s u ∧ u.boot.pwrBudget = 17500 ∧ u.boot.hot = []))
    ∧ ∃ u, exec .thermalTrip s = .next u ∧ u.boot.powered = false ∧ u.boot.boot = 0 ∧ u.boot.hot = s.boot.hot ∧ u.boot.staged = s.boot.staged
        ∧ u.task = State.reset.task ∧ u.others = [] ∧ u.sched = State.reset.sched ∧ u.parts = State.reset.parts ∧ u.mem = [] ∧ u.clk = s.clk ∧ u.agenda = s.agenda

/-- R383, R399, R404 to R406: before X0 is released no register answers; traffic of a partition that has bound streams is refused outside them; PF registers reach the device's, a partition's pages and the rings; a VF reaches what its page lets it; SCH_DIERST reads back without FORCE, which is only written (log 38); PLDM reads PWR_BUDGET as sensor 3. The sensor's number is PRESUMED (log 24); that traffic outside a partition's bound streams is ignored is log 50, that writes before X0 is up are is log 61. -/
def Sys2Proof.Claims.RegisterMaps : Prop := ∀ (s : State) (v : W64) (via : Option (Nat × Nat)),
  let comes := fun (p : Nat) => (getPart s p).res.ide = [] ∨ ∃ x ∈ (getPart s p).res.ide, via = some x
  let own := fun (f : Option Nat) => comes (f.getD 0)
  (∀ f off, (s.boot.boot.getLsbD 9 = false ∨ ¬ own f) → exec (.registerWrite { vf := f, via := via } off v) s = .next s ∧ regRead s f off via = none)
    ∧ (s.boot.boot.getLsbD 9 = true → comes 0 →
      (∃ u, exec (.registerWrite { vf := none, via := via } 0x38 v) s = .next u ∧ OnlyEndpoint s u ∧ u.ept.node.toNat = v.toNat % 2 ^ 21)
      ∧ (s.boot.boot.toNat % 4 = 2 → ∃ u, exec (.registerWrite { vf := none, via := via } 0x10 v) s = .next u ∧ u = { s with sched := { s.sched with safePt := v.getLsbD 0 } })
      ∧ (∀ p, p < 64 → (getPart s p).live = true → p < s.parts.length →
        (∃ u, exec (.registerWrite { vf := none, via := via } (0x20000 + 0x1000 * p + 0xc0) v) s = .next u ∧ OnlyPart s u p ∧ (getPart u p).sch = { (getPart s p).sch with resval := v })
        ∧ (∃ u, exec (.registerWrite { vf := none, via := via } (0x20000 + 0x1000 * p) v) s = .next u ∧ OnlyPart s u p
          ∧ (getPart u p).mem = { (getPart s p).mem with hbaseSt := BitVec.ofNat 64 (v.toNat / 2 ^ 21 % 2 ^ 36 * 2 ^ 21) })
        ∧ (1 ≤ p → comes p → (∃ u, exec (.registerWrite { vf := some p, via := via } 0xc0 v) s = .next u ∧ OnlyPart s u p ∧ (getPart u p).sch = { (getPart s p).sch with resval := v })
          ∧ exec (.registerWrite { vf := some p, via := via } 0x100 v) s = .next s))
      ∧ (∀ r, r < 65 → r < s.rings.length → ∃ u, exec (.registerWrite { vf := none, via := via } (0x60000 + 0x40 * r + 0x10) v) s = .next u ∧ OnlyRing s u r
        ∧ ringAt u r = { ringAt s r with head := v.toNat % 2 ^ 16 })
      ∧ regRead s none 0x18 via = some (s.sched.dierst &&& ~~~ 8#64, s))
    ∧ (∃ u, exec (.pldmMonitor 3) s = .next u ∧ OnlyBoot s u ∧ u.boot = { s.boot with replies := s.boot.replies ++ [(2, 3, s.boot.pwrBudget)] })
    ∧ ∀ n, n ≠ 3 → ∃ u x, exec (.pldmMonitor n) s = .next u ∧ OnlyBoot s u ∧ u.boot.replies = s.boot.replies ++ [(2, n, x)]

/-- R376, R377: entry e of the capability table, four words at offset 0x1_0000 + 32e of the PF, names a resource with VER 1, its instance, scope, grain, total and free units; after the last entry the table reads 0. A read changes nothing. (Which page's register ALLOC names where every partition has one: the model's choice, log 38.) -/
def Sys2Proof.Claims.CapabilityTable : Prop := ∀ (s : State) (e : Nat), s.boot.boot.getLsbD 9 = true → (getPart s 0).res.ide = [] → e < 2048 →
  let word := fun (k : Nat) => (regRead s none (0x10000 + 32 * e + 8 * k) none).map fun r => (r.1.toNat, r.2)
  (∀ ty inst tot grain, capEntries[e]? = some (ty, inst) → totalOf ty inst = some (tot, grain) →
      word 0 = some (ty + 2 ^ 8 + 2 ^ 16 * inst + 2 ^ 32 * capScope ty + 2 ^ 48 * grain, s) ∧ word 1 = some (tot, s)
        ∧ word 2 = some (freeUnits s ty inst % 2 ^ 64, s) ∧ word 3 = some (capAlloc ty inst, s))
    ∧ (capEntries.length ≤ e → ∀ k < 4, word k = some (0, s))

/-- R374, R376, R377, R381 to R383, R399, R403 to R406: power, links, heat, the register maps, the capability table. -/
def Obligations.PowerAndRegisters : Prop := Claims.Power ∧ Claims.RegisterMaps ∧ Claims.CapabilityTable

/-! ### Mirrors -/

/-- R108, R367, R369, R372: a mirror point brings the tile's rows to the shadow block and the task to its standing image; heartbeats; a silent die is isolated by a forced reset, the odd one where both are silent (without R369's premise that both declare within the same 200 µs, which the model does not time: log 63), and the survivor is the primary of the pair's F clusters. That a die whose heartbeat is still due falls silent, and then does no more, is what the outside decides (log 81). -/
def Sys2Proof.Claims.MirrorsKept : Prop := ∀ (s : State) (d : Nat), s.mir.pairs.length = 4 →
  let t := s.task
  let now := s.clk.ftime
  let p := pairAt s (d / 2)
  let silent := fun (k : Nat) => p.hbAt.getD k 0 + 200000 ≤ now
  let lost := fun (u : State) (x : Nat) => pairAt u (d / 2) = { p with fails := (p.fails + 1) % 2 ^ 32, lost := x, state := 1, taken := false, roleOdd := x % 2 == 0, isolated := some x, shown := (p.state, p.lost) }
    ∧ (∀ k < s.parts.length, ∀ c, (d / 2, c) ∈ (getPart s k).res.fPairs → ((d / 2, c) ∈ (getPart u k).res.fOdd ↔ x % 2 = 0))
    ∧ u.sched.dierst = BitVec.ofNat 64 (32 + 8 + x) ∧ (∀ l ∈ u.side.l1, l.core / 64 ≠ x) ∧ u.task = s.task ∧ u.mem = s.mem
  let free := s.sched.dierst.toNat / 16 % 4 ≠ 1 ∧ s.sched.dierst.toNat / 16 % 4 ≠ 2
  (∀ row b, onCore t = true → onMute s t = false → Bare s → Memory.wf s.mem = true → t.freeze = [.mirror false] → s.mir.written = [(t.uid, row)] → shadowBlock s (row / 2 ^ 24) = some b →
      ∃ u, exec .mirrorPointDone s = .next u ∧ u.task.freeze = [] ∧ u.task.regs = t.regs ∧ u.mir.written = []
        ∧ (∃ x ∈ u.mir.standing, x.uid = t.uid ∧ x.image.regs = t.regs ∧ x.image.plates = t.plates)
        ∧ ∀ k < 128, sget (w := 8) u.mem (b * 2 ^ 31 + row % 2 ^ 24 * 128 + k) = sget (w := 8) s.mem (row * 128 + k))
    ∧ (onCore t = true → onMute s t = true → Bare s → (∃ x, t.freeze = [.mirror x]) → exec .mirrorPointDone s = .next s)
    ∧ (onCore t = true → onMute s t = false → Bare s → t.freeze = [.mirror true] → ∃ u, exec .mirrorPointDone s = .next u ∧ u.task.place = .ended true ∧ u.task.regs = t.regs)
    ∧ ((∀ x, Freeze.mirror x ∉ t.freeze) → exec .mirrorPointDone s = .next s)
    ∧ (d < 8 → p.isolated ≠ some d → p.hbAt.length = 2 → ∃ u, exec (.woadHeartbeat d) s = .next u ∧ OnlyMirrors s u
      ∧ pairAt u (d / 2) = { p with hbAt := p.hbAt.set (d % 2) now } ∧ d ∉ u.mir.mute ∧ ∀ n, n ≠ d / 2 → pairAt u n = pairAt s n)
    ∧ (p.isolated = some d → exec (.woadHeartbeat d) s = .next s)
    ∧ (d < 8 → (p.state = 0 ∨ p.state = 2) → p.isolated = none → silent (d % 2) → free →
      (¬ silent ((d + 1) % 2) → tasksOn s d = [] → ∃ u, exec (.partnerLost d) s = .next u ∧ lost u d)
      ∧ (silent ((d + 1) % 2) → tasksOn s (d / 2 * 2 + 1) = [] → ∃ u, exec (.partnerLost d) s = .next u ∧ lost u (d / 2 * 2 + 1)))
    ∧ (d < 8 → (p.state = 0 ∨ p.state = 2) → p.isolated = none → ¬ silent (d % 2) →
      ∃ u, exec (.partnerLost d) s = .next u ∧ OnlyMirrors s u ∧ u.mir = { s.mir with mute := u.mir.mute } ∧ ∀ x, x ∈ u.mir.mute ↔ x = d ∨ x ∈ s.mir.mute)
    ∧ ((8 ≤ d ∨ (p.state ≠ 0 ∧ p.state ≠ 2) ∨ p.isolated ≠ none) → exec (.partnerLost d) s = .next s)

/-- R366, R370 to R372: the memory of a lost die is taken over from the shadow blocks; its tasks go on from their standing images on the partner, unless their instance has failed meanwhile (R330): then they end; a resync copies the blocks back and mirrors again. -/
def Sys2Proof.Claims.FailOvers : Prop := ∀ (s : State) (d b sb : Nat), s.mir.pairs.length = 4 →
  let p := pairAt s (d / 2)
  let pairs := s.parts.flatMap fun q => q.res.pairs
  let copied := fun (u : State) (x y die : Nat) => (∀ k < 2 ^ 31, sget (w := 8) u.mem (x * 2 ^ 31 + k) = sget (w := 8) s.mem (y * 2 ^ 31 + k))
    ∧ (∀ a, a / 2 ^ 31 ≠ x → sget (w := 8) u.mem a = sget (w := 8) s.mem a) ∧ ∀ k < 1024, (regionOf u (x * 1024 + k)).home = die
  (d < 8 → p.taken = false → p.lost = d → pairs = [(b, sb)] → b ≠ sb → homeDie s (b * 2 ^ 31) = d → Memory.wf s.mem = true →
      ∃ u, exec (.shadowTakeover d) s = .next u ∧ (pairAt u (d / 2)).taken = true ∧ copied u b sb (partnerOf d)
        ∧ (pairAt u (d / 2)).isolated = if s.sched.dierst.toNat / 16 % 4 = 3 ∧ s.sched.dierst.toNat % 8 = d then none else p.isolated)
    ∧ ((p.taken = true ∨ p.lost ≠ d) → exec (.shadowTakeover d) s = .next s)
    ∧ (∀ c k x, s.task.place = .replay d c k → p.taken = true → k < 8 → holders s (partnerOf d, c) = [] → s.mir.standing.find? (fun y => y.uid == s.task.uid) = some x →
      x.image.uid = s.task.uid → (∀ y ∈ s.others, y.info.inst = s.task.info.inst → inReplay y = false) → (∀ y ∈ allTasks s, y.info.inst = s.task.info.inst → .replayWait ∉ y.freeze) → ringRoom s (ringOf s s.task.info.part false) →
      (findInst s s.task.info.inst).any Inst.failed = false →
      ∃ u, exec (.failover s.task.info.inst) s = .next u ∧ u.task.place = .onCore (partnerOf d) c k ∧ u.task.regs = x.image.regs ∧ u.task.plates = x.image.plates
        ∧ u.task.info = { x.image.info with rpl := true } ∧ EventRaised s u s.task.info.part 0x20 2 (partnerOf d))
    ∧ (∀ c k, s.task.place = .replay d c k → p.taken = true → (∀ y ∈ s.others, y.info.inst = s.task.info.inst → inReplay y = false) →
      (∀ y ∈ allTasks s, y.info.inst = s.task.info.inst → .replayWait ∉ y.freeze) → (findInst s s.task.info.inst).any Inst.failed = true →
      ∃ u, exec (.failover s.task.info.inst) s = .next u ∧ u.task.place = .ended false ∧ u.mem = s.mem)
    ∧ (∀ n, (∀ t ∈ allTasks s, t.info.inst = n → inReplay t = false) → exec (.failover n) s = .next s)
    ∧ (∀ n < 4, let q := pairAt s n
      (q.state = 1 → q.taken = true → dieOpen s q.lost = true → ∃ u, exec (.resync n) s = .next u ∧ OnlyMirrors s u ∧ pairAt u n = { q with state := 2 }
          ∧ ∀ m, m ≠ n → pairAt u m = pairAt s m)
        ∧ ((q.state ≠ 1 ∨ q.taken = false ∨ dieOpen s q.lost = false) → exec (.resync n) s = .next s)
        ∧ (q.state = 2 → pairs = [(b, sb)] → b ≠ sb → homeDie s (b * 2 ^ 31) = partnerOf q.lost → Memory.wf s.mem = true →
          ∃ u, exec (.resyncDone n) s = .next u ∧ (pairAt u n).state = 0 ∧ (pairAt u n).hbAt = [s.clk.ftime, s.clk.ftime] ∧ copied u sb b q.lost)
        ∧ (q.state ≠ 2 → exec (.resyncDone n) s = .next s))

/-- R366 to R372: mirror points, the loss of a die, and what follows it. -/
def Obligations.MirrorPairs : Prop := Claims.MirrorsKept ∧ Claims.FailOvers

/-! ### Partitions -/

/-- R376 to R379: CREATE, DESTROY, GRANT, REVOKE, BLKADD, BLKREM and BLKPAIR, done or refused with their reasons. The lowest free clusters and pairs, and the side of a pair that serves, are log 34; the reasons where R378 names none (DESTROY of partition 0, a block held elsewhere or paired already, a type that has registers of its own) are log 98. -/
def Sys2Proof.Claims.PartitionCommands : Prop := ∀ (s : State) (v : W64),
  let p := v.toNat / 2 ^ 54 % 64
  let q := getPart s p
  let ty := v.toNat / 2 ^ 40 % 256
  let inst := v.toNat / 2 ^ 32 % 256
  let n := v.toNat % 2 ^ 32
  let b := v.toNat % 256
  let sb := v.toNat / 256 % 256
  let cmds := [(1, Instr.create v), (2, .destroy v), (3, .grant v), (4, .revoke v), (5, .blkadd v), (6, .blkrem v), (7, .blkpair v)]
  let there := q.live = true ∧ instReleased s ty inst = true
  let holds := heldUnits q ty inst
  let setsHeld := fun (i : Instr) (k : Nat) => ∃ u, exec i s = .next u ∧ CmdStat u 0 2 ∧ heldUnits (getPart u p) ty inst = k
    ∧ (∀ x y, (x, y) ≠ (ty, inst) → heldUnits (getPart u p) x y = heldUnits q x y) ∧ (∀ k, k ≠ p → getPart u k = getPart s k) ∧ u.mem = s.mem ∧ u.task = s.task
  (∀ c ∈ cmds, s.boot.cmdstat.toNat % 4 = 1 → exec c.2 s = .next s)
    ∧ (∀ c ∈ cmds, v.toNat / 2 ^ 60 = c.1 → s.boot.cmdstat.toNat % 4 ≠ 1 → v.toNat / 2 ^ 48 % 2 ^ 5 ≠ 0 → CmdRefused c.2 s 3)
    ∧ (CmdOf s v 1 → (q.live = true → CmdRefused (.create v) s 4) ∧ (q.live = false → p < s.parts.length →
      ∃ u, exec (.create v) s = .next u ∧ CmdStat u 0 2 ∧ getPart u p = Part.reset p true ∧ (∀ k, k ≠ p → getPart u k = getPart s k) ∧ u.mem = s.mem ∧ u.task = s.task))
    ∧ (CmdOf s v 2 → (p = 0 → CmdRefused (.destroy v) s 3) ∧ (p ≠ 0 → q.live = false → CmdRefused (.destroy v) s 4)
      ∧ (p ≠ 0 → q.live = true → ∃ u, exec (.destroy v) s = .next u ∧ CmdStat u 0 1 ∧ (getPart u p).sch.stopping = 3 ∧ Asks s u (fun t => t.info.part == p)))
    ∧ (∀ k, (getPart s k).sch.stopping = 3 → quiet s k = true → k < s.parts.length → ∃ u, exec (.stopped k) s = .next u ∧ CmdStat u 0 2 ∧ getPart u k = Part.reset k false
      ∧ (k + 1 < s.rings.length → ringAt u (k + 1) = Ring.reset (k + 1)) ∧ (∀ d w, w < 16 → wayOf u d w / 128 = 1 → wayOf u d w % 64 ≠ k)
      ∧ (∀ l ∈ u.side.hbmActive, ∀ b ∈ l, b.getLsbD 7 = true → b.toNat % 64 ≠ k) ∧ ∀ x ∈ u.ept.sessions, x.part ≠ k)
    ∧ (CmdOf s v 3 → (∀ tot grain, grantOf ty inst = some (tot, grain) → (¬ there → CmdRefused (.grant v) s 4)
        ∧ (there → n % grain ≠ 0 → CmdRefused (.grant v) s 3) ∧ (there → n % grain = 0 → freeUnits s ty inst < n → CmdRefused (.grant v) s 1)
        ∧ (there → n % grain = 0 → n ≤ freeUnits s ty inst → ty ≠ 1 → ty ≠ 2 → setsHeld (.grant v) (holds + n))
        ∧ (there → n ≤ freeUnits s ty inst → ty = 1 → CmdDone (.grant v) s p fun r => { r with genClusters := r.genClusters ++ ((freeClusters s inst).take n).map fun c => (inst, c) })
        ∧ (there → n ≤ freeUnits s ty inst → ty = 2 → let new := ((freePairs s inst).take n).map fun c => (inst, c)
          CmdDone (.grant v) s p fun r => { r with fPairs := r.fPairs ++ new, fOdd := if oddServes s inst then new ++ r.fOdd else r.fOdd }))
      ∧ (grantOf ty inst = none → CmdRefused (.grant v) s 3))
    ∧ (CmdOf s v 4 → (grantOf ty inst = none → CmdRefused (.revoke v) s 3) ∧ ∀ tot grain, grantOf ty inst = some (tot, grain) → ty ≠ 1 → ty ≠ 2 → there → n % grain = 0 →
      (holds < n → CmdRefused (.revoke v) s 3) ∧ (n ≤ holds → stillServes s p ty inst (holds - n) = false → CmdRefused (.revoke v) s 2)
        ∧ (n ≤ holds → stillServes s p ty inst (holds - n) = true → setsHeld (.revoke v) (holds - n)))
    ∧ (CmdOf s v 5 → (q.live = false ∨ released s (b / 32) = false → CmdRefused (.blkadd v) s 4)
      ∧ (q.live = true → released s (b / 32) = true → (∃ x ∈ s.parts, x.res.blocks.contains b = true ∨ x.res.scrubbing.contains b = true ∨ x.res.going.contains b = true) → CmdRefused (.blkadd v) s 1)
      ∧ (q.live = true → released s (b / 32) = true → (∀ x ∈ s.parts, x.res.blocks.contains b = false ∧ x.res.scrubbing.contains b = false ∧ x.res.going.contains b = false) → q.res.blkreq.getLsbD 63 = false →
        CmdDone (.blkadd v) s p fun r => { r with blocks := r.blocks ++ [b], blkreq := BitVec.ofNat 64 (2 ^ 63 + 2 ^ 8 + b) }))
    ∧ (CmdOf s v 6 → q.live = true → released s (b / 32) = true → (q.res.blocks.contains b = false → CmdRefused (.blkrem v) s 3)
      ∧ (q.res.blocks.contains b = true → blockUsed s p b = true → CmdRefused (.blkrem v) s 2)
      ∧ (q.res.blocks.contains b = true → blockUsed s p b = false → v.getLsbD 53 = false → q.res.blkreq.getLsbD 63 = false →
        ∃ u, exec (.blkrem v) s = .next u ∧ CmdStat u 0 2 ∧ (getPart u p).res = { q.res with blkreq := BitVec.ofNat 64 (2 ^ 63 + b) }
          ∧ u.boot.interrupts = s.boot.interrupts ++ [p] ∧ u.mem = s.mem ∧ u.task = s.task)
      ∧ (q.res.blocks.contains b = true → blockUsed s p b = false → v.getLsbD 53 = true → tasksOf s p = [] → p < s.parts.length →
        ∃ u, exec (.blkrem v) s = .next u ∧ CmdStat u 0 2 ∧ (getPart u p).res = { q.res with blocks := q.res.blocks.filter (· != b), going := b :: q.res.going }
          ∧ (∀ l ∈ u.side.l1, l.row / 2 ^ 24 ≠ b) ∧ ∀ l ∈ u.side.slices, l.row / 2 ^ 24 ≠ b))
    ∧ (CmdOf s v 7 → q.live = true → released s (b / 32) = true → released s (sb / 32) = true →
      ((q.res.blocks.contains b = false ∨ q.res.blocks.contains sb = false ∨ sb / 32 ≠ partnerOf (b / 32)) → CmdRefused (.blkpair v) s 3)
      ∧ (q.res.blocks.contains b = true → q.res.blocks.contains sb = true → sb / 32 = partnerOf (b / 32) →
        ((∃ x ∈ q.res.pairs, x.1 = b ∨ x.2 = b ∨ x.1 = sb ∨ x.2 = sb) → CmdRefused (.blkpair v) s 2)
        ∧ (q.res.pairs = [] → Still s → (∀ l ∈ s.side.l1, l.row / 2 ^ 24 ≠ b ∧ l.row / 2 ^ 24 ≠ sb) →
          ∃ u, exec (.blkpair v) s = .next u ∧ CmdStat u 0 2 ∧ (getPart u p).res.pairs = [(b, sb)] ∧ ∀ k < 2 ^ 31, sget (w := 8) u.mem (sb * 2 ^ 31 + k) = sget (w := 8) s.mem (b * 2 ^ 31 + k))))

/-- R379, R380, R383, R384, R417: the acknowledgement of a removal, the end of a scrub, the reset of a function, inbound reads and writes by an I/O die that is up, in their requester's order at that die and on the partition's bound streams (how such traffic is refused: the model's choice, log 50). -/
def Sys2Proof.Claims.PartitionEvents : Prop := ∀ (s : State) (p : Nat), HasPart s p →
  let q := getPart s p
  (∀ v : W64, let b := v.toNat % 256
      (q.res.blkreq = BitVec.ofNat 64 (2 ^ 63 + b) → q.res.blocks.contains b = true → tasksOf s p = [] → ∃ u, exec (.parBlkack p v) s = .next u
        ∧ (getPart u p).res.blocks = q.res.blocks.filter (· != b) ∧ (getPart u p).res.going = b :: q.res.going ∧ (getPart u p).res.blkreq.getLsbD 63 = false)
      ∧ ((q.res.blkreq.getLsbD 63 = false ∨ q.res.blkreq.toNat % 256 ≠ b) → exec (.parBlkack p v) s = .next s))
    ∧ (∀ b, s.parts.find? (fun x => x.res.scrubbing.contains b) = some q → q.id = p → ∃ u, exec (.blockScrubDone b) s = .next u
      ∧ (∀ a, sget (w := 8) u.mem a = if a / 2 ^ 31 = b then 0 else sget (w := 8) s.mem a) ∧ (∀ r, r / 2 ^ 24 = b → poisonedRow u r = false)
      ∧ (getPart u p).res = { q.res with scrubbing := q.res.scrubbing.filter (· != b) } ∧ u.task = s.task)
    ∧ ((p = 0 ∨ q.live = false) → exec (.functionLevelReset p) s = .next s)
    ∧ (p ≠ 0 → q.live = true → s.task.info.part = p → onCore s.task = true → groupOfTask s = [s.task.uid] → s.task.egress = [] → (∀ t ∈ s.others, t.info.part ≠ p ∧ t.uid ≠ s.task.uid) →
      ∃ u, exec (.functionLevelReset p) s = .next u ∧ u.task.place = .ended false ∧ u.task.regs = Regs.zero
        ∧ (∀ g ∈ u.rings, ∀ x ∈ g.waiting, x.words.toNat / 2 ^ 64 % 2 ^ 6 ≠ p)
        ∧ (∀ n < 4, (queueAt u p n).head = (queueAt u p n).tail ∧ (queueAt u p n).wait = none) ∧ (getPart u p).sch.slotsUsed = [] ∧ (getPart u p).sch.stopping = (if q.sch.stopping = 3 then 3 else 0)
        ∧ (getPart u p).res.blocks = q.res.blocks ∧ (getPart u p).res.held = q.res.held)
    ∧ ∀ (off : Nat) (data : List Byte) (via : Option (Nat × Nat)) (req io : Nat), io < 2 → let pa := q.mem.inbase.toNat / 2 ^ 18 % 2 ^ 19 * 2 ^ 21 + off
      let comes := q.res.ide = [] ∨ ∃ x ∈ q.res.ide, via = some x
      let turn := ∀ r ∈ s.boot.inq, ¬ (r.req = req ∧ r.io = io)
      let up := s.boot.boot.getLsbD (9 + io) = true
      let who : Traffic := { part := p, req := req, io := io, via := via }
      let waits := fun (n : Nat) (d : Option (List Byte)) => inWaits s { part := p, req := req, io := io, off := off, len := n, data := d }
      (¬ up → ∀ n, exec (.inboundRead who off n) s = .next s ∧ exec (.inboundWrite who off data) s = .next s) ∧ (up → (∀ n, (¬ comes ∨ (turn ∧ inboundAddr s p off n = none)) → ∃ u, exec (.inboundRead who off n) s = .next u ∧ OnlyBoot s u
          ∧ u.boot = { s.boot with inbound := s.boot.inbound ++ [{ part := p, data := [], abort := true, poisoned := false }] })
        ∧ (∀ n, comes → turn → inboundAddr s p off n = some pa → waits n none = false → NoBound s → ∃ u x, exec (.inboundRead who off n) s = .next u
          ∧ u.boot = { s.boot with inbound := s.boot.inbound ++ [x] } ∧ x.part = p ∧ x.abort = false ∧ x.data = (List.range n).map (fun k => sget (w := 8) s.mem (pa + k))
          ∧ (x.poisoned = true ↔ ∃ k < n, poisonedRow s ((pa + k) / 128) = true) ∧ u.mem = s.mem ∧ u.task = s.task ∧ u.sched = s.sched)
        ∧ (data ≠ [] → (¬ comes ∨ (turn ∧ inboundAddr s p off data.length = none)) →
          ∃ u, exec (.inboundWrite who off data) s = .next u ∧ OnlyPart s u p ∧ (getPart u p).mem = { q.mem with indrop := q.mem.indrop + 1 })
        ∧ (comes → turn → inboundAddr s p off data.length = some pa → waits data.length (some data) = false → Still s →
          ∃ u, exec (.inboundWrite who off data) s = .next u ∧ WritesBytes s u pa data ∧ u.task = s.task ∧ u.sched = s.sched)
        ∧ (∀ n, comes → (¬ turn ∨ waits n none = true) → ∃ u, exec (.inboundRead who off n) s = .next u ∧ OnlyBoot s u
          ∧ u.boot = { s.boot with inq := s.boot.inq ++ [{ part := p, req := req, io := io, off := off, len := n, data := none }] }))

/-- R376 to R380, R384, R417: partitions, their resources and their blocks. -/
def Obligations.Partitions : Prop := Claims.PartitionCommands ∧ Claims.PartitionEvents

/-! ### The endpoint -/

/-- R393: BIND, UNBIND and READ of a session, and what refuses them; BIND captures the translation of the ring and of the peer record. The REASON of a reserved field, BADREC for a session that is not bound, and a busy EPT_SESSCMD doing nothing are log 88; the status words of a refused BIND are log 60; NOADMIT in phase 0 is log 94. -/
def Sys2Proof.Claims.SessionCommands : Prop := ∀ (s : State) (p : Nat) (v : W64), HasPart s p →
  let q := getPart s p
  let n := v.toNat % 2 ^ 14
  let op := v.toNat / 2 ^ 62
  let clean := v.toNat / 2 ^ 14 % 2 ^ 48 = 0 ∧ q.res.sessstat.toNat % 4 ≠ 1
  let cmds := [(1, Instr.bind p v), (2, .unbind p v), (3, .sessRead p v)]
  let refused := fun (i : Instr) (reason : Nat) => ∃ u, exec i s = .next u ∧ OnlyPart s u p
    ∧ (getPart u p).res = { q.res with sessstat := BitVec.ofNat 64 (2 ^ 8 * reason + 3) }
  let addr := q.res.sessaddr.toNat / 2 ^ 6 % 2 ^ 51 * 64
  let mine := s.ept.sessions.find? fun x => x.num == n && x.part == p
  let there := sessBlocked s p op = false
  (∀ c ∈ cmds, q.res.sessstat.toNat % 4 = 1 → exec c.2 s = .next s)
    ∧ (∀ c ∈ cmds, op = c.1 → q.res.sessstat.toNat % 4 ≠ 1 → v.toNat / 2 ^ 14 % 2 ^ 48 ≠ 0 → refused c.2 0)
    ∧ (∀ c ∈ cmds, clean → op = c.1 → ¬ there → ∃ u, exec c.2 s = .next u ∧ OnlyPart s u p ∧ (getPart u p).res = { q.res with sessstat := 1, sessWait := some v })
    ∧ (clean → there → op = 1 → s.boot.boot.toNat % 4 = 0 → refused (.bind p v) stNoadmit)
    ∧ (clean → there → op = 1 → s.boot.boot.toNat % 4 ≠ 0 → ((∃ x ∈ s.ept.sessions, x.num = n) ∨ heldUnits q 8 (n / 8192) ≤ boundOn s p (n / 8192)) → refused (.bind p v) stBusy)
    ∧ (clean → there → op = 1 → s.boot.boot.toNat % 4 ≠ 0 → (∀ x ∈ s.ept.sessions, x.num ≠ n) → boundOn s p (n / 8192) < heldUnits q 8 (n / 8192) → ∀ raw, readImg s p addr 64 = .ok raw →
      let x := BitVec.ofNat 512 raw
      (imgBad x = true → refused (.bind p v) stBadrec)
      ∧ ∀ slots peer r, imgBad x = false → ringSlots s p (imgRing x % 2 ^ 57 / 4096 * 4096) (2 ^ (imgRing x % 16)) = some slots → readImg s p (imgPeer x) 32 = .ok peer →
        rf peer 18 14 = 0 → sessRecord s p n (imgRec x) false = .ok r → imgRrec x = 0 →
        (unitsFor s p [r] = false → ∃ u, exec (.bind p v) s = .next u ∧ u.mem = (refuseRecs s p stQuota [imgRec x]).mem
          ∧ (getPart u p).res = { q.res with sessstat := BitVec.ofNat 64 (2 ^ 8 * stQuota + 3) } ∧ u.ept = s.ept)
        ∧ (unitsFor s p [r] = true → ∃ u y, exec (.bind p v) s = .next u ∧ u.ept.sessions = s.ept.sessions ++ [y] ∧ y.num = n ∧ y.part = p ∧ y.image.toNat = raw % 2 ^ 384
          ∧ y.ringPa = slots ∧ y.peer = peerRows s p (imgPeer x) ∧ y.peerOff = imgPeer x % 128 ∧ y.slots = [] ∧ y.lv = false ∧ y.rv = false ∧ y.recSeq = s.sched.seq + 1 ∧ (getPart u p).res.sessstat = 2
          ∧ (∃ l ∈ u.sched.launches, l.lr = { r.lr with seqno := s.sched.seq + 1 })))
    ∧ (clean → op = 2 → mine = none → refused (.unbind p v) stBadrec)
    ∧ (clean → op = 2 → ∀ x, mine = some x → x.part = p → (∃ l, findLaunch s x.recSeq = some l ∧ l.lr.sess = some n ∧ l.lr.part = p ∧ (∃ i ∈ s.sched.insts, i.seqno = x.recSeq ∧ i.closed = false)) →
      (∀ y ∈ s.ept.sessions, y.closing = true → y = x) → x.reasonSeq = none →
      ∃ u, exec (.unbind p v) s = .next u ∧ (getPart u p).res.sessstat = 1 ∧ (∃ y ∈ u.ept.sessions, y.num = n ∧ y.part = p ∧ y.closing = true)
        ∧ (∃ l, findLaunch u x.recSeq = some l ∧ l.cancelled = true ∧ l.msgs = []) ∧ u.task = s.task ∧ u.mem = s.mem)
    ∧ (clean → there → op = 3 → mine = none → refused (.sessRead p v) stBadrec)
    ∧ (clean → there → op = 3 → ∀ x r, mine = some x → translate s p accEngWrite addr = .ok r → ∃ u, exec (.sessRead p v) s = .next u ∧ (getPart u p).res.sessstat = 2
      ∧ u.mem = (writeVirt s p addr 64 (x.image.toNat + 2 ^ 384 * (x.rxseq.toNat + (if x.rv then 2 ^ 32 else 0)) + 2 ^ 448 * (x.last.toNat + (if x.lv then 2 ^ 32 else 0)))).mem
      ∧ u.ept = s.ept)

/-- R394 to R397, R402: a message takes its session's next slot, is suppressed, dropped or answered by HOLD at the address that it came from; its rows reach the core; a chunk leaves its core and is sent to the peer address that its session's record holds then, late or a duplicate. HOLD while a session is being unbound is log 88; the peer record read as a chunk is sent, and what a slot outside the partition's blocks takes, are log 94; contents of packets beyond the fields here are log 41. -/
def Sys2Proof.Claims.Messages : Prop := ∀ (s : State) (n : Nat) (x : Session),
  let up := if n < 8192 then s.boot.boot.getLsbD 9 else s.boot.boot.getLsbD 10
  let older := fun (a b : BitVec 32) => (a - b).toNat = 0 ∨ 2 ^ 31 ≤ (a - b).toNat
  let counts := fun (i : Instr) (f : PartRes → PartRes) => ∃ u, exec i s = .next u ∧ OnlyPart s u x.part
    ∧ getPart u x.part = { getPart s x.part with res := f (getPart s x.part).res }
  let thaws := fun (v u : State) => (stallOver v = true → u.task.freeze = s.task.freeze.filter (· != .stall)) ∧ (stallOver v = false → u.task.freeze = s.task.freeze)
  let arrives := s.ept.sessions.find? (fun y => y.num == n && imgValid y.image && !y.closing) = some x ∧ x.num = n ∧ up = true ∧ s.boot.boot.toNat % 4 ≠ 0 ∧ HasPart s x.part
  (∀ strm seq txts src payload, let i := Instr.ingressMessage n strm seq txts { src := src, payload := payload }
      let hold := ∃ u, exec i s = .next u ∧ OnlyEndpoint s u ∧ u.ept = { s.ept with wire := s.ept.wire ++ [{ sess := n, seq := seq, hold := true, deadline := 0, acts := 0, dest := src }] }
      let pa := x.ringPa.getD x.nextSlot 0
      let dst := if strm then x.reasonSeq else some x.recSeq
      let turn := (∀ m ∈ s.ept.rxWait, m.sess ≠ n) ∧ ∀ y, s.ept.sessions.find? (fun y => y.num == n) = some y → physWaits s (y.ringPa.getD y.nextSlot 0) 4096 = false
      (¬ turn → ∃ u, exec i s = .next u ∧ OnlyEndpoint s u
          ∧ u.ept = { s.ept with rxWait := s.ept.rxWait ++ [{ sess := n, strm := strm, seq := seq, txts := txts, at_ := s.clk.ftime, src := src, payload := payload }] })
        ∧ (turn → up = false → exec i s = .next s)
        ∧ (turn → up = true → s.boot.boot.toNat % 4 = 0 → hold)
        ∧ (turn → up = true → s.ept.sessions.find? (fun y => y.num == n && imgValid y.image && !y.closing) = none → hold)
        ∧ (turn → arrives → imgHold x.image = true → hold)
        ∧ (turn → arrives → imgHold x.image = false → x.rv = true → older seq x.rxseq → counts i fun r => { r with rxdup := r.rxdup + 1 })
        ∧ (turn → arrives → imgHold x.image = false → (x.rv = false ∨ ¬ older seq x.rxseq) → (dst = none ∨ 3968 < payload.length ∨ x.slots.contains pa = true) →
          counts i fun r => { r with rxdrop := r.rxdrop + 1 })
        ∧ (turn → arrives → imgHold x.image = false → (x.rv = false ∨ ¬ older seq x.rxseq) → payload.length ≤ 3968 → x.slots.contains pa = false → Still s → pa % 4096 = 0 → ∀ l, dst = some l →
          ∃ u, exec i s = .next u
            ∧ (ownerOf s pa ≠ some x.part → u.mem = s.mem) ∧ (ownerOf s pa = some x.part → WritesBytes s u pa (bytesOf 128 (slotHead n strm seq txts payload.length s.clk.ftime) ++ payload ++ List.replicate (3968 - payload.length) 0))
            ∧ u.ept.sessions = s.ept.sessions.map (fun y => if y.num = n ∧ y.part = x.part then
                { y with rv := true, rxseq := seq, slots := y.slots ++ [pa], nextSlot := (y.nextSlot + 1) % y.ringPa.length } else y)
            ∧ u.sched.launches = s.sched.launches.map (fun y => if y.lr.seqno = l then { y with msgs := y.msgs ++ [(s.clk.ftime, pa, payload.length)] } else y)
            ∧ u.task = s.task))
    ∧ (∀ c rest, s.task.egress = c :: rest → ∃ u, exec .chunkToEndpoint s = .next u ∧ u.task.egress = rest ∧ u.task.regs = s.task.regs
      ∧ thaws { s with task := { s.task with egress := rest } } u
      ∧ u.ept = { s.ept with egressQ := s.ept.egressQ ++ [c] } ∧ u.mem = s.mem)
    ∧ (s.task.info.msgSlot.isSome = true → s.task.time.rxReady < 32 → ∃ u, exec .rxqRowArrival s = .next u ∧ OnlyTask s u ∧ u.task.time.rxReady = s.task.time.rxReady + 1
      ∧ u.task.regs = s.task.regs ∧ thaws { s with task := { s.task with time := { s.task.time with rxReady := s.task.time.rxReady + 1 } } } u)
    ∧ ((s.task.info.msgSlot = none ∨ 32 ≤ s.task.time.rxReady) → exec .rxqRowArrival s = .next s)
    ∧ (((∀ c ∈ s.ept.egressQ, c.1 ≠ n) ∨ peerWaits s n = true) → ∀ first, exec (.chunkEgress n first) s = .next s)
    ∧ ∀ q dl row rest first, s.ept.egressQ = (n, q, dl, row) :: rest → s.ept.sessions.find? (fun y => y.num == n) = some x → x.num = n → HasPart s x.part →
      ringRoom s (ringOf s x.part false) → q < 2 ^ 32 → peerWaits s n = false → let late := dl ≠ 0 ∧ dl + imgSlack x.image < first
      let sent := modSession { s with ept := { s.ept with egressQ := rest } } n x.part fun y => { y with last := BitVec.ofNat 32 q, lv := true }
      let dest := (peerDest sent x).2
      let u := fun (t : State) => exec (.chunkEgress n first) s = .next t ∧ t.ept.egressQ = rest ∧ t.mem = s.mem ∧ t.task = s.task
      (x.lv = true → older (BitVec.ofNat 32 q) x.last → ∃ t, u t ∧ (getPart t x.part).res.eptDup = (getPart s x.part).res.eptDup + 1 ∧ t.ept.wire = s.ept.wire)
      ∧ ((x.lv = false ∨ ¬ older (BitVec.ofNat 32 q) x.last) →
        (late → ∃ t, u t ∧ (getPart t x.part).res.eptLate = (getPart s x.part).res.eptLate + 1 ∧ t.ept.wire = s.ept.wire ∧ EventRaised s t x.part 6 2 q)
        ∧ (¬ late → ∃ t, u t ∧ (getPart t x.part).res.eptSent = (getPart s x.part).res.eptSent + 1
          ∧ t.ept.wire = s.ept.wire ++ [{ sess := n, seq := BitVec.ofNat 32 q, hold := false, deadline := BitVec.ofNat 64 dl, acts := BitVec.ofNat 128 row.toNat, dest := dest }]
          ∧ (∀ va pa coh fmt base bad, x.peer = [.glob va pa coh fmt base bad] → packedOf fmt = none → NoBound s → ownerOf s (pa / 128 * 128) = some x.part →
            dest = BitVec.ofNat 144 ((readRow s.mem pa).toNat / 2 ^ (8 * x.peerOff)))
          ∧ t.ept.sessions = s.ept.sessions.map (fun y => if y.num = n ∧ y.part = x.part then { y with last := BitVec.ofNat 32 q, lv := true } else y)))

/-- R389 to R391: Ethernet queues that have been idle for 1 ms close, the servo steps ftime forward at its first lock, later slews its offset away (its sign is log 95), and loses lock, a collective packet is kept for a listed (job, GID) pair, once; one that says that its rank is gone ends the ranks here with ABORTED_PEER. -/
def Sys2Proof.Claims.Fabric : Prop := ∀ (s : State) (p : Nat), HasPart s p →
  (∀ io node, ∃ u, exec (.ethQueueClose p io node) s = .next u ∧ OnlyPart s u p
      ∧ (getPart u p).res = { (getPart s p).res with ethOpen := (getPart s p).res.ethOpen.filter fun e => !(e.io == io && e.node == node && decide (e.used + 1000000 ≤ s.clk.ftime)) })
    ∧ (∀ tai off, ∃ u, exec (.servoLock tai off) s = .next u ∧ u.ept = { s.ept with tstat := u.ept.tstat } ∧ u.ept.tstat.toNat = 2 ^ 32 * off.toNat + 3
      ∧ u.clk.ftime = (if s.ept.tstat.getLsbD 1 = false then max tai s.clk.ftime else s.clk.ftime) ∧ u.clk.hb = s.clk.hb ∧ u.mem = s.mem ∧ u.task = s.task
      ∧ u.clk.slew = (if s.ept.tstat.getLsbD 1 = true then off.toInt else if s.clk.ftime < tai then 0 else s.clk.slew))
    ∧ (∃ u, exec .servoLockLoss s = .next u ∧ u = { s with ept := u.ept, clk := { s.clk with slew := 0 } } ∧ u.ept = { s.ept with tstat := u.ept.tstat } ∧ u.ept.tstat.getLsbD 0 = false
      ∧ u.ept.tstat.getLsbD 1 = s.ept.tstat.getLsbD 1 ∧ u.ept.tstat.toNat / 2 ^ 32 = s.ept.tstat.toNat / 2 ^ 32)
    ∧ ∀ job gid tag rank head data, let q := getPart s p
      let i := Instr.collectivePacket p job gid tag rank { head := head, rows := data }
      let held := ∃ x ∈ s.sched.packets, x.job = job.toNat ∧ x.gid = gid ∧ x.tag = tag ∧ x.rank = rank
      let sameQueues := fun (u : State) => ∀ k, ∃ l : List EthQueue, getPart u k = { getPart s k with res := { (getPart s k).res with ethOpen := l } }
        ∧ l.map (fun e => (e.io, e.node)) = (getPart s k).res.ethOpen.map fun e => (e.io, e.node)
      let known := q.live = true ∧ q.res.job.toNat % 2 ^ 24 = job.toNat ∧ ∃ e ∈ q.res.gidmap, e.getLsbD 32 = true ∧ e.toNat % 2 ^ 32 = gid.toNat
      (known → ¬ held → head.gone = false → ∃ u, exec i s = .next u ∧ sameQueues u ∧ u = { s with parts := u.parts, sched := { s.sched with packets := s.sched.packets ++
          [{ part := p, job := job.toNat, gid := gid, tag := tag, rank := rank, head := head, data := data }] } })
        ∧ (known → ¬ held → head.gone = true → ∃ u, exec i s = .next u ∧ sameQueues u ∧ u = { s with parts := u.parts, sched := { s.sched with ops := u.sched.ops, gone := u.sched.gone } }
          ∧ u.sched.ops = s.sched.ops.map fun o => if o.kind = .coll ∧ o.after = gid.toNat + 1 ∧ o.start = tag.toNat ∧ jobOf s o.owner = job.toNat ∧ o.steps ≤ 1 ∧ o.status = 0 then
            { o with status := 1 } else o)
        ∧ ((¬ known ∨ held) → exec i s = .next s)

/-- R389 to R397: sessions, messages, chunks, the fabric. -/
def Obligations.EndpointEvents : Prop := Claims.SessionCommands ∧ Claims.Messages ∧ Claims.Fabric

/-! ### Boot, keys, SPDM -/

/-- R391, R398, R402, R417: power-good, the release of the dies in their order, the boot phases. Phase 1 is entered with X1 up, and never where X1 has failed (log 89); what power-good keeps of the agenda and the staged images is log 62. -/
def Sys2Proof.Claims.Booting : Prop := ∀ (s : State) (image : BitVec 256),
  let b := s.boot
  let plain := b.powered = true ∧ b.staged.find? (fun e => e.1 == 10 + b.next) = none
  let measured := fun (u : State) (k : Nat) => u.boot.next = b.next + 1 ∧ u.boot.measures = b.measures ++ [(k, image.toNat)] ∧ u.task = s.task
  let two := fun (k : Nat) => b.boot.getLsbD (12 + 2 * k) = true ∧ b.boot.getLsbD (13 + 2 * k) = true
  let failed := fun (k : Nat) => b.boot.getLsbD (20 + 2 * k) = true ∨ b.boot.getLsbD (21 + 2 * k) = true
  (∃ u, exec .powerGood s = .next u ∧ u.task = State.reset.task ∧ u.others = [] ∧ u.mem = [] ∧ u.sched = State.reset.sched ∧ u.parts = State.reset.parts
      ∧ u.rings = State.reset.rings ∧ u.ept = State.reset.ept ∧ u.mir = State.reset.mir ∧ u.clk = State.reset.clk ∧ u.boot.boot = 0 ∧ u.boot.next = 0 ∧ u.boot.powered = true
      ∧ u.agenda = s.agenda)
    ∧ (plain → b.next = 0 → (∃ u, exec (.dieRelease image true) s = .next u ∧ measured u 3 ∧ u.boot.boot = b.boot ||| BitVec.ofNat 64 (2 ^ 9) ∧ u.mem = s.mem)
      ∧ (∃ u, exec (.dieRelease image false) s = .next u ∧ measured u 3 ∧ u.boot.boot = b.boot ∧ u.mem = s.mem))
    ∧ (plain → b.next = 3 → (∃ u, exec (.dieRelease image true) s = .next u ∧ measured u 4 ∧ u.boot.boot = b.boot ||| BitVec.ofNat 64 (2 ^ 10) ∧ u.mem = s.mem)
      ∧ (∃ u, exec (.dieRelease image false) s = .next u ∧ measured u 4 ∧ u.boot.boot = b.boot ||| BitVec.ofNat 64 (2 ^ 11) ∧ u.mem = s.mem))
    ∧ (plain → ∀ d, (b.next, d) ∈ [(1, 0), (2, 1), (4, 2), (5, 3), (6, 4), (7, 5), (8, 6), (9, 7)] →
      (∃ u, exec (.dieRelease image true) s = .next u ∧ measured u (5 + d) ∧ u.boot.boot = b.boot ||| BitVec.ofNat 64 (2 ^ (12 + d))
        ∧ ∀ a, sget (w := 8) u.mem a = if a / 2 ^ 36 = d then 0 else sget (w := 8) s.mem a)
      ∧ (∃ u, exec (.dieRelease image false) s = .next u ∧ measured u (5 + d) ∧ u.boot.boot = b.boot ||| BitVec.ofNat 64 (2 ^ (20 + d)) ∧ u.mem = s.mem))
    ∧ ((b.powered = false ∨ 10 ≤ b.next) → ∀ pass, exec (.dieRelease image pass) s = .next s)
    ∧ (∀ n < 4, b.boot.toNat % 4 = 0 → b.boot.getLsbD 9 = true → b.boot.getLsbD 10 = true → (∀ k < n, failed k) → ¬ failed n →
      (two n → ∃ u, exec .bootPhase s = .next u ∧ OnlyBoot s u ∧ u.boot.boot.toNat = b.boot.toNat + 1) ∧ (¬ two n → exec .bootPhase s = .next s))
    ∧ (b.boot.toNat % 4 = 0 → (b.boot.getLsbD 9 = false ∨ b.boot.getLsbD 10 = false) → exec .bootPhase s = .next s)
    ∧ (b.boot.toNat % 4 = 1 → (b.next = 10 → ∃ u, exec .bootPhase s = .next u ∧ OnlyBoot s u ∧ u.boot.boot.toNat = b.boot.toNat + 1) ∧ (b.next ≠ 10 → exec .bootPhase s = .next s))
    ∧ (b.boot.toNat % 4 = 2 → exec .bootPhase s = .next s)

/-- R401: ALLOC binds a slot to a partition that no other has had, FREE and REKEY give it up or renew it; rows written under the old key lose their values, and every other byte of memory reads as before. Which rows these are, and that their values are free ones, is log 37; that a command before X0 is up does nothing is log 61. -/
def Sys2Proof.Claims.Keys : Prop := ∀ (s : State) (v : W64),
  let p := v.toNat / 2 ^ 8 % 64
  let slot := v.toNat % 128
  let q := getPart s p
  let op := v.toNat / 2 ^ 62
  let clean := s.boot.boot.getLsbD 9 = true ∧ v.toNat / 2 ^ 14 % 2 ^ 48 = 0 ∧ v.getLsbD 7 = false ∧ slot ≠ 0
  let keyless := { s.side with keyed := s.side.keyed.filter fun e => e.2.2 != slot }
  (¬ clean → exec (.alloc v) s = .next s ∧ exec (.free v) s = .next s ∧ exec (.rekey v) s = .next s)
    ∧ (clean → op = 1 → q.live = true → (∀ x ∈ s.parts, x.res.keys.contains slot = false) → (∀ k ∈ s.boot.keys, k.1 = slot → k.2 = p) →
      ∃ u, exec (.alloc v) s = .next u ∧ (getPart u p).res = { q.res with keys := slot :: q.res.keys } ∧ (slot, p) ∈ u.boot.keys ∧ (∀ k, k ≠ p → getPart u k = getPart s k)
        ∧ u.mem = s.mem ∧ u.task = s.task)
    ∧ (clean → op = 1 → (q.live = false ∨ (∃ x ∈ s.parts, x.res.keys.contains slot = true) ∨ ∃ k ∈ s.boot.keys, k.1 = slot ∧ k.2 ≠ p) → exec (.alloc v) s = .next s)
    ∧ (clean → op = 2 → q.res.keys.contains slot = true → keyRows s p slot = [] → p < s.parts.length →
      ∃ u, exec (.free v) s = .next u ∧ u = { s with parts := u.parts, side := keyless } ∧ (∀ k, k ≠ p → getPart u k = getPart s k) ∧ (getPart u p).res = { q.res with keys := q.res.keys.filter (· != slot) })
    ∧ (clean → op = 2 → q.res.keys.contains slot = false → exec (.free v) s = .next s)
    ∧ (clean → op = 3 → q.res.keys.contains slot = false → exec (.rekey v) s = .next s)
    ∧ (clean → q.res.keys.contains slot = true → Memory.wf s.mem = true → let out := fun (a : Nat) => a / 128 ∉ keyRows s p slot
      let lost := fun (u : State) => (∀ a, out a → sget (w := 8) u.mem a = sget (w := 8) s.mem a)
        ∧ ∀ k, k < (keyRows s p slot).length → (keyRows s p slot).Nodup → ∀ a, a / 128 = (keyRows s p slot).getD k 0 → sget (w := 8) u.mem a = byteOfRow a (Config.freeRow (s.fresh + k)) a
      (op = 2 → p < s.parts.length → ∃ u, exec (.free v) s = .next u ∧ u = { s with mem := u.mem, fresh := u.fresh, parts := u.parts, side := keyless }
        ∧ (getPart u p).res = { q.res with keys := q.res.keys.filter (· != slot) } ∧ (∀ k, k ≠ p → getPart u k = getPart s k) ∧ lost u)
      ∧ (op = 3 → ∃ u, exec (.rekey v) s = .next u ∧ u = { s with mem := u.mem, fresh := u.fresh, side := keyless } ∧ lost u))

/-- R383, R400, R404 (their response codes, the order of requests and the sideband as port 2, which carries no IDE stream: the model's, log 24): the responder answers a request that the connection's state allows, and an unexpected one with ERROR. -/
def Sys2Proof.Claims.Attestation : Prop := ∀ (s : State) (port : Nat),
  let st := s.boot.spdmState.getD port 0
  let answers := fun (i : Instr) (code : Nat) => ∃ u x, exec i s = .next u ∧ OnlyBoot s u ∧ u.boot.replies = s.boot.replies ++ [(port, code, x)] ∧ u.boot.spdmState = s.boot.spdmState
  let moves := fun (i : Instr) (code next : Nat) => ∃ u x, exec i s = .next u ∧ OnlyBoot s u ∧ u.boot.replies = s.boot.replies ++ [(port, code, x)]
    ∧ u.boot.spdmState.getD port 0 = next ∧ ∀ k, k ≠ port → u.boot.spdmState.getD k 0 = s.boot.spdmState.getD k 0
  let there := port = 2 ∨ (port < 2 ∧ s.boot.boot.getLsbD (9 + port) = true)
  let up := there ∧ s.boot.spdmState.length = 3
  let asks := fun (n : BitVec 256) => [(1, true, Instr.getCapabilities port), (2, true, .negotiateAlgorithms port), (3, false, .getDigests port), (3, false, .getCertificate port),
    (3, false, .challenge port n), (3, false, .keyExchange port n), (4, true, .finish port n)]
  (¬ there → ∀ n, ∀ c ∈ (0, true, Instr.getVersion port) :: asks n, exec c.2.2 s = .next s)
    ∧ (up → moves (.getVersion port) 0x04 1
      ∧ (st = 1 → moves (.getCapabilities port) 0x61 2) ∧ (st = 2 → moves (.negotiateAlgorithms port) 0x63 3)
      ∧ (3 ≤ st → answers (.getDigests port) 0x01 ∧ answers (.getCertificate port) 0x02 ∧ (∀ n, answers (.challenge port n) 0x03) ∧ (∀ n, moves (.keyExchange port n) 0x64 4)
        ∧ (∀ k ∈ [1, 2, 13], (∀ m ∈ s.boot.measures, m.1 ≠ k) → answers (.getMeasurements port k) 0x60)
        ∧ (∀ k x, s.boot.measures.find? (fun m => m.1 == k) = some (k, x) → ∃ u, exec (.getMeasurements port k) s = .next u ∧ OnlyBoot s u
          ∧ u.boot = { s.boot with replies := s.boot.replies ++ [(port, 0x60, x)] }))
      ∧ (st = 4 → ∀ n, moves (.finish port n) 0x65 5)
      ∧ (st = 5 → ∀ stream p, port < 2 → stream < 64 → (getPart s p).live = true → ∃ u, exec (.ideKm port stream p) s = .next u ∧ (port, stream) ∈ (getPart u p).res.ide
        ∧ (∀ k, k ≠ p → (port, stream) ∉ (getPart u k).res.ide) ∧ u.boot.replies = s.boot.replies ++ [(port, 0x7e, 0)] ∧ u.mem = s.mem ∧ u.task = s.task)
      ∧ (st = 5 → ∀ stream p, (port = 2 ∨ 64 ≤ stream ∨ (getPart s p).live = false) → answers (.ideKm port stream p) 0x7f)
      ∧ ∀ n, ∀ c ∈ asks n, st < c.1 ∨ (c.2.1 = true ∧ st ≠ c.1) → answers c.2.2 0x7f)
    ∧ (∀ d image, d < 10 → ∃ u, exec (.pldmFwUpdate d image) s = .next u ∧ OnlyBoot s u ∧ u.boot.staged = (d, image.toNat) :: s.boot.staged.filter (fun e => e.1 != d))
    ∧ ∀ d image, 10 ≤ d → exec (.pldmFwUpdate d image) s = .next s

/-- R383, R391, R398, R400 to R402, R404, R417: what the Mordant die does (logs 24, 37, 61, 62 and 89: the model's choices). -/
def Obligations.MordantDie : Prop := Claims.Booting ∧ Claims.Keys ∧ Claims.Attestation

/-! ### Engines, interrupts, the heartbeat -/

/-- R205, R262, R306, R391: an interrupt is entered with its shadow registers and two issue cycles; a tick of hb every 128 ck, 5/3 ns each, while the servo slews away its offset by at most 1 ns (where in a millisecond the 100 ns fall is log 95); a spawnd parent is ready when its child has ended. -/
def Sys2Proof.Claims.CoreEvents : Prop := ∀ (s : State),
  let t := s.task
  (uintReady s = false → exec .uintEntry s = .next s)
    ∧ (∀ x rest b, uintReady s = true → t.uint.queue = x :: rest → fragOf t.info.ftab 255 = some b → ∃ u, exec .uintEntry s = .next u
      ∧ u.task.regs.pc = b ∧ u.task.regs.cyc = t.regs.cyc + 2 ∧ u.task.uint.queue = rest ∧ u.task.uint.ovf = false ∧ u.task.uint.inHandler = true ∧ u.task.uint.ret = t.regs.pc
      ∧ u.task.regs.read (.s 63) = row64 (x + (if t.uint.ovf then (0x1000000 : W64) else 0)) ∧ u.task.regs.read .rrb = 0
      ∧ u.task.uint.shS = (List.range 8).map (fun k => t.regs.getS (BitVec.ofNat 6 (56 + k))) ∧ u.task.uint.shP = [t.regs.getP 1, t.regs.getP 2, t.regs.getP 3] ∧ u.task.uint.shRrb = t.regs.rrb
      ∧ (∀ d, d ≠ .s 63 → d ≠ .rrb → u.task.regs.read d = t.regs.read d) ∧ u.task.plates = t.plates ∧ u.task.ports = t.ports)
    ∧ (s.clk.slew = 0 → ∃ u, exec .heartbeatTick s = .next u ∧ u.clk.ck = s.clk.ck / 128 * 128 + 128 ∧ u.clk.hb = s.clk.hb + 1
      ∧ 3 * u.clk.ftime + u.clk.sub = 3 * s.clk.ftime + s.clk.sub + 5 * (u.clk.ck - s.clk.ck) ∧ u.task.regs = t.regs ∧ u.mem = s.mem ∧ u.sched = s.sched ∧ u.side = s.side
      ∧ u.task.freeze = t.freeze.filter fun f => match f with
        | .hbw n => decide (u.clk.hb < n)
        | .fsc (some n) => decide (u.clk.hb < n)
        | _ => true)
    ∧ (∃ u d, exec .heartbeatTick s = .next u ∧ -1 ≤ d ∧ d ≤ 1 ∧ 0 ≤ d * s.clk.slew ∧ u.clk.slew = s.clk.slew - d
      ∧ 3 * (u.clk.ftime : Int) + u.clk.sub = 3 * s.clk.ftime + s.clk.sub + 5 * (128 - s.clk.ck % 128) + 3 * d)
    ∧ ∀ n i l uid q p slot, findInst s n = some i → findLaunch s i.seqno = some l → l.parent = some (uid, q) → findTask s uid = some p → p.place = .onChild slot →
      groupOfTask (focus s uid) = [uid] → (∀ m ∈ s.sched.launches, m.lr.seqno ≠ l.lr.seqno → ∀ x, m.parent = some x → x.1 ≠ uid) →
      (i.tasksLeft = 0 → i.closed = true → ∃ u x, exec (.spawndChildEnd n) s = .next u ∧ findTask u uid = some x ∧ x.place = .ready slot
          ∧ x.flights = (fillResult p q (row64 (spawnStatus l.lr.seqno (if i.failed then stFailed else stDone))) false).flights ∧ u.mem = s.mem)
        ∧ ((i.tasksLeft ≠ 0 ∨ i.closed = false) → exec (.spawndChildEnd n) s = .next s)

/-- R201, R202, R283 to R285, R288, R298, R301, R351: a copy engine moves a row of the scratchpad, to or from memory too; an operation completes: it hands its plates back, counts its counter down, which releases the launch bound to it or was 0 already, delivers its bytes to its barrier, queues its interrupt; a collective's status word, its outcome and its timeout; a compaction's end. -/
def Sys2Proof.Claims.EngineEvents : Prop := ∀ (s : State) (id : Nat) (o : EngOp), findOp s id = some o → findTask s o.owner = some s.task → o.owner = s.task.uid →
  let t := s.task
  let w := o.desc.toNat % 2 ^ 64
  let v := o.desc.toNat / 2 ^ 64 % 2 ^ 64
  let sa := sideAddr w (copyAddr o.desc t.info true o.row - (w % 2 ^ 61 : Nat))
  let da := sideAddr v (copyAddr o.desc t.info false o.row - (v % 2 ^ 61 : Nat))
  let same := fun (u : State) (x : Task) => ∃ a, u.task = { x with accLost := a } ∧ ∀ q ∈ a, q ∈ x.accLost
  let gone := fun (u : State) => u.sched = { s.sched with ops := s.sched.ops.filter fun p => p.id != id }
  let ended := o.steps ≠ 3 ∧ o.stopped = false ∧ o.total ≤ o.row
  let quietEnd := opHb o = false ∧ o.cw.getLsbD 30 = false ∧ ended
  let moves := o.stopped = false ∧ o.row < o.total ∧ powerFrozen s t = false ∧ s.mir.mute.contains o.die = false ∧ onCore t = true ∧ (∀ p ∈ opsOf s t.uid, o.id ≤ p.id)
    ∧ tileOf w = none ∧ tileOf v = none ∧ swf t.plates = true
  let counted := fun (u : State) => u.sched = { s.sched with ops := s.sched.ops.filter fun p => p.id != id, launches := u.sched.launches } ∧ same u t ∧ u.mem = s.mem
  let team := barTeam s t.info o
  let n := o.cw.toNat / 2 ^ 24 % 2 ^ 6
  let b := getBar s team n
  let q : Int := b.pend - (128 * o.total : Nat)
  let overrun := fun (u : State) => getBar u team n = { b with broken := true } ∧ ∃ c ∈ u.task.pending, c.cause = .barOverrun
  let irq : W64 := BitVec.ofNat 64 (o.cw.toNat / 2 ^ 32 % 2 ^ 8 + 2 ^ 8 * engNo o.kind + 2 ^ 16 * (engEntry o.kind % 256))
  (o.stopped = true → exec (.engineRow id) s = .next s)
    ∧ (s.mir.mute.contains o.die = true → exec (.engineRow id) s = .next s)
    ∧ (∀ e, o.kind = .copy e → moves → spaceOf w = 1 → spaceOf v = 1 → t.owners.getLsbD (sa / 16384) = true → t.owners.getLsbD (da / 16384) = true →
      ∃ u, exec (.engineRow id) s = .next u ∧ (∀ r, sget u.task.plates r = if r = da / 128 then sget t.plates (sa / 128) else sget t.plates r)
        ∧ (u.task.platePoison.contains (da / 128) = t.platePoison.contains (sa / 128)) ∧ findOp u id = some { o with row := o.row + 1 } ∧ u.task.regs = t.regs ∧ u.mem = s.mem)
    ∧ (∀ e s1 va pa coh fmt base bad, o.kind = .copy e → moves → spaceOf w = 0 → spaceOf v = 1 → isLocal sa = false → t.owners.getLsbD (da / 16384) = true →
      translate s t.info.part accEngRead (sa / 128 * 128) = .ok (s1, .glob va pa coh fmt base bad) → packedOf fmt = none → compHolds s o [sa] = false → quietRow s pa →
      ∃ u, exec (.engineRow id) s = .next u ∧ (∀ r, sget u.task.plates r = if r = da / 128 then readRow s.mem pa else sget t.plates r)
        ∧ (u.task.platePoison.contains (da / 128) = (bad || poisonedRow s (pa / 128))) ∧ findOp u id = some { o with row := o.row + 1 } ∧ u.task.regs = t.regs ∧ u.mem = s.mem)
    ∧ (∀ e s1 va pa coh fmt base bad, o.kind = .copy e → moves → spaceOf w = 1 → spaceOf v = 0 → isLocal da = false → t.owners.getLsbD (sa / 16384) = true → Memory.wf s.mem = true →
      translate s t.info.part accEngWrite (da / 128 * 128) = .ok (s1, .glob va pa coh fmt base bad) → packedOf fmt = none → compHolds s o [da] = false → quietRow s pa →
      ∃ u, exec (.engineRow id) s = .next u ∧ writesRow s u pa (sget t.plates (sa / 128)) ∧ poisonedRow u (pa / 128) = t.platePoison.contains (sa / 128)
        ∧ findOp u id = some { o with row := o.row + 1 } ∧ u.task.regs = t.regs)
    ∧ ((∃ e, o.kind = .copy e) ∨ o.kind = .gather →
      (o.row < o.total → exec (.engineComplete id) s = .next s)
      ∧ (quietEnd → o.cw.getLsbD 23 = false → o.cw.getLsbD 31 = false → ∃ u, exec (.engineComplete id) s = .next u ∧ gone u ∧ same u t ∧ u.mem = s.mem)
      ∧ (quietEnd → o.cw.getLsbD 23 = false → o.cw.getLsbD 31 = true → onCore t = true →
        (t.uint.queue.length < 16 → ∃ u, exec (.engineComplete id) s = .next u ∧ gone u ∧ same u { t with uint := { t.uint with queue := t.uint.queue ++ [irq] } } ∧ u.mem = s.mem)
        ∧ (16 ≤ t.uint.queue.length → ∃ u, exec (.engineComplete id) s = .next u ∧ gone u ∧ same u { t with uint := { t.uint with ovf := true } } ∧ u.mem = s.mem))
      ∧ (quietEnd → o.cw.getLsbD 23 = true → o.cw.getLsbD 31 = false → HasPart s t.info.part → swf (w := 32) (getPart s t.info.part).sch.counters = true →
        let c := o.cw.toNat % 2 ^ 12
        let x := sget (w := 32) (getPart s t.info.part).sch.counters c
        (2 ≤ x.toNat → ∃ u, exec (.engineComplete id) s = .next u ∧ gone u ∧ sget (w := 32) (getPart u t.info.part).sch.counters c = x - 1 ∧ same u t ∧ u.mem = s.mem)
        ∧ (x = 1 → ∃ u, exec (.engineComplete id) s = .next u ∧ counted u ∧ sget (w := 32) (getPart u t.info.part).sch.counters c = 0
          ∧ ∀ ctr seq l, (getPart s t.info.part).sch.bound.find? (fun e => e.1 == c) = some (ctr, seq) → findLaunch s seq = some l →
            findLaunch u seq = some { l with gateOpen := true } ∧ (getPart u t.info.part).sch.bound = (getPart s t.info.part).sch.bound.filter fun e => e.1 != c)
        ∧ (x = 0 → ringRoom s (ringOf s t.info.part false) → ∃ u, exec (.engineComplete id) s = .next u ∧ counted u ∧ sget (w := 32) (getPart u t.info.part).sch.counters c = 0
          ∧ EventRaised s u t.info.part 0x10 3 c))
      ∧ (ended → opHb o = true → o.cw.getLsbD 30 = false → o.cw.getLsbD 23 = false → o.cw.getLsbD 31 = false →
        (onCore t = true → ∃ u, exec (.engineComplete id) s = .next u ∧ gone u ∧ same u { t with owners := u.task.owners } ∧ u.mem = s.mem
          ∧ ∀ k < 128, u.task.owners.getLsbD k = true ↔ t.owners.getLsbD k = true
            ∧ (namesPlate t.info o k = false ∨ ∃ p ∈ opsOf s o.owner, p.id ≠ id ∧ opHb p = true ∧ namesPlate t.info p k = true))
        ∧ (onCore t = false → exec (.engineComplete id) s = .next s))
      ∧ (ended → opHb o = false → o.cw.getLsbD 30 = true → o.cw.getLsbD 23 = false → o.cw.getLsbD 31 = false → (∀ e ∈ s.sched.barSets, e.bars.length = 64) →
        ∃ u, exec (.engineComplete id) s = .next u ∧ findOp u id = none ∧ (∀ k < 64, k ≠ n → getBar u team k = getBar s team k)
          ∧ (b.broken = true → getBar u team n = b)
          ∧ (b.broken = false → o.tag ≠ b.phase → 0 < o.total → overrun u) ∧ (b.broken = false → o.total = 0 → o.tag ≠ b.phase → getBar u team n = b)
          ∧ (b.broken = false → o.tag = b.phase →
            ((b.posted = true ∧ q < 0) ∨ q < -2 ^ 31 → overrun u)
            ∧ (b.posted = true → q = 0 → 0 < o.total → getBar u team n = { b with pend := 0, phase := !b.phase, posted := false })
            ∧ (-2 ^ 31 ≤ q → (b.posted = false ∨ 0 < q) → getBar u team n = { b with pend := q }))))
    ∧ (o.kind = .coll →
      (∀ r, quietEnd → o.steps = 2 → o.cw.getLsbD 23 = false → o.cw.getLsbD 31 = false → let a := o.desc.toNat / 2 ^ (8 * 0x18) % 2 ^ 57 / 8 * 8
        o.desc.toNat / 2 ^ (8 * 0x18) % 2 ^ 64 / 2 ^ 61 = 0 → isLocal a = false → translate s t.info.part accEngWrite a = .ok r → tgtWaits s (rqDevice t.info.part) r.2 = false → compBars s o [a] = false →
        ∃ u, exec (.collEnd id) s = .next u ∧ findOp u id = none ∧ u.mem = (writeVirt s t.info.part a 8 (o.start % 2 ^ 32 * 2 ^ 32 + o.status)).mem)
      ∧ (o.steps = 1 → o.status = 1 → ∃ u x, exec (.collEnd id) s = .next u ∧ findOp u id = some x ∧ x.status = 1 ∧ x.steps = 2 ∧ x.row = 0 ∧ u.mem = s.mem)
      ∧ (∀ l : List RankData, o.steps = 1 → o.row = o.total → o.toSend = [] → o.status = 0 → (∀ p ∈ s.sched.ops, p.id = id → p = o) → (∀ p ∈ s.sched.ops, sameColl s o p = true → lowerTag s p = false) →
        l.length = o.ranks → collNeed s o = o.ranks → (∀ k < o.ranks, rankData s o k = l[k]?) →
        (collMismatch s o = true → ∃ u, exec (.collEnd id) s = .next u ∧ findOp u id = some { o with status := 3, steps := 2, row := 0, total := 0, buf := [], bad := [] } ∧ u.mem = s.mem)
        ∧ (collMismatch s o = false → ∃ u, exec (.collEnd id) s = .next u ∧ findOp u id = some { o with status := 0, steps := 2, row := 0, total := (collResult o.desc o.ranks l).1.length, buf := (collResult o.desc o.ranks l).1, bad := (collResult o.desc o.ranks l).2 } ∧ u.mem = s.mem))
      ∧ let tmo := o.desc.toNat / 2 ^ (8 * 0x2C) % 2 ^ 32
        let whole := contributed o = true ∧ ∀ k < collNeed s o, (rankData s o k).isSome = true
        (o.steps ≤ 1 → ¬ whole → tmo ≠ 0 → o.trigger + 1000 * tmo ≤ s.clk.ftime → ∃ u x, exec (.collTimeout id) s = .next u ∧ findOp u id = some x ∧ x.status = 2 ∧ x.steps = 2 ∧ x.row = 0 ∧ u.mem = s.mem ∧ u.task = t)
        ∧ ((2 ≤ o.steps ∨ whole ∨ tmo = 0 ∨ s.clk.ftime < o.trigger + 1000 * tmo) → exec (.collTimeout id) s = .next s))
    ∧ ((opsOf s t.uid).find? (fun p => p.kind == .compact && decide (p.total ≤ p.row) && !p.stopped) = some o → compHi o.desc = none →
      ∃ u, exec .compactionDone s = .next u ∧ gone u ∧ u.task = t ∧ u.mem = s.mem)
    ∧ ((∀ p ∈ opsOf s t.uid, p.kind ≠ .compact) → exec .compactionDone s = .next s)

/-- R205, R262, R283 to R285, R288, R298, R306, R351: what engines and cores bring about by themselves. -/
def Obligations.EnginesAndInterrupts : Prop := Claims.CoreEvents ∧ Claims.EngineEvents

/-! ### The words, the step, the invariant -/

/-- R21 to R26, R80 to R88: words written out of the encoding tables name the instructions they stand for. -/
def Obligations.DecodeWords : Prop :=
  let always : Guard := { inv := false, p := 0 }
  let names := fun (w : Nat) (i : Instr) => decodeTableWord 24 w = some i
  names 0x08A90F (.trap { g := always, src := .imm9 42 }) ∧ names 0x080D10 (.sys { g := always, src := .imm9 3 })
    ∧ names 0x08148A (.move always (.imm9 5) false (.port .ctlb)) ∧ names 0x080517 (.csrr { g := always, src := .imm9 1 })
    ∧ names 0x410D4B (.vfma { g := { inv := false, p := 4 }, src := .v 3 }) ∧ names 0x70051C (.ld { g := { inv := false, p := 7 }, src := .s 1 })
    ∧ names 0x7A00C0 (.add .sa0 { g := { inv := false, p := 7 }, src := .imm9 128 }) ∧ names 0x01092A (.amoAdd { g := always, src := .v 2 })
    ∧ names 0x00055F (.vrot { g := always, src := .s 1 }) ∧ names 0x080190 (.bwait { g := always, src := .imm9 0 })
    ∧ names 0x080592 (.cstage { g := always, src := .imm9 1 }) ∧ names 0x08019E (.scmt { g := always, src := .imm9 0 })
    ∧ names 0x08419D (.acmpRun { g := always, src := .imm9 16 }) ∧ names 0x08899D (.acmpOut { g := always, src := .imm9 34 })

/-- R20 to R26, R83: every word that the encoder gives a move or an operation decodes to it, with every guard, source, hold bit, destination and immediate that the encoding admits. -/
def Obligations.DecodeOfEncode : Prop := ∀ i : Instr, i.hasOwnWord = true → ∃ b, encode i = some b ∧ decode b = i

/-- R20, R27, R182: where nothing of the device goes first, a step fetches the bundle at the pc, decodes it and runs it; a task alone on the device then stays in focus; what the agenda holds goes before, oldest first. That the agenda goes first, and that in an even clock a bundle goes before the device's own actions, is the model's order (log 1), which R20, R27 and R182 leave open. -/
def Obligations.StepRunsDecoded : Prop := ∀ (s : State),
  (∀ e rest, s.agenda = e :: rest → step s = exec e.event (focus { s with agenda := rest } e.uid))
    ∧ (s.agenda = [] → s.clk.ck % 2 = 0 → canIssue s = true → ∀ t, exec (decode (fetch s.task)) s = .next t →
      step s = .next (endTurn s t) ∧ (t.others = [] → step s = .next t))
    ∧ (s.task.regs.pc < s.task.info.codelen → fetch s.task = s.task.info.code.getD s.task.regs.pc nopBundle)
    ∧ (s.task.info.codelen ≤ s.task.regs.pc → fetch s.task = nopBundle)

/-- Every state has a next one: nothing ends a run. -/
def Obligations.EveryStepGoesOn : Prop := ∀ s : State, Steps s

/-- R9, R262: the canonical form of memory and hb as the count of every 128th ck are kept by every step. -/
def Obligations.SoundKept : Prop := ∀ s t : State, Sound s → step s = .next t → Sound t

/-- The state after reset is sound. -/
def Obligations.ResetSound : Prop := Sound State.reset

/-- R17, R217, R233, R262, R302, R317, R372, R387, R398, R403: what the spec says holds after reset; that memory lists nothing and partition 0 is there are the model's choices (log 3). -/
def Obligations.ResetState : Prop :=
  let s := State.reset
  (∀ n : BitVec 6, s.task.regs.read (.s n) = 0) ∧ (∀ n : BitVec 5, s.task.regs.read (.v n) = 0) ∧ (∀ n : BitVec 3, n ≠ 0 → s.task.regs.read (.p n) = 0 ∧ s.task.regs.read (.m n) = 0)
    ∧ s.task.regs.read (.p 0) = 1 ∧ s.task.regs.read (.m 0) = (BitVec.allOnes 128).setWidth 1024 ∧ s.task.regs.pc = 0 ∧ s.task.regs.cyc = 0
    ∧ s.clk.hb = 0 ∧ s.boot.boot = 0 ∧ s.boot.pwrBudget = 17500 ∧ (∀ n < 4, (pairAt s n).state = 3 ∧ (pairAt s n).fails = 0)
    ∧ (∀ p < 64, ∀ n < 4, (queueAt s p n).en = false ∧ (queueAt s p n).head = 0 ∧ (queueAt s p n).tail = 0)
    ∧ (∀ p < 64, (getPart s p).mem.ptroot = 0 ∧ (getPart s p).mem.hattr = 0 ∧ (getPart s p).sch.dlog = 0 ∧ (getPart s p).sch.stop = 0)
    ∧ (∀ r < 65, (ringAt s r).cfg.getLsbD 0 = false ∧ (ringAt s r).head = 0 ∧ (ringAt s r).tail = 0)
    ∧ (∀ n, (regionOf s n).deg = 0 ∧ (regionOf s n).home = n / 2 ^ 15) ∧ s.sched.launches = [] ∧ s.sched.insts = [] ∧ s.mem = []
end

