-- ==== Sys2Proof/Laws/State.lean ====
section
/-! SUPPORT. What the named updates of the state leave alone, a lemma for each field. -/

namespace Sys2Proof.Machine

@[simp] theorem modAllTasks_mem (s : State) (f : Task → Task) : (modAllTasks s f).mem = s.mem := rfl
@[simp] theorem modAllTasks_side (s : State) (f : Task → Task) : (modAllTasks s f).side = s.side := rfl
@[simp] theorem modAllTasks_sched (s : State) (f : Task → Task) : (modAllTasks s f).sched = s.sched := rfl
@[simp] theorem modAllTasks_parts (s : State) (f : Task → Task) : (modAllTasks s f).parts = s.parts := rfl
@[simp] theorem modAllTasks_rings (s : State) (f : Task → Task) : (modAllTasks s f).rings = s.rings := rfl
@[simp] theorem modAllTasks_ept (s : State) (f : Task → Task) : (modAllTasks s f).ept = s.ept := rfl
@[simp] theorem modAllTasks_mir (s : State) (f : Task → Task) : (modAllTasks s f).mir = s.mir := rfl
@[simp] theorem modAllTasks_boot (s : State) (f : Task → Task) : (modAllTasks s f).boot = s.boot := rfl
@[simp] theorem modAllTasks_clk (s : State) (f : Task → Task) : (modAllTasks s f).clk = s.clk := rfl
@[simp] theorem modAllTasks_agenda (s : State) (f : Task → Task) : (modAllTasks s f).agenda = s.agenda := rfl
@[simp] theorem modAllTasks_fresh (s : State) (f : Task → Task) : (modAllTasks s f).fresh = s.fresh := rfl
@[simp] theorem modAllTasks_seq (s : State) (f : Task → Task) : (modAllTasks s f).seq = s.seq := rfl

@[simp] theorem modPart_task (s : State) (p : Nat) (f : Part → Part) : (modPart s p f).task = s.task := rfl
@[simp] theorem modPart_others (s : State) (p : Nat) (f : Part → Part) : (modPart s p f).others = s.others := rfl
@[simp] theorem modPart_mem (s : State) (p : Nat) (f : Part → Part) : (modPart s p f).mem = s.mem := rfl
@[simp] theorem modPart_side (s : State) (p : Nat) (f : Part → Part) : (modPart s p f).side = s.side := rfl
@[simp] theorem modPart_sched (s : State) (p : Nat) (f : Part → Part) : (modPart s p f).sched = s.sched := rfl
@[simp] theorem modPart_rings (s : State) (p : Nat) (f : Part → Part) : (modPart s p f).rings = s.rings := rfl
@[simp] theorem modPart_ept (s : State) (p : Nat) (f : Part → Part) : (modPart s p f).ept = s.ept := rfl
@[simp] theorem modPart_mir (s : State) (p : Nat) (f : Part → Part) : (modPart s p f).mir = s.mir := rfl
@[simp] theorem modPart_boot (s : State) (p : Nat) (f : Part → Part) : (modPart s p f).boot = s.boot := rfl
@[simp] theorem modPart_clk (s : State) (p : Nat) (f : Part → Part) : (modPart s p f).clk = s.clk := rfl
@[simp] theorem modPart_agenda (s : State) (p : Nat) (f : Part → Part) : (modPart s p f).agenda = s.agenda := rfl
@[simp] theorem modPart_fresh (s : State) (p : Nat) (f : Part → Part) : (modPart s p f).fresh = s.fresh := rfl
@[simp] theorem modPart_seq (s : State) (p : Nat) (f : Part → Part) : (modPart s p f).seq = s.seq := rfl

@[simp] theorem modPM_task (s : State) (p : Nat) (f : PartMem → PartMem) : (modPM s p f).task = s.task := rfl
@[simp] theorem modPM_others (s : State) (p : Nat) (f : PartMem → PartMem) : (modPM s p f).others = s.others := rfl
@[simp] theorem modPM_mem (s : State) (p : Nat) (f : PartMem → PartMem) : (modPM s p f).mem = s.mem := rfl
@[simp] theorem modPM_side (s : State) (p : Nat) (f : PartMem → PartMem) : (modPM s p f).side = s.side := rfl
@[simp] theorem modPM_sched (s : State) (p : Nat) (f : PartMem → PartMem) : (modPM s p f).sched = s.sched := rfl
@[simp] theorem modPM_rings (s : State) (p : Nat) (f : PartMem → PartMem) : (modPM s p f).rings = s.rings := rfl
@[simp] theorem modPM_ept (s : State) (p : Nat) (f : PartMem → PartMem) : (modPM s p f).ept = s.ept := rfl
@[simp] theorem modPM_mir (s : State) (p : Nat) (f : PartMem → PartMem) : (modPM s p f).mir = s.mir := rfl
@[simp] theorem modPM_boot (s : State) (p : Nat) (f : PartMem → PartMem) : (modPM s p f).boot = s.boot := rfl
@[simp] theorem modPM_clk (s : State) (p : Nat) (f : PartMem → PartMem) : (modPM s p f).clk = s.clk := rfl
@[simp] theorem modPM_agenda (s : State) (p : Nat) (f : PartMem → PartMem) : (modPM s p f).agenda = s.agenda := rfl
@[simp] theorem modPM_fresh (s : State) (p : Nat) (f : PartMem → PartMem) : (modPM s p f).fresh = s.fresh := rfl
@[simp] theorem modPM_seq (s : State) (p : Nat) (f : PartMem → PartMem) : (modPM s p f).seq = s.seq := rfl

@[simp] theorem modPS_task (s : State) (p : Nat) (f : PartSched → PartSched) : (modPS s p f).task = s.task := rfl
@[simp] theorem modPS_others (s : State) (p : Nat) (f : PartSched → PartSched) : (modPS s p f).others = s.others := rfl
@[simp] theorem modPS_mem (s : State) (p : Nat) (f : PartSched → PartSched) : (modPS s p f).mem = s.mem := rfl
@[simp] theorem modPS_side (s : State) (p : Nat) (f : PartSched → PartSched) : (modPS s p f).side = s.side := rfl
@[simp] theorem modPS_sched (s : State) (p : Nat) (f : PartSched → PartSched) : (modPS s p f).sched = s.sched := rfl
@[simp] theorem modPS_rings (s : State) (p : Nat) (f : PartSched → PartSched) : (modPS s p f).rings = s.rings := rfl
@[simp] theorem modPS_ept (s : State) (p : Nat) (f : PartSched → PartSched) : (modPS s p f).ept = s.ept := rfl
@[simp] theorem modPS_mir (s : State) (p : Nat) (f : PartSched → PartSched) : (modPS s p f).mir = s.mir := rfl
@[simp] theorem modPS_boot (s : State) (p : Nat) (f : PartSched → PartSched) : (modPS s p f).boot = s.boot := rfl
@[simp] theorem modPS_clk (s : State) (p : Nat) (f : PartSched → PartSched) : (modPS s p f).clk = s.clk := rfl
@[simp] theorem modPS_agenda (s : State) (p : Nat) (f : PartSched → PartSched) : (modPS s p f).agenda = s.agenda := rfl
@[simp] theorem modPS_fresh (s : State) (p : Nat) (f : PartSched → PartSched) : (modPS s p f).fresh = s.fresh := rfl
@[simp] theorem modPS_seq (s : State) (p : Nat) (f : PartSched → PartSched) : (modPS s p f).seq = s.seq := rfl

@[simp] theorem modPR_task (s : State) (p : Nat) (f : PartRes → PartRes) : (modPR s p f).task = s.task := rfl
@[simp] theorem modPR_others (s : State) (p : Nat) (f : PartRes → PartRes) : (modPR s p f).others = s.others := rfl
@[simp] theorem modPR_mem (s : State) (p : Nat) (f : PartRes → PartRes) : (modPR s p f).mem = s.mem := rfl
@[simp] theorem modPR_side (s : State) (p : Nat) (f : PartRes → PartRes) : (modPR s p f).side = s.side := rfl
@[simp] theorem modPR_sched (s : State) (p : Nat) (f : PartRes → PartRes) : (modPR s p f).sched = s.sched := rfl
@[simp] theorem modPR_rings (s : State) (p : Nat) (f : PartRes → PartRes) : (modPR s p f).rings = s.rings := rfl
@[simp] theorem modPR_ept (s : State) (p : Nat) (f : PartRes → PartRes) : (modPR s p f).ept = s.ept := rfl
@[simp] theorem modPR_mir (s : State) (p : Nat) (f : PartRes → PartRes) : (modPR s p f).mir = s.mir := rfl
@[simp] theorem modPR_boot (s : State) (p : Nat) (f : PartRes → PartRes) : (modPR s p f).boot = s.boot := rfl
@[simp] theorem modPR_clk (s : State) (p : Nat) (f : PartRes → PartRes) : (modPR s p f).clk = s.clk := rfl
@[simp] theorem modPR_agenda (s : State) (p : Nat) (f : PartRes → PartRes) : (modPR s p f).agenda = s.agenda := rfl
@[simp] theorem modPR_fresh (s : State) (p : Nat) (f : PartRes → PartRes) : (modPR s p f).fresh = s.fresh := rfl
@[simp] theorem modPR_seq (s : State) (p : Nat) (f : PartRes → PartRes) : (modPR s p f).seq = s.seq := rfl

@[simp] theorem modInst_task (s : State) (id : Nat) (f : Inst → Inst) : (modInst s id f).task = s.task := rfl
@[simp] theorem modInst_others (s : State) (id : Nat) (f : Inst → Inst) : (modInst s id f).others = s.others := rfl
@[simp] theorem modInst_mem (s : State) (id : Nat) (f : Inst → Inst) : (modInst s id f).mem = s.mem := rfl
@[simp] theorem modInst_side (s : State) (id : Nat) (f : Inst → Inst) : (modInst s id f).side = s.side := rfl
@[simp] theorem modInst_parts (s : State) (id : Nat) (f : Inst → Inst) : (modInst s id f).parts = s.parts := rfl
@[simp] theorem modInst_rings (s : State) (id : Nat) (f : Inst → Inst) : (modInst s id f).rings = s.rings := rfl
@[simp] theorem modInst_ept (s : State) (id : Nat) (f : Inst → Inst) : (modInst s id f).ept = s.ept := rfl
@[simp] theorem modInst_mir (s : State) (id : Nat) (f : Inst → Inst) : (modInst s id f).mir = s.mir := rfl
@[simp] theorem modInst_boot (s : State) (id : Nat) (f : Inst → Inst) : (modInst s id f).boot = s.boot := rfl
@[simp] theorem modInst_clk (s : State) (id : Nat) (f : Inst → Inst) : (modInst s id f).clk = s.clk := rfl
@[simp] theorem modInst_agenda (s : State) (id : Nat) (f : Inst → Inst) : (modInst s id f).agenda = s.agenda := rfl
@[simp] theorem modInst_fresh (s : State) (id : Nat) (f : Inst → Inst) : (modInst s id f).fresh = s.fresh := rfl
@[simp] theorem modInst_seq (s : State) (id : Nat) (f : Inst → Inst) : (modInst s id f).seq = s.seq := rfl

@[simp] theorem modLaunch_task (s : State) (seq : Nat) (f : LaunchState → LaunchState) : (modLaunch s seq f).task = s.task := rfl
@[simp] theorem modLaunch_others (s : State) (seq : Nat) (f : LaunchState → LaunchState) : (modLaunch s seq f).others = s.others := rfl
@[simp] theorem modLaunch_mem (s : State) (seq : Nat) (f : LaunchState → LaunchState) : (modLaunch s seq f).mem = s.mem := rfl
@[simp] theorem modLaunch_side (s : State) (seq : Nat) (f : LaunchState → LaunchState) : (modLaunch s seq f).side = s.side := rfl
@[simp] theorem modLaunch_parts (s : State) (seq : Nat) (f : LaunchState → LaunchState) : (modLaunch s seq f).parts = s.parts := rfl
@[simp] theorem modLaunch_rings (s : State) (seq : Nat) (f : LaunchState → LaunchState) : (modLaunch s seq f).rings = s.rings := rfl
@[simp] theorem modLaunch_ept (s : State) (seq : Nat) (f : LaunchState → LaunchState) : (modLaunch s seq f).ept = s.ept := rfl
@[simp] theorem modLaunch_mir (s : State) (seq : Nat) (f : LaunchState → LaunchState) : (modLaunch s seq f).mir = s.mir := rfl
@[simp] theorem modLaunch_boot (s : State) (seq : Nat) (f : LaunchState → LaunchState) : (modLaunch s seq f).boot = s.boot := rfl
@[simp] theorem modLaunch_clk (s : State) (seq : Nat) (f : LaunchState → LaunchState) : (modLaunch s seq f).clk = s.clk := rfl
@[simp] theorem modLaunch_agenda (s : State) (seq : Nat) (f : LaunchState → LaunchState) : (modLaunch s seq f).agenda = s.agenda := rfl
@[simp] theorem modLaunch_fresh (s : State) (seq : Nat) (f : LaunchState → LaunchState) : (modLaunch s seq f).fresh = s.fresh := rfl
@[simp] theorem modLaunch_seq (s : State) (seq : Nat) (f : LaunchState → LaunchState) : (modLaunch s seq f).seq = s.seq := rfl

@[simp] theorem modOp_task (s : State) (id : Nat) (f : EngOp → EngOp) : (modOp s id f).task = s.task := rfl
@[simp] theorem modOp_others (s : State) (id : Nat) (f : EngOp → EngOp) : (modOp s id f).others = s.others := rfl
@[simp] theorem modOp_mem (s : State) (id : Nat) (f : EngOp → EngOp) : (modOp s id f).mem = s.mem := rfl
@[simp] theorem modOp_side (s : State) (id : Nat) (f : EngOp → EngOp) : (modOp s id f).side = s.side := rfl
@[simp] theorem modOp_parts (s : State) (id : Nat) (f : EngOp → EngOp) : (modOp s id f).parts = s.parts := rfl
@[simp] theorem modOp_rings (s : State) (id : Nat) (f : EngOp → EngOp) : (modOp s id f).rings = s.rings := rfl
@[simp] theorem modOp_ept (s : State) (id : Nat) (f : EngOp → EngOp) : (modOp s id f).ept = s.ept := rfl
@[simp] theorem modOp_mir (s : State) (id : Nat) (f : EngOp → EngOp) : (modOp s id f).mir = s.mir := rfl
@[simp] theorem modOp_boot (s : State) (id : Nat) (f : EngOp → EngOp) : (modOp s id f).boot = s.boot := rfl
@[simp] theorem modOp_clk (s : State) (id : Nat) (f : EngOp → EngOp) : (modOp s id f).clk = s.clk := rfl
@[simp] theorem modOp_agenda (s : State) (id : Nat) (f : EngOp → EngOp) : (modOp s id f).agenda = s.agenda := rfl
@[simp] theorem modOp_fresh (s : State) (id : Nat) (f : EngOp → EngOp) : (modOp s id f).fresh = s.fresh := rfl
@[simp] theorem modOp_seq (s : State) (id : Nat) (f : EngOp → EngOp) : (modOp s id f).seq = s.seq := rfl

@[simp] theorem dropOp_task (s : State) (id : Nat) : (dropOp s id).task = s.task := rfl
@[simp] theorem dropOp_others (s : State) (id : Nat) : (dropOp s id).others = s.others := rfl
@[simp] theorem dropOp_mem (s : State) (id : Nat) : (dropOp s id).mem = s.mem := rfl
@[simp] theorem dropOp_side (s : State) (id : Nat) : (dropOp s id).side = s.side := rfl
@[simp] theorem dropOp_parts (s : State) (id : Nat) : (dropOp s id).parts = s.parts := rfl
@[simp] theorem dropOp_rings (s : State) (id : Nat) : (dropOp s id).rings = s.rings := rfl
@[simp] theorem dropOp_ept (s : State) (id : Nat) : (dropOp s id).ept = s.ept := rfl
@[simp] theorem dropOp_mir (s : State) (id : Nat) : (dropOp s id).mir = s.mir := rfl
@[simp] theorem dropOp_boot (s : State) (id : Nat) : (dropOp s id).boot = s.boot := rfl
@[simp] theorem dropOp_clk (s : State) (id : Nat) : (dropOp s id).clk = s.clk := rfl
@[simp] theorem dropOp_agenda (s : State) (id : Nat) : (dropOp s id).agenda = s.agenda := rfl
@[simp] theorem dropOp_fresh (s : State) (id : Nat) : (dropOp s id).fresh = s.fresh := rfl
@[simp] theorem dropOp_seq (s : State) (id : Nat) : (dropOp s id).seq = s.seq := rfl

@[simp] theorem dropOps_task (s : State) (uid : Nat) : (dropOps s uid).task = s.task := rfl
@[simp] theorem dropOps_others (s : State) (uid : Nat) : (dropOps s uid).others = s.others := rfl
@[simp] theorem dropOps_mem (s : State) (uid : Nat) : (dropOps s uid).mem = s.mem := rfl
@[simp] theorem dropOps_side (s : State) (uid : Nat) : (dropOps s uid).side = s.side := rfl
@[simp] theorem dropOps_parts (s : State) (uid : Nat) : (dropOps s uid).parts = s.parts := rfl
@[simp] theorem dropOps_rings (s : State) (uid : Nat) : (dropOps s uid).rings = s.rings := rfl
@[simp] theorem dropOps_ept (s : State) (uid : Nat) : (dropOps s uid).ept = s.ept := rfl
@[simp] theorem dropOps_mir (s : State) (uid : Nat) : (dropOps s uid).mir = s.mir := rfl
@[simp] theorem dropOps_boot (s : State) (uid : Nat) : (dropOps s uid).boot = s.boot := rfl
@[simp] theorem dropOps_clk (s : State) (uid : Nat) : (dropOps s uid).clk = s.clk := rfl
@[simp] theorem dropOps_agenda (s : State) (uid : Nat) : (dropOps s uid).agenda = s.agenda := rfl
@[simp] theorem dropOps_fresh (s : State) (uid : Nat) : (dropOps s uid).fresh = s.fresh := rfl
@[simp] theorem dropOps_seq (s : State) (uid : Nat) : (dropOps s uid).seq = s.seq := rfl

@[simp] theorem setBar_task (s : State) (i : TaskInfo) (n : Nat) (x : Barrier) : (setBar s i n x).task = s.task := rfl
@[simp] theorem setBar_others (s : State) (i : TaskInfo) (n : Nat) (x : Barrier) : (setBar s i n x).others = s.others := rfl
@[simp] theorem setBar_mem (s : State) (i : TaskInfo) (n : Nat) (x : Barrier) : (setBar s i n x).mem = s.mem := rfl
@[simp] theorem setBar_side (s : State) (i : TaskInfo) (n : Nat) (x : Barrier) : (setBar s i n x).side = s.side := rfl
@[simp] theorem setBar_parts (s : State) (i : TaskInfo) (n : Nat) (x : Barrier) : (setBar s i n x).parts = s.parts := rfl
@[simp] theorem setBar_rings (s : State) (i : TaskInfo) (n : Nat) (x : Barrier) : (setBar s i n x).rings = s.rings := rfl
@[simp] theorem setBar_ept (s : State) (i : TaskInfo) (n : Nat) (x : Barrier) : (setBar s i n x).ept = s.ept := rfl
@[simp] theorem setBar_mir (s : State) (i : TaskInfo) (n : Nat) (x : Barrier) : (setBar s i n x).mir = s.mir := rfl
@[simp] theorem setBar_boot (s : State) (i : TaskInfo) (n : Nat) (x : Barrier) : (setBar s i n x).boot = s.boot := rfl
@[simp] theorem setBar_clk (s : State) (i : TaskInfo) (n : Nat) (x : Barrier) : (setBar s i n x).clk = s.clk := rfl
@[simp] theorem setBar_agenda (s : State) (i : TaskInfo) (n : Nat) (x : Barrier) : (setBar s i n x).agenda = s.agenda := rfl
@[simp] theorem setBar_fresh (s : State) (i : TaskInfo) (n : Nat) (x : Barrier) : (setBar s i n x).fresh = s.fresh := rfl
@[simp] theorem setBar_seq (s : State) (i : TaskInfo) (n : Nat) (x : Barrier) : (setBar s i n x).seq = s.seq := rfl

@[simp] theorem modRing_task (s : State) (r : Nat) (f : Ring → Ring) : (modRing s r f).task = s.task := rfl
@[simp] theorem modRing_others (s : State) (r : Nat) (f : Ring → Ring) : (modRing s r f).others = s.others := rfl
@[simp] theorem modRing_mem (s : State) (r : Nat) (f : Ring → Ring) : (modRing s r f).mem = s.mem := rfl
@[simp] theorem modRing_side (s : State) (r : Nat) (f : Ring → Ring) : (modRing s r f).side = s.side := rfl
@[simp] theorem modRing_sched (s : State) (r : Nat) (f : Ring → Ring) : (modRing s r f).sched = s.sched := rfl
@[simp] theorem modRing_parts (s : State) (r : Nat) (f : Ring → Ring) : (modRing s r f).parts = s.parts := rfl
@[simp] theorem modRing_ept (s : State) (r : Nat) (f : Ring → Ring) : (modRing s r f).ept = s.ept := rfl
@[simp] theorem modRing_mir (s : State) (r : Nat) (f : Ring → Ring) : (modRing s r f).mir = s.mir := rfl
@[simp] theorem modRing_boot (s : State) (r : Nat) (f : Ring → Ring) : (modRing s r f).boot = s.boot := rfl
@[simp] theorem modRing_clk (s : State) (r : Nat) (f : Ring → Ring) : (modRing s r f).clk = s.clk := rfl
@[simp] theorem modRing_agenda (s : State) (r : Nat) (f : Ring → Ring) : (modRing s r f).agenda = s.agenda := rfl
@[simp] theorem modRing_fresh (s : State) (r : Nat) (f : Ring → Ring) : (modRing s r f).fresh = s.fresh := rfl
@[simp] theorem modRing_seq (s : State) (r : Nat) (f : Ring → Ring) : (modRing s r f).seq = s.seq := rfl

@[simp] theorem enqueueRec_task (s : State) (r : Nat) (w : BitVec 512) (retry : Bool) : (enqueueRec s r w retry).task = s.task := rfl
@[simp] theorem enqueueRec_others (s : State) (r : Nat) (w : BitVec 512) (retry : Bool) : (enqueueRec s r w retry).others = s.others := rfl
@[simp] theorem enqueueRec_mem (s : State) (r : Nat) (w : BitVec 512) (retry : Bool) : (enqueueRec s r w retry).mem = s.mem := rfl
@[simp] theorem enqueueRec_side (s : State) (r : Nat) (w : BitVec 512) (retry : Bool) : (enqueueRec s r w retry).side = s.side := rfl
@[simp] theorem enqueueRec_sched (s : State) (r : Nat) (w : BitVec 512) (retry : Bool) : (enqueueRec s r w retry).sched = s.sched := rfl
@[simp] theorem enqueueRec_parts (s : State) (r : Nat) (w : BitVec 512) (retry : Bool) : (enqueueRec s r w retry).parts = s.parts := rfl
@[simp] theorem enqueueRec_ept (s : State) (r : Nat) (w : BitVec 512) (retry : Bool) : (enqueueRec s r w retry).ept = s.ept := rfl
@[simp] theorem enqueueRec_mir (s : State) (r : Nat) (w : BitVec 512) (retry : Bool) : (enqueueRec s r w retry).mir = s.mir := rfl
@[simp] theorem enqueueRec_boot (s : State) (r : Nat) (w : BitVec 512) (retry : Bool) : (enqueueRec s r w retry).boot = s.boot := rfl
@[simp] theorem enqueueRec_clk (s : State) (r : Nat) (w : BitVec 512) (retry : Bool) : (enqueueRec s r w retry).clk = s.clk := rfl
@[simp] theorem enqueueRec_agenda (s : State) (r : Nat) (w : BitVec 512) (retry : Bool) : (enqueueRec s r w retry).agenda = s.agenda := rfl
@[simp] theorem enqueueRec_fresh (s : State) (r : Nat) (w : BitVec 512) (retry : Bool) : (enqueueRec s r w retry).fresh = s.fresh := rfl
@[simp] theorem enqueueRec_seq (s : State) (r : Nat) (w : BitVec 512) (retry : Bool) : (enqueueRec s r w retry).seq = s.seq := rfl

@[simp] theorem raiseRec_task (s : State) (r : RecData) (retry : Bool) : (raiseRec s r retry).task = s.task := rfl
@[simp] theorem raiseRec_others (s : State) (r : RecData) (retry : Bool) : (raiseRec s r retry).others = s.others := rfl
@[simp] theorem raiseRec_mem (s : State) (r : RecData) (retry : Bool) : (raiseRec s r retry).mem = s.mem := rfl
@[simp] theorem raiseRec_side (s : State) (r : RecData) (retry : Bool) : (raiseRec s r retry).side = s.side := rfl
@[simp] theorem raiseRec_sched (s : State) (r : RecData) (retry : Bool) : (raiseRec s r retry).sched = s.sched := rfl
@[simp] theorem raiseRec_parts (s : State) (r : RecData) (retry : Bool) : (raiseRec s r retry).parts = s.parts := rfl
@[simp] theorem raiseRec_ept (s : State) (r : RecData) (retry : Bool) : (raiseRec s r retry).ept = s.ept := rfl
@[simp] theorem raiseRec_mir (s : State) (r : RecData) (retry : Bool) : (raiseRec s r retry).mir = s.mir := rfl
@[simp] theorem raiseRec_boot (s : State) (r : RecData) (retry : Bool) : (raiseRec s r retry).boot = s.boot := rfl
@[simp] theorem raiseRec_clk (s : State) (r : RecData) (retry : Bool) : (raiseRec s r retry).clk = s.clk := rfl
@[simp] theorem raiseRec_agenda (s : State) (r : RecData) (retry : Bool) : (raiseRec s r retry).agenda = s.agenda := rfl
@[simp] theorem raiseRec_fresh (s : State) (r : RecData) (retry : Bool) : (raiseRec s r retry).fresh = s.fresh := rfl
@[simp] theorem raiseRec_seq (s : State) (r : RecData) (retry : Bool) : (raiseRec s r retry).seq = s.seq := rfl

@[simp] theorem raiseEvent_task (s : State) (part code kind info1 recAddr seqno : Nat) : (raiseEvent s part code kind info1 recAddr seqno).task = s.task := rfl
@[simp] theorem raiseEvent_others (s : State) (part code kind info1 recAddr seqno : Nat) : (raiseEvent s part code kind info1 recAddr seqno).others = s.others := rfl
@[simp] theorem raiseEvent_mem (s : State) (part code kind info1 recAddr seqno : Nat) : (raiseEvent s part code kind info1 recAddr seqno).mem = s.mem := rfl
@[simp] theorem raiseEvent_side (s : State) (part code kind info1 recAddr seqno : Nat) : (raiseEvent s part code kind info1 recAddr seqno).side = s.side := rfl
@[simp] theorem raiseEvent_sched (s : State) (part code kind info1 recAddr seqno : Nat) : (raiseEvent s part code kind info1 recAddr seqno).sched = s.sched := rfl
@[simp] theorem raiseEvent_parts (s : State) (part code kind info1 recAddr seqno : Nat) : (raiseEvent s part code kind info1 recAddr seqno).parts = s.parts := rfl
@[simp] theorem raiseEvent_ept (s : State) (part code kind info1 recAddr seqno : Nat) : (raiseEvent s part code kind info1 recAddr seqno).ept = s.ept := rfl
@[simp] theorem raiseEvent_mir (s : State) (part code kind info1 recAddr seqno : Nat) : (raiseEvent s part code kind info1 recAddr seqno).mir = s.mir := rfl
@[simp] theorem raiseEvent_boot (s : State) (part code kind info1 recAddr seqno : Nat) : (raiseEvent s part code kind info1 recAddr seqno).boot = s.boot := rfl
@[simp] theorem raiseEvent_clk (s : State) (part code kind info1 recAddr seqno : Nat) : (raiseEvent s part code kind info1 recAddr seqno).clk = s.clk := rfl
@[simp] theorem raiseEvent_agenda (s : State) (part code kind info1 recAddr seqno : Nat) : (raiseEvent s part code kind info1 recAddr seqno).agenda = s.agenda := rfl
@[simp] theorem raiseEvent_fresh (s : State) (part code kind info1 recAddr seqno : Nat) : (raiseEvent s part code kind info1 recAddr seqno).fresh = s.fresh := rfl
@[simp] theorem raiseEvent_seq (s : State) (part code kind info1 recAddr seqno : Nat) : (raiseEvent s part code kind info1 recAddr seqno).seq = s.seq := rfl

@[simp] theorem interruptFn_task (s : State) (fn : Nat) : (interruptFn s fn).task = s.task := rfl
@[simp] theorem interruptFn_others (s : State) (fn : Nat) : (interruptFn s fn).others = s.others := rfl
@[simp] theorem interruptFn_mem (s : State) (fn : Nat) : (interruptFn s fn).mem = s.mem := rfl
@[simp] theorem interruptFn_side (s : State) (fn : Nat) : (interruptFn s fn).side = s.side := rfl
@[simp] theorem interruptFn_sched (s : State) (fn : Nat) : (interruptFn s fn).sched = s.sched := rfl
@[simp] theorem interruptFn_parts (s : State) (fn : Nat) : (interruptFn s fn).parts = s.parts := rfl
@[simp] theorem interruptFn_rings (s : State) (fn : Nat) : (interruptFn s fn).rings = s.rings := rfl
@[simp] theorem interruptFn_ept (s : State) (fn : Nat) : (interruptFn s fn).ept = s.ept := rfl
@[simp] theorem interruptFn_mir (s : State) (fn : Nat) : (interruptFn s fn).mir = s.mir := rfl
@[simp] theorem interruptFn_clk (s : State) (fn : Nat) : (interruptFn s fn).clk = s.clk := rfl
@[simp] theorem interruptFn_agenda (s : State) (fn : Nat) : (interruptFn s fn).agenda = s.agenda := rfl
@[simp] theorem interruptFn_fresh (s : State) (fn : Nat) : (interruptFn s fn).fresh = s.fresh := rfl
@[simp] theorem interruptFn_seq (s : State) (fn : Nat) : (interruptFn s fn).seq = s.seq := rfl

@[simp] theorem tick_others (s : State) : (tick s).others = s.others := rfl
@[simp] theorem tick_mem (s : State) : (tick s).mem = s.mem := rfl
@[simp] theorem tick_side (s : State) : (tick s).side = s.side := rfl
@[simp] theorem tick_sched (s : State) : (tick s).sched = s.sched := rfl
@[simp] theorem tick_parts (s : State) : (tick s).parts = s.parts := rfl
@[simp] theorem tick_rings (s : State) : (tick s).rings = s.rings := rfl
@[simp] theorem tick_ept (s : State) : (tick s).ept = s.ept := rfl
@[simp] theorem tick_mir (s : State) : (tick s).mir = s.mir := rfl
@[simp] theorem tick_boot (s : State) : (tick s).boot = s.boot := rfl
@[simp] theorem tick_agenda (s : State) : (tick s).agenda = s.agenda := rfl
@[simp] theorem tick_fresh (s : State) : (tick s).fresh = s.fresh := rfl
@[simp] theorem tick_seq (s : State) : (tick s).seq = s.seq := rfl

@[simp] theorem freezeWith_others (s : State) (x : Freeze) : (freezeWith s x).others = s.others := rfl
@[simp] theorem freezeWith_mem (s : State) (x : Freeze) : (freezeWith s x).mem = s.mem := rfl
@[simp] theorem freezeWith_side (s : State) (x : Freeze) : (freezeWith s x).side = s.side := rfl
@[simp] theorem freezeWith_sched (s : State) (x : Freeze) : (freezeWith s x).sched = s.sched := rfl
@[simp] theorem freezeWith_parts (s : State) (x : Freeze) : (freezeWith s x).parts = s.parts := rfl
@[simp] theorem freezeWith_rings (s : State) (x : Freeze) : (freezeWith s x).rings = s.rings := rfl
@[simp] theorem freezeWith_ept (s : State) (x : Freeze) : (freezeWith s x).ept = s.ept := rfl
@[simp] theorem freezeWith_mir (s : State) (x : Freeze) : (freezeWith s x).mir = s.mir := rfl
@[simp] theorem freezeWith_boot (s : State) (x : Freeze) : (freezeWith s x).boot = s.boot := rfl
@[simp] theorem freezeWith_clk (s : State) (x : Freeze) : (freezeWith s x).clk = s.clk := rfl
@[simp] theorem freezeWith_agenda (s : State) (x : Freeze) : (freezeWith s x).agenda = s.agenda := rfl
@[simp] theorem freezeWith_fresh (s : State) (x : Freeze) : (freezeWith s x).fresh = s.fresh := rfl
@[simp] theorem freezeWith_seq (s : State) (x : Freeze) : (freezeWith s x).seq = s.seq := rfl

@[simp] theorem thaw_others (s : State) (x : Freeze) : (thaw s x).others = s.others := rfl
@[simp] theorem thaw_mem (s : State) (x : Freeze) : (thaw s x).mem = s.mem := rfl
@[simp] theorem thaw_side (s : State) (x : Freeze) : (thaw s x).side = s.side := rfl
@[simp] theorem thaw_sched (s : State) (x : Freeze) : (thaw s x).sched = s.sched := rfl
@[simp] theorem thaw_parts (s : State) (x : Freeze) : (thaw s x).parts = s.parts := rfl
@[simp] theorem thaw_rings (s : State) (x : Freeze) : (thaw s x).rings = s.rings := rfl
@[simp] theorem thaw_ept (s : State) (x : Freeze) : (thaw s x).ept = s.ept := rfl
@[simp] theorem thaw_mir (s : State) (x : Freeze) : (thaw s x).mir = s.mir := rfl
@[simp] theorem thaw_boot (s : State) (x : Freeze) : (thaw s x).boot = s.boot := rfl
@[simp] theorem thaw_clk (s : State) (x : Freeze) : (thaw s x).clk = s.clk := rfl
@[simp] theorem thaw_agenda (s : State) (x : Freeze) : (thaw s x).agenda = s.agenda := rfl
@[simp] theorem thaw_fresh (s : State) (x : Freeze) : (thaw s x).fresh = s.fresh := rfl
@[simp] theorem thaw_seq (s : State) (x : Freeze) : (thaw s x).seq = s.seq := rfl

@[simp] theorem eat_others (s : State) (l : List Port) : (eat s l).others = s.others := rfl
@[simp] theorem eat_mem (s : State) (l : List Port) : (eat s l).mem = s.mem := rfl
@[simp] theorem eat_side (s : State) (l : List Port) : (eat s l).side = s.side := rfl
@[simp] theorem eat_sched (s : State) (l : List Port) : (eat s l).sched = s.sched := rfl
@[simp] theorem eat_parts (s : State) (l : List Port) : (eat s l).parts = s.parts := rfl
@[simp] theorem eat_rings (s : State) (l : List Port) : (eat s l).rings = s.rings := rfl
@[simp] theorem eat_ept (s : State) (l : List Port) : (eat s l).ept = s.ept := rfl
@[simp] theorem eat_mir (s : State) (l : List Port) : (eat s l).mir = s.mir := rfl
@[simp] theorem eat_boot (s : State) (l : List Port) : (eat s l).boot = s.boot := rfl
@[simp] theorem eat_clk (s : State) (l : List Port) : (eat s l).clk = s.clk := rfl
@[simp] theorem eat_agenda (s : State) (l : List Port) : (eat s l).agenda = s.agenda := rfl
@[simp] theorem eat_fresh (s : State) (l : List Port) : (eat s l).fresh = s.fresh := rfl
@[simp] theorem eat_seq (s : State) (l : List Port) : (eat s l).seq = s.seq := rfl

@[simp] theorem modRegion_task (s : State) (n : Nat) (f : RegionState → RegionState) : (modRegion s n f).task = s.task := rfl
@[simp] theorem modRegion_others (s : State) (n : Nat) (f : RegionState → RegionState) : (modRegion s n f).others = s.others := rfl
@[simp] theorem modRegion_mem (s : State) (n : Nat) (f : RegionState → RegionState) : (modRegion s n f).mem = s.mem := rfl
@[simp] theorem modRegion_sched (s : State) (n : Nat) (f : RegionState → RegionState) : (modRegion s n f).sched = s.sched := rfl
@[simp] theorem modRegion_parts (s : State) (n : Nat) (f : RegionState → RegionState) : (modRegion s n f).parts = s.parts := rfl
@[simp] theorem modRegion_rings (s : State) (n : Nat) (f : RegionState → RegionState) : (modRegion s n f).rings = s.rings := rfl
@[simp] theorem modRegion_ept (s : State) (n : Nat) (f : RegionState → RegionState) : (modRegion s n f).ept = s.ept := rfl
@[simp] theorem modRegion_mir (s : State) (n : Nat) (f : RegionState → RegionState) : (modRegion s n f).mir = s.mir := rfl
@[simp] theorem modRegion_boot (s : State) (n : Nat) (f : RegionState → RegionState) : (modRegion s n f).boot = s.boot := rfl
@[simp] theorem modRegion_clk (s : State) (n : Nat) (f : RegionState → RegionState) : (modRegion s n f).clk = s.clk := rfl
@[simp] theorem modRegion_agenda (s : State) (n : Nat) (f : RegionState → RegionState) : (modRegion s n f).agenda = s.agenda := rfl
@[simp] theorem modRegion_fresh (s : State) (n : Nat) (f : RegionState → RegionState) : (modRegion s n f).fresh = s.fresh := rfl
@[simp] theorem modRegion_seq (s : State) (n : Nat) (f : RegionState → RegionState) : (modRegion s n f).seq = s.seq := rfl

@[simp] theorem setDir_task (s : State) (e : DirEntry) : (setDir s e).task = s.task := rfl
@[simp] theorem setDir_others (s : State) (e : DirEntry) : (setDir s e).others = s.others := rfl
@[simp] theorem setDir_mem (s : State) (e : DirEntry) : (setDir s e).mem = s.mem := rfl
@[simp] theorem setDir_sched (s : State) (e : DirEntry) : (setDir s e).sched = s.sched := rfl
@[simp] theorem setDir_parts (s : State) (e : DirEntry) : (setDir s e).parts = s.parts := rfl
@[simp] theorem setDir_rings (s : State) (e : DirEntry) : (setDir s e).rings = s.rings := rfl
@[simp] theorem setDir_ept (s : State) (e : DirEntry) : (setDir s e).ept = s.ept := rfl
@[simp] theorem setDir_mir (s : State) (e : DirEntry) : (setDir s e).mir = s.mir := rfl
@[simp] theorem setDir_boot (s : State) (e : DirEntry) : (setDir s e).boot = s.boot := rfl
@[simp] theorem setDir_clk (s : State) (e : DirEntry) : (setDir s e).clk = s.clk := rfl
@[simp] theorem setDir_agenda (s : State) (e : DirEntry) : (setDir s e).agenda = s.agenda := rfl
@[simp] theorem setDir_fresh (s : State) (e : DirEntry) : (setDir s e).fresh = s.fresh := rfl
@[simp] theorem setDir_seq (s : State) (e : DirEntry) : (setDir s e).seq = s.seq := rfl

@[simp] theorem noteAcc_task (s : State) (die pa : Nat) : (noteAcc s die pa).task = s.task := rfl
@[simp] theorem noteAcc_others (s : State) (die pa : Nat) : (noteAcc s die pa).others = s.others := rfl
@[simp] theorem noteAcc_mem (s : State) (die pa : Nat) : (noteAcc s die pa).mem = s.mem := rfl
@[simp] theorem noteAcc_sched (s : State) (die pa : Nat) : (noteAcc s die pa).sched = s.sched := rfl
@[simp] theorem noteAcc_parts (s : State) (die pa : Nat) : (noteAcc s die pa).parts = s.parts := rfl
@[simp] theorem noteAcc_rings (s : State) (die pa : Nat) : (noteAcc s die pa).rings = s.rings := rfl
@[simp] theorem noteAcc_ept (s : State) (die pa : Nat) : (noteAcc s die pa).ept = s.ept := rfl
@[simp] theorem noteAcc_mir (s : State) (die pa : Nat) : (noteAcc s die pa).mir = s.mir := rfl
@[simp] theorem noteAcc_boot (s : State) (die pa : Nat) : (noteAcc s die pa).boot = s.boot := rfl
@[simp] theorem noteAcc_clk (s : State) (die pa : Nat) : (noteAcc s die pa).clk = s.clk := rfl
@[simp] theorem noteAcc_agenda (s : State) (die pa : Nat) : (noteAcc s die pa).agenda = s.agenda := rfl
@[simp] theorem noteAcc_fresh (s : State) (die pa : Nat) : (noteAcc s die pa).fresh = s.fresh := rfl
@[simp] theorem noteAcc_seq (s : State) (die pa : Nat) : (noteAcc s die pa).seq = s.seq := rfl

@[simp] theorem addPoison_task (s : State) (rows : List Nat) : (addPoison s rows).task = s.task := rfl
@[simp] theorem addPoison_others (s : State) (rows : List Nat) : (addPoison s rows).others = s.others := rfl
@[simp] theorem addPoison_mem (s : State) (rows : List Nat) : (addPoison s rows).mem = s.mem := rfl
@[simp] theorem addPoison_sched (s : State) (rows : List Nat) : (addPoison s rows).sched = s.sched := rfl
@[simp] theorem addPoison_parts (s : State) (rows : List Nat) : (addPoison s rows).parts = s.parts := rfl
@[simp] theorem addPoison_rings (s : State) (rows : List Nat) : (addPoison s rows).rings = s.rings := rfl
@[simp] theorem addPoison_ept (s : State) (rows : List Nat) : (addPoison s rows).ept = s.ept := rfl
@[simp] theorem addPoison_mir (s : State) (rows : List Nat) : (addPoison s rows).mir = s.mir := rfl
@[simp] theorem addPoison_boot (s : State) (rows : List Nat) : (addPoison s rows).boot = s.boot := rfl
@[simp] theorem addPoison_clk (s : State) (rows : List Nat) : (addPoison s rows).clk = s.clk := rfl
@[simp] theorem addPoison_agenda (s : State) (rows : List Nat) : (addPoison s rows).agenda = s.agenda := rfl
@[simp] theorem addPoison_fresh (s : State) (rows : List Nat) : (addPoison s rows).fresh = s.fresh := rfl
@[simp] theorem addPoison_seq (s : State) (rows : List Nat) : (addPoison s rows).seq = s.seq := rfl

@[simp] theorem clearPoison_task (s : State) (rows : List Nat) : (clearPoison s rows).task = s.task := rfl
@[simp] theorem clearPoison_others (s : State) (rows : List Nat) : (clearPoison s rows).others = s.others := rfl
@[simp] theorem clearPoison_mem (s : State) (rows : List Nat) : (clearPoison s rows).mem = s.mem := rfl
@[simp] theorem clearPoison_sched (s : State) (rows : List Nat) : (clearPoison s rows).sched = s.sched := rfl
@[simp] theorem clearPoison_parts (s : State) (rows : List Nat) : (clearPoison s rows).parts = s.parts := rfl
@[simp] theorem clearPoison_rings (s : State) (rows : List Nat) : (clearPoison s rows).rings = s.rings := rfl
@[simp] theorem clearPoison_ept (s : State) (rows : List Nat) : (clearPoison s rows).ept = s.ept := rfl
@[simp] theorem clearPoison_mir (s : State) (rows : List Nat) : (clearPoison s rows).mir = s.mir := rfl
@[simp] theorem clearPoison_boot (s : State) (rows : List Nat) : (clearPoison s rows).boot = s.boot := rfl
@[simp] theorem clearPoison_clk (s : State) (rows : List Nat) : (clearPoison s rows).clk = s.clk := rfl
@[simp] theorem clearPoison_agenda (s : State) (rows : List Nat) : (clearPoison s rows).agenda = s.agenda := rfl
@[simp] theorem clearPoison_fresh (s : State) (rows : List Nat) : (clearPoison s rows).fresh = s.fresh := rfl
@[simp] theorem clearPoison_seq (s : State) (rows : List Nat) : (clearPoison s rows).seq = s.seq := rfl

@[simp] theorem l1Acquire_task (s : State) (core : Nat) : (l1Acquire s core).task = s.task := rfl
@[simp] theorem l1Acquire_others (s : State) (core : Nat) : (l1Acquire s core).others = s.others := rfl
@[simp] theorem l1Acquire_mem (s : State) (core : Nat) : (l1Acquire s core).mem = s.mem := rfl
@[simp] theorem l1Acquire_sched (s : State) (core : Nat) : (l1Acquire s core).sched = s.sched := rfl
@[simp] theorem l1Acquire_parts (s : State) (core : Nat) : (l1Acquire s core).parts = s.parts := rfl
@[simp] theorem l1Acquire_rings (s : State) (core : Nat) : (l1Acquire s core).rings = s.rings := rfl
@[simp] theorem l1Acquire_ept (s : State) (core : Nat) : (l1Acquire s core).ept = s.ept := rfl
@[simp] theorem l1Acquire_mir (s : State) (core : Nat) : (l1Acquire s core).mir = s.mir := rfl
@[simp] theorem l1Acquire_boot (s : State) (core : Nat) : (l1Acquire s core).boot = s.boot := rfl
@[simp] theorem l1Acquire_clk (s : State) (core : Nat) : (l1Acquire s core).clk = s.clk := rfl
@[simp] theorem l1Acquire_agenda (s : State) (core : Nat) : (l1Acquire s core).agenda = s.agenda := rfl
@[simp] theorem l1Acquire_fresh (s : State) (core : Nat) : (l1Acquire s core).fresh = s.fresh := rfl
@[simp] theorem l1Acquire_seq (s : State) (core : Nat) : (l1Acquire s core).seq = s.seq := rfl

@[simp] theorem l1Touch_task (s : State) (l : L1Line) : (l1Touch s l).task = s.task := rfl
@[simp] theorem l1Touch_others (s : State) (l : L1Line) : (l1Touch s l).others = s.others := rfl
@[simp] theorem l1Touch_mem (s : State) (l : L1Line) : (l1Touch s l).mem = s.mem := rfl
@[simp] theorem l1Touch_sched (s : State) (l : L1Line) : (l1Touch s l).sched = s.sched := rfl
@[simp] theorem l1Touch_parts (s : State) (l : L1Line) : (l1Touch s l).parts = s.parts := rfl
@[simp] theorem l1Touch_rings (s : State) (l : L1Line) : (l1Touch s l).rings = s.rings := rfl
@[simp] theorem l1Touch_ept (s : State) (l : L1Line) : (l1Touch s l).ept = s.ept := rfl
@[simp] theorem l1Touch_mir (s : State) (l : L1Line) : (l1Touch s l).mir = s.mir := rfl
@[simp] theorem l1Touch_boot (s : State) (l : L1Line) : (l1Touch s l).boot = s.boot := rfl
@[simp] theorem l1Touch_clk (s : State) (l : L1Line) : (l1Touch s l).clk = s.clk := rfl
@[simp] theorem l1Touch_agenda (s : State) (l : L1Line) : (l1Touch s l).agenda = s.agenda := rfl
@[simp] theorem l1Touch_fresh (s : State) (l : L1Line) : (l1Touch s l).fresh = s.fresh := rfl
@[simp] theorem l1Touch_seq (s : State) (l : L1Line) : (l1Touch s l).seq = s.seq := rfl

@[simp] theorem ioPost_task (s : State) (pa n x : Nat) : (ioPost s pa n x).task = s.task := rfl
@[simp] theorem ioPost_others (s : State) (pa n x : Nat) : (ioPost s pa n x).others = s.others := rfl
@[simp] theorem ioPost_mem (s : State) (pa n x : Nat) : (ioPost s pa n x).mem = s.mem := rfl
@[simp] theorem ioPost_sched (s : State) (pa n x : Nat) : (ioPost s pa n x).sched = s.sched := rfl
@[simp] theorem ioPost_parts (s : State) (pa n x : Nat) : (ioPost s pa n x).parts = s.parts := rfl
@[simp] theorem ioPost_rings (s : State) (pa n x : Nat) : (ioPost s pa n x).rings = s.rings := rfl
@[simp] theorem ioPost_ept (s : State) (pa n x : Nat) : (ioPost s pa n x).ept = s.ept := rfl
@[simp] theorem ioPost_mir (s : State) (pa n x : Nat) : (ioPost s pa n x).mir = s.mir := rfl
@[simp] theorem ioPost_boot (s : State) (pa n x : Nat) : (ioPost s pa n x).boot = s.boot := rfl
@[simp] theorem ioPost_clk (s : State) (pa n x : Nat) : (ioPost s pa n x).clk = s.clk := rfl
@[simp] theorem ioPost_agenda (s : State) (pa n x : Nat) : (ioPost s pa n x).agenda = s.agenda := rfl
@[simp] theorem ioPost_fresh (s : State) (pa n x : Nat) : (ioPost s pa n x).fresh = s.fresh := rfl
@[simp] theorem ioPost_seq (s : State) (pa n x : Nat) : (ioPost s pa n x).seq = s.seq := rfl

/-! ### Updates that look before they write -/

@[simp] theorem modTask_mem (s : State) (uid : Nat) (f : Task → Task) : (modTask s uid f).mem = s.mem := by
  unfold modTask; split <;> rfl
@[simp] theorem modTask_side (s : State) (uid : Nat) (f : Task → Task) : (modTask s uid f).side = s.side := by
  unfold modTask; split <;> rfl
@[simp] theorem modTask_sched (s : State) (uid : Nat) (f : Task → Task) : (modTask s uid f).sched = s.sched := by
  unfold modTask; split <;> rfl
@[simp] theorem modTask_parts (s : State) (uid : Nat) (f : Task → Task) : (modTask s uid f).parts = s.parts := by
  unfold modTask; split <;> rfl
@[simp] theorem modTask_rings (s : State) (uid : Nat) (f : Task → Task) : (modTask s uid f).rings = s.rings := by
  unfold modTask; split <;> rfl
@[simp] theorem modTask_ept (s : State) (uid : Nat) (f : Task → Task) : (modTask s uid f).ept = s.ept := by
  unfold modTask; split <;> rfl
@[simp] theorem modTask_mir (s : State) (uid : Nat) (f : Task → Task) : (modTask s uid f).mir = s.mir := by
  unfold modTask; split <;> rfl
@[simp] theorem modTask_boot (s : State) (uid : Nat) (f : Task → Task) : (modTask s uid f).boot = s.boot := by
  unfold modTask; split <;> rfl
@[simp] theorem modTask_clk (s : State) (uid : Nat) (f : Task → Task) : (modTask s uid f).clk = s.clk := by
  unfold modTask; split <;> rfl
@[simp] theorem modTask_agenda (s : State) (uid : Nat) (f : Task → Task) : (modTask s uid f).agenda = s.agenda := by
  unfold modTask; split <;> rfl
@[simp] theorem modTask_fresh (s : State) (uid : Nat) (f : Task → Task) : (modTask s uid f).fresh = s.fresh := by
  unfold modTask; split <;> rfl
@[simp] theorem modTask_seq (s : State) (uid : Nat) (f : Task → Task) : (modTask s uid f).seq = s.seq := by
  unfold modTask; split <;> rfl

@[simp] theorem focus_mem (s : State) (uid : Nat) : (focus s uid).mem = s.mem := by
  unfold focus; split
  · rfl
  · split <;> rfl
@[simp] theorem focus_side (s : State) (uid : Nat) : (focus s uid).side = s.side := by
  unfold focus; split
  · rfl
  · split <;> rfl
@[simp] theorem focus_sched (s : State) (uid : Nat) : (focus s uid).sched = s.sched := by
  unfold focus; split
  · rfl
  · split <;> rfl
@[simp] theorem focus_parts (s : State) (uid : Nat) : (focus s uid).parts = s.parts := by
  unfold focus; split
  · rfl
  · split <;> rfl
@[simp] theorem focus_rings (s : State) (uid : Nat) : (focus s uid).rings = s.rings := by
  unfold focus; split
  · rfl
  · split <;> rfl
@[simp] theorem focus_ept (s : State) (uid : Nat) : (focus s uid).ept = s.ept := by
  unfold focus; split
  · rfl
  · split <;> rfl
@[simp] theorem focus_mir (s : State) (uid : Nat) : (focus s uid).mir = s.mir := by
  unfold focus; split
  · rfl
  · split <;> rfl
@[simp] theorem focus_boot (s : State) (uid : Nat) : (focus s uid).boot = s.boot := by
  unfold focus; split
  · rfl
  · split <;> rfl
@[simp] theorem focus_clk (s : State) (uid : Nat) : (focus s uid).clk = s.clk := by
  unfold focus; split
  · rfl
  · split <;> rfl
@[simp] theorem focus_agenda (s : State) (uid : Nat) : (focus s uid).agenda = s.agenda := by
  unfold focus; split
  · rfl
  · split <;> rfl
@[simp] theorem focus_fresh (s : State) (uid : Nat) : (focus s uid).fresh = s.fresh := by
  unfold focus; split
  · rfl
  · split <;> rfl
@[simp] theorem focus_seq (s : State) (uid : Nat) : (focus s uid).seq = s.seq := by
  unfold focus; split
  · rfl
  · split <;> rfl

/-- The task in focus stays when it is asked for. -/
@[simp] theorem focus_self (s : State) : focus s s.task.uid = s := by simp [focus]

/-- A change of the task in focus. -/
@[simp] theorem modTask_self (s : State) (f : Task → Task) : modTask s s.task.uid f = { s with task := f s.task } := by simp [modTask]

@[simp] theorem tick_ck (s : State) : (tick s).clk.ck = s.clk.ck + 1 := rfl

/-! ### Repeated ticks -/

@[simp] theorem tickN_others (n : Nat) (s : State) : (tickN n s).others = s.others := by
  induction n generalizing s with
  | zero => rfl
  | succ n ih => exact ih (tick s)
@[simp] theorem tickN_mem (n : Nat) (s : State) : (tickN n s).mem = s.mem := by
  induction n generalizing s with
  | zero => rfl
  | succ n ih => exact ih (tick s)
@[simp] theorem tickN_side (n : Nat) (s : State) : (tickN n s).side = s.side := by
  induction n generalizing s with
  | zero => rfl
  | succ n ih => exact ih (tick s)
@[simp] theorem tickN_sched (n : Nat) (s : State) : (tickN n s).sched = s.sched := by
  induction n generalizing s with
  | zero => rfl
  | succ n ih => exact ih (tick s)
@[simp] theorem tickN_parts (n : Nat) (s : State) : (tickN n s).parts = s.parts := by
  induction n generalizing s with
  | zero => rfl
  | succ n ih => exact ih (tick s)
@[simp] theorem tickN_rings (n : Nat) (s : State) : (tickN n s).rings = s.rings := by
  induction n generalizing s with
  | zero => rfl
  | succ n ih => exact ih (tick s)
@[simp] theorem tickN_ept (n : Nat) (s : State) : (tickN n s).ept = s.ept := by
  induction n generalizing s with
  | zero => rfl
  | succ n ih => exact ih (tick s)
@[simp] theorem tickN_mir (n : Nat) (s : State) : (tickN n s).mir = s.mir := by
  induction n generalizing s with
  | zero => rfl
  | succ n ih => exact ih (tick s)
@[simp] theorem tickN_boot (n : Nat) (s : State) : (tickN n s).boot = s.boot := by
  induction n generalizing s with
  | zero => rfl
  | succ n ih => exact ih (tick s)
@[simp] theorem tickN_agenda (n : Nat) (s : State) : (tickN n s).agenda = s.agenda := by
  induction n generalizing s with
  | zero => rfl
  | succ n ih => exact ih (tick s)
@[simp] theorem tickN_fresh (n : Nat) (s : State) : (tickN n s).fresh = s.fresh := by
  induction n generalizing s with
  | zero => rfl
  | succ n ih => exact ih (tick s)
@[simp] theorem tickN_seq (n : Nat) (s : State) : (tickN n s).seq = s.seq := by
  induction n generalizing s with
  | zero => rfl
  | succ n ih => exact ih (tick s)

@[simp] theorem tickN_ck (n : Nat) (s : State) : (tickN n s).clk.ck = s.clk.ck + n := by
  induction n generalizing s with
  | zero => rfl
  | succ n ih => rw [tickN, ih, tick_ck]; omega

/-! ### Time changes nothing of a task but its meters -/

@[simp] theorem chargeTime_uid (ns : Nat) (t : Task) : (chargeTime ns t).uid = t.uid := by
  unfold chargeTime; split <;> rfl
@[simp] theorem tickN_task_uid (n : Nat) (s : State) : (tickN n s).task.uid = s.task.uid := by
  induction n generalizing s with
  | zero => rfl
  | succ n ih => rw [tickN, ih]; simp [tick]
@[simp] theorem chargeTime_info (ns : Nat) (t : Task) : (chargeTime ns t).info = t.info := by
  unfold chargeTime; split <;> rfl
@[simp] theorem tickN_task_info (n : Nat) (s : State) : (tickN n s).task.info = s.task.info := by
  induction n generalizing s with
  | zero => rfl
  | succ n ih => rw [tickN, ih]; simp [tick]
@[simp] theorem chargeTime_regs (ns : Nat) (t : Task) : (chargeTime ns t).regs = t.regs := by
  unfold chargeTime; split <;> rfl
@[simp] theorem tickN_task_regs (n : Nat) (s : State) : (tickN n s).task.regs = s.task.regs := by
  induction n generalizing s with
  | zero => rfl
  | succ n ih => rw [tickN, ih]; simp [tick]
@[simp] theorem chargeTime_ports (ns : Nat) (t : Task) : (chargeTime ns t).ports = t.ports := by
  unfold chargeTime; split <;> rfl
@[simp] theorem tickN_task_ports (n : Nat) (s : State) : (tickN n s).task.ports = s.task.ports := by
  induction n generalizing s with
  | zero => rfl
  | succ n ih => rw [tickN, ih]; simp [tick]
@[simp] theorem chargeTime_flights (ns : Nat) (t : Task) : (chargeTime ns t).flights = t.flights := by
  unfold chargeTime; split <;> rfl
@[simp] theorem tickN_task_flights (n : Nat) (s : State) : (tickN n s).task.flights = s.task.flights := by
  induction n generalizing s with
  | zero => rfl
  | succ n ih => rw [tickN, ih]; simp [tick]
@[simp] theorem chargeTime_lq (ns : Nat) (t : Task) : (chargeTime ns t).lq = t.lq := by
  unfold chargeTime; split <;> rfl
@[simp] theorem tickN_task_lq (n : Nat) (s : State) : (tickN n s).task.lq = s.task.lq := by
  induction n generalizing s with
  | zero => rfl
  | succ n ih => rw [tickN, ih]; simp [tick]
@[simp] theorem chargeTime_tiles (ns : Nat) (t : Task) : (chargeTime ns t).tiles = t.tiles := by
  unfold chargeTime; split <;> rfl
@[simp] theorem tickN_task_tiles (n : Nat) (s : State) : (tickN n s).task.tiles = s.task.tiles := by
  induction n generalizing s with
  | zero => rfl
  | succ n ih => rw [tickN, ih]; simp [tick]
@[simp] theorem chargeTime_tilePoison (ns : Nat) (t : Task) : (chargeTime ns t).tilePoison = t.tilePoison := by
  unfold chargeTime; split <;> rfl
@[simp] theorem tickN_task_tilePoison (n : Nat) (s : State) : (tickN n s).task.tilePoison = s.task.tilePoison := by
  induction n generalizing s with
  | zero => rfl
  | succ n ih => rw [tickN, ih]; simp [tick]
@[simp] theorem chargeTime_mx (ns : Nat) (t : Task) : (chargeTime ns t).mx = t.mx := by
  unfold chargeTime; split <;> rfl
@[simp] theorem tickN_task_mx (n : Nat) (s : State) : (tickN n s).task.mx = s.task.mx := by
  induction n generalizing s with
  | zero => rfl
  | succ n ih => rw [tickN, ih]; simp [tick]
@[simp] theorem chargeTime_lake (ns : Nat) (t : Task) : (chargeTime ns t).lake = t.lake := by
  unfold chargeTime; split <;> rfl
@[simp] theorem tickN_task_lake (n : Nat) (s : State) : (tickN n s).task.lake = s.task.lake := by
  induction n generalizing s with
  | zero => rfl
  | succ n ih => rw [tickN, ih]; simp [tick]
@[simp] theorem chargeTime_plates (ns : Nat) (t : Task) : (chargeTime ns t).plates = t.plates := by
  unfold chargeTime; split <;> rfl
@[simp] theorem tickN_task_plates (n : Nat) (s : State) : (tickN n s).task.plates = s.task.plates := by
  induction n generalizing s with
  | zero => rfl
  | succ n ih => rw [tickN, ih]; simp [tick]
@[simp] theorem chargeTime_platePoison (ns : Nat) (t : Task) : (chargeTime ns t).platePoison = t.platePoison := by
  unfold chargeTime; split <;> rfl
@[simp] theorem tickN_task_platePoison (n : Nat) (s : State) : (tickN n s).task.platePoison = s.task.platePoison := by
  induction n generalizing s with
  | zero => rfl
  | succ n ih => rw [tickN, ih]; simp [tick]
@[simp] theorem chargeTime_owners (ns : Nat) (t : Task) : (chargeTime ns t).owners = t.owners := by
  unfold chargeTime; split <;> rfl
@[simp] theorem tickN_task_owners (n : Nat) (s : State) : (tickN n s).task.owners = s.task.owners := by
  induction n generalizing s with
  | zero => rfl
  | succ n ih => rw [tickN, ih]; simp [tick]
@[simp] theorem chargeTime_stash (ns : Nat) (t : Task) : (chargeTime ns t).stash = t.stash := by
  unfold chargeTime; split <;> rfl
@[simp] theorem tickN_task_stash (n : Nat) (s : State) : (tickN n s).task.stash = s.task.stash := by
  induction n generalizing s with
  | zero => rfl
  | succ n ih => rw [tickN, ih]; simp [tick]
@[simp] theorem chargeTime_stashRows (ns : Nat) (t : Task) : (chargeTime ns t).stashRows = t.stashRows := by
  unfold chargeTime; split <;> rfl
@[simp] theorem tickN_task_stashRows (n : Nat) (s : State) : (tickN n s).task.stashRows = s.task.stashRows := by
  induction n generalizing s with
  | zero => rfl
  | succ n ih => rw [tickN, ih]; simp [tick]
@[simp] theorem chargeTime_memq (ns : Nat) (t : Task) : (chargeTime ns t).memq = t.memq := by
  unfold chargeTime; split <;> rfl
@[simp] theorem tickN_task_memq (n : Nat) (s : State) : (tickN n s).task.memq = s.task.memq := by
  induction n generalizing s with
  | zero => rfl
  | succ n ih => rw [tickN, ih]; simp [tick]
@[simp] theorem chargeTime_sc (ns : Nat) (t : Task) : (chargeTime ns t).sc = t.sc := by
  unfold chargeTime; split <;> rfl
@[simp] theorem tickN_task_sc (n : Nat) (s : State) : (tickN n s).task.sc = s.task.sc := by
  induction n generalizing s with
  | zero => rfl
  | succ n ih => rw [tickN, ih]; simp [tick]
@[simp] theorem chargeTime_released (ns : Nat) (t : Task) : (chargeTime ns t).released = t.released := by
  unfold chargeTime; split <;> rfl
@[simp] theorem tickN_task_released (n : Nat) (s : State) : (tickN n s).task.released = s.task.released := by
  induction n generalizing s with
  | zero => rfl
  | succ n ih => rw [tickN, ih]; simp [tick]
@[simp] theorem chargeTime_spec (ns : Nat) (t : Task) : (chargeTime ns t).spec = t.spec := by
  unfold chargeTime; split <;> rfl
@[simp] theorem tickN_task_spec (n : Nat) (s : State) : (tickN n s).task.spec = s.task.spec := by
  induction n generalizing s with
  | zero => rfl
  | succ n ih => rw [tickN, ih]; simp [tick]
@[simp] theorem chargeTime_uint (ns : Nat) (t : Task) : (chargeTime ns t).uint = t.uint := by
  unfold chargeTime; split <;> rfl
@[simp] theorem tickN_task_uint (n : Nat) (s : State) : (tickN n s).task.uint = s.task.uint := by
  induction n generalizing s with
  | zero => rfl
  | succ n ih => rw [tickN, ih]; simp [tick]
@[simp] theorem chargeTime_freeze (ns : Nat) (t : Task) : (chargeTime ns t).freeze = t.freeze := by
  unfold chargeTime; split <;> rfl
@[simp] theorem tickN_task_freeze (n : Nat) (s : State) : (tickN n s).task.freeze = s.task.freeze := by
  induction n generalizing s with
  | zero => rfl
  | succ n ih => rw [tickN, ih]; simp [tick]
@[simp] theorem chargeTime_pending (ns : Nat) (t : Task) : (chargeTime ns t).pending = t.pending := by
  unfold chargeTime; split <;> rfl
@[simp] theorem tickN_task_pending (n : Nat) (s : State) : (tickN n s).task.pending = s.task.pending := by
  induction n generalizing s with
  | zero => rfl
  | succ n ih => rw [tickN, ih]; simp [tick]
@[simp] theorem chargeTime_fused (ns : Nat) (t : Task) : (chargeTime ns t).fused = t.fused := by
  unfold chargeTime; split <;> rfl
@[simp] theorem tickN_task_fused (n : Nat) (s : State) : (tickN n s).task.fused = s.task.fused := by
  induction n generalizing s with
  | zero => rfl
  | succ n ih => rw [tickN, ih]; simp [tick]
@[simp] theorem chargeTime_place (ns : Nat) (t : Task) : (chargeTime ns t).place = t.place := by
  unfold chargeTime; split <;> rfl
@[simp] theorem tickN_task_place (n : Nat) (s : State) : (tickN n s).task.place = s.task.place := by
  induction n generalizing s with
  | zero => rfl
  | succ n ih => rw [tickN, ih]; simp [tick]
@[simp] theorem chargeTime_frame (ns : Nat) (t : Task) : (chargeTime ns t).frame = t.frame := by
  unfold chargeTime; split <;> rfl
@[simp] theorem tickN_task_frame (n : Nat) (s : State) : (tickN n s).task.frame = s.task.frame := by
  induction n generalizing s with
  | zero => rfl
  | succ n ih => rw [tickN, ih]; simp [tick]
@[simp] theorem chargeTime_egress (ns : Nat) (t : Task) : (chargeTime ns t).egress = t.egress := by
  unfold chargeTime; split <;> rfl
@[simp] theorem tickN_task_egress (n : Nat) (s : State) : (tickN n s).task.egress = s.task.egress := by
  induction n generalizing s with
  | zero => rfl
  | succ n ih => rw [tickN, ih]; simp [tick]
@[simp] theorem chargeTime_segHold (ns : Nat) (t : Task) : (chargeTime ns t).segHold = t.segHold := by
  unfold chargeTime; split <;> rfl
@[simp] theorem tickN_task_segHold (n : Nat) (s : State) : (tickN n s).task.segHold = s.task.segHold := by
  induction n generalizing s with
  | zero => rfl
  | succ n ih => rw [tickN, ih]; simp [tick]
@[simp] theorem chargeTime_dirty (ns : Nat) (t : Task) : (chargeTime ns t).dirty = t.dirty := by
  unfold chargeTime; split <;> rfl
@[simp] theorem tickN_task_dirty (n : Nat) (s : State) : (tickN n s).task.dirty = s.task.dirty := by
  induction n generalizing s with
  | zero => rfl
  | succ n ih => rw [tickN, ih]; simp [tick]
@[simp] theorem chargeTime_badRow (ns : Nat) (t : Task) : (chargeTime ns t).badRow = t.badRow := by
  unfold chargeTime; split <;> rfl
@[simp] theorem tickN_task_badRow (n : Nat) (s : State) : (tickN n s).task.badRow = s.task.badRow := by
  induction n generalizing s with
  | zero => rfl
  | succ n ih => rw [tickN, ih]; simp [tick]
@[simp] theorem chargeTime_accLost (ns : Nat) (t : Task) : (chargeTime ns t).accLost = t.accLost := by
  unfold chargeTime; split <;> rfl
@[simp] theorem tickN_task_accLost (n : Nat) (s : State) : (tickN n s).task.accLost = s.task.accLost := by
  induction n generalizing s with
  | zero => rfl
  | succ n ih => rw [tickN, ih]; simp [tick]

/-! ### A freeze that ends or begins touches only the freezes -/

@[simp] theorem thaw_task_uid (s : State) (x : Freeze) : (thaw s x).task.uid = s.task.uid := rfl
@[simp] theorem freezeWith_task_uid (s : State) (x : Freeze) : (freezeWith s x).task.uid = s.task.uid := rfl
@[simp] theorem thaw_task_info (s : State) (x : Freeze) : (thaw s x).task.info = s.task.info := rfl
@[simp] theorem freezeWith_task_info (s : State) (x : Freeze) : (freezeWith s x).task.info = s.task.info := rfl
@[simp] theorem thaw_task_regs (s : State) (x : Freeze) : (thaw s x).task.regs = s.task.regs := rfl
@[simp] theorem freezeWith_task_regs (s : State) (x : Freeze) : (freezeWith s x).task.regs = s.task.regs := rfl
@[simp] theorem thaw_task_ports (s : State) (x : Freeze) : (thaw s x).task.ports = s.task.ports := rfl
@[simp] theorem freezeWith_task_ports (s : State) (x : Freeze) : (freezeWith s x).task.ports = s.task.ports := rfl
@[simp] theorem thaw_task_flights (s : State) (x : Freeze) : (thaw s x).task.flights = s.task.flights := rfl
@[simp] theorem freezeWith_task_flights (s : State) (x : Freeze) : (freezeWith s x).task.flights = s.task.flights := rfl
@[simp] theorem thaw_task_lq (s : State) (x : Freeze) : (thaw s x).task.lq = s.task.lq := rfl
@[simp] theorem freezeWith_task_lq (s : State) (x : Freeze) : (freezeWith s x).task.lq = s.task.lq := rfl
@[simp] theorem thaw_task_tiles (s : State) (x : Freeze) : (thaw s x).task.tiles = s.task.tiles := rfl
@[simp] theorem freezeWith_task_tiles (s : State) (x : Freeze) : (freezeWith s x).task.tiles = s.task.tiles := rfl
@[simp] theorem thaw_task_tilePoison (s : State) (x : Freeze) : (thaw s x).task.tilePoison = s.task.tilePoison := rfl
@[simp] theorem freezeWith_task_tilePoison (s : State) (x : Freeze) : (freezeWith s x).task.tilePoison = s.task.tilePoison := rfl
@[simp] theorem thaw_task_mx (s : State) (x : Freeze) : (thaw s x).task.mx = s.task.mx := rfl
@[simp] theorem freezeWith_task_mx (s : State) (x : Freeze) : (freezeWith s x).task.mx = s.task.mx := rfl
@[simp] theorem thaw_task_lake (s : State) (x : Freeze) : (thaw s x).task.lake = s.task.lake := rfl
@[simp] theorem freezeWith_task_lake (s : State) (x : Freeze) : (freezeWith s x).task.lake = s.task.lake := rfl
@[simp] theorem thaw_task_plates (s : State) (x : Freeze) : (thaw s x).task.plates = s.task.plates := rfl
@[simp] theorem freezeWith_task_plates (s : State) (x : Freeze) : (freezeWith s x).task.plates = s.task.plates := rfl
@[simp] theorem thaw_task_platePoison (s : State) (x : Freeze) : (thaw s x).task.platePoison = s.task.platePoison := rfl
@[simp] theorem freezeWith_task_platePoison (s : State) (x : Freeze) : (freezeWith s x).task.platePoison = s.task.platePoison := rfl
@[simp] theorem thaw_task_owners (s : State) (x : Freeze) : (thaw s x).task.owners = s.task.owners := rfl
@[simp] theorem freezeWith_task_owners (s : State) (x : Freeze) : (freezeWith s x).task.owners = s.task.owners := rfl
@[simp] theorem thaw_task_stash (s : State) (x : Freeze) : (thaw s x).task.stash = s.task.stash := rfl
@[simp] theorem freezeWith_task_stash (s : State) (x : Freeze) : (freezeWith s x).task.stash = s.task.stash := rfl
@[simp] theorem thaw_task_stashRows (s : State) (x : Freeze) : (thaw s x).task.stashRows = s.task.stashRows := rfl
@[simp] theorem freezeWith_task_stashRows (s : State) (x : Freeze) : (freezeWith s x).task.stashRows = s.task.stashRows := rfl
@[simp] theorem thaw_task_memq (s : State) (x : Freeze) : (thaw s x).task.memq = s.task.memq := rfl
@[simp] theorem freezeWith_task_memq (s : State) (x : Freeze) : (freezeWith s x).task.memq = s.task.memq := rfl
@[simp] theorem thaw_task_sc (s : State) (x : Freeze) : (thaw s x).task.sc = s.task.sc := rfl
@[simp] theorem freezeWith_task_sc (s : State) (x : Freeze) : (freezeWith s x).task.sc = s.task.sc := rfl
@[simp] theorem thaw_task_released (s : State) (x : Freeze) : (thaw s x).task.released = s.task.released := rfl
@[simp] theorem freezeWith_task_released (s : State) (x : Freeze) : (freezeWith s x).task.released = s.task.released := rfl
@[simp] theorem thaw_task_spec (s : State) (x : Freeze) : (thaw s x).task.spec = s.task.spec := rfl
@[simp] theorem freezeWith_task_spec (s : State) (x : Freeze) : (freezeWith s x).task.spec = s.task.spec := rfl
@[simp] theorem thaw_task_uint (s : State) (x : Freeze) : (thaw s x).task.uint = s.task.uint := rfl
@[simp] theorem freezeWith_task_uint (s : State) (x : Freeze) : (freezeWith s x).task.uint = s.task.uint := rfl
@[simp] theorem thaw_task_pending (s : State) (x : Freeze) : (thaw s x).task.pending = s.task.pending := rfl
@[simp] theorem freezeWith_task_pending (s : State) (x : Freeze) : (freezeWith s x).task.pending = s.task.pending := rfl
@[simp] theorem thaw_task_fused (s : State) (x : Freeze) : (thaw s x).task.fused = s.task.fused := rfl
@[simp] theorem freezeWith_task_fused (s : State) (x : Freeze) : (freezeWith s x).task.fused = s.task.fused := rfl
@[simp] theorem thaw_task_place (s : State) (x : Freeze) : (thaw s x).task.place = s.task.place := rfl
@[simp] theorem freezeWith_task_place (s : State) (x : Freeze) : (freezeWith s x).task.place = s.task.place := rfl
@[simp] theorem thaw_task_frame (s : State) (x : Freeze) : (thaw s x).task.frame = s.task.frame := rfl
@[simp] theorem freezeWith_task_frame (s : State) (x : Freeze) : (freezeWith s x).task.frame = s.task.frame := rfl
@[simp] theorem thaw_task_egress (s : State) (x : Freeze) : (thaw s x).task.egress = s.task.egress := rfl
@[simp] theorem freezeWith_task_egress (s : State) (x : Freeze) : (freezeWith s x).task.egress = s.task.egress := rfl
@[simp] theorem thaw_task_segHold (s : State) (x : Freeze) : (thaw s x).task.segHold = s.task.segHold := rfl
@[simp] theorem freezeWith_task_segHold (s : State) (x : Freeze) : (freezeWith s x).task.segHold = s.task.segHold := rfl
@[simp] theorem thaw_task_dirty (s : State) (x : Freeze) : (thaw s x).task.dirty = s.task.dirty := rfl
@[simp] theorem freezeWith_task_dirty (s : State) (x : Freeze) : (freezeWith s x).task.dirty = s.task.dirty := rfl
@[simp] theorem thaw_task_badRow (s : State) (x : Freeze) : (thaw s x).task.badRow = s.task.badRow := rfl
@[simp] theorem freezeWith_task_badRow (s : State) (x : Freeze) : (freezeWith s x).task.badRow = s.task.badRow := rfl
@[simp] theorem thaw_task_accLost (s : State) (x : Freeze) : (thaw s x).task.accLost = s.task.accLost := rfl
@[simp] theorem freezeWith_task_accLost (s : State) (x : Freeze) : (freezeWith s x).task.accLost = s.task.accLost := rfl
@[simp] theorem thaw_task_time (s : State) (x : Freeze) : (thaw s x).task.time = s.task.time := rfl
@[simp] theorem freezeWith_task_time (s : State) (x : Freeze) : (freezeWith s x).task.time = s.task.time := rfl
@[simp] theorem thaw_task_freeze (s : State) (x : Freeze) : (thaw s x).task.freeze = s.task.freeze.filter (· != x) := rfl
@[simp] theorem freezeWith_task_freeze (s : State) (x : Freeze) : (freezeWith s x).task.freeze = s.task.freeze ++ [x] := rfl

end Sys2Proof.Machine
end

