-- ==== Sys2Proof/Laws/Issue.lean ====
section
/-! SUPPORT. What issuing a bundle of one operation does: one lemma for the issue, one for a result unit. -/

namespace Sys2Proof.Machine

/-- What the trigger of slot 0 is given. -/
def trigAt (s0 : State) (v : Row) : Trig :=
  { s0 := s0, val := v, slot := 0, seq := s0.seq + 1, cyc := s0.task.regs.cyc, free := freeTrig s0 0, lead := none }

/-- The end of a bundle of one slot: the pop of its source, the counters of the model. -/
def closed (s0 s : State) (a : Act) : State := { applyPop s a with fresh := s0.fresh + freePerBundle, seq := s0.seq + 16 }

/-- Nothing is asked for where every due result has its data. -/
theorem fetchLate_none {s : State} (h : lateSeqs s.task = []) : fetchLate s = s := by simp [fetchLate, h]

/-- No cause is taken at a boundary where none is pending. -/
theorem nextCause_none {t : Task} (h : t.pending = []) : nextCause t = none := by simp [nextCause, h]

theorem preIssue_ready {s : State} (h : Ready s) : preIssue s = .go (opened s) := by
  obtain ⟨h1, h2, h3, -, h5, -⟩ := h
  have late : lateSeqs (thaw s .stall).task = [] := h5
  have cause : nextCause (thaw s .stall).task = none := nextCause_none h3
  simp [preIssue, h1, h2, cause, fetchLate_none late, late, opened]

/-- A bundle of one act that neither traps nor waits. -/
theorem issueOne_any {mk : Nat → Act} {s s1 : State} (hr : Ready s) (on : actOn (opened s) none (mk 0) = true)
    (self : selfHits (opened s) (afterMoves (opened s) [mk 0]) none [mk 0] (mk 0) = false) (rdb : Readable s (mk 0).g (mk 0).src)
    (hrun : runTrigs (opened s) none [mk 0] (afterMoves (opened s) [mk 0]) = .ok s1)
    (clean : slotPoisoned (opened s) none (mk 0) = false) :
    issueOne mk s = .next (spend (opened s) (applyTodos (closed (opened s) s1 (mk 0)))) := by
  have hg : grouped s.task = false := hr.2.2.2.1
  have hc : conflictSlot (opened s) (afterMoves (opened s) [mk 0]) none [mk 0] = none := by
    simp [conflictSlot, self]
  have hp : poisonSlot (opened s) none [mk 0] = none := by simp [poisonSlot, clean]
  obtain ⟨hlq, hrx, -, -⟩ := rdb
  have key : issueTask [mk 0] none none (opened s) = .ok (closed (opened s) s1 (mk 0)) := by
    unfold issueTask
    simp only [List.filter_cons_of_pos (p := actOn (opened s) none) (a := mk 0) (l := []) on, List.filter_nil, hc, hrun, hp,
      List.foldl_cons, List.foldl_nil, closed]
    by_cases h1 : (mk 0).src = .lq
    · obtain ⟨e, r, he, hv⟩ := hlq h1
      obtain ⟨q, v, b⟩ := e
      cases v with
      | none => cases hv
      | some v => simp [h1, he]
    · by_cases h2 : (mk 0).src = .rxq
      · simp [h2, hrx h2]
      · simp [h1, h2]
  simp [issueOne, issue, hg, issueAlone, preIssue_ready hr, issueHeld, key]

/-- A bundle of one trigger that neither traps nor waits. -/
theorem issueOne_ok {mk : Nat → Act} {s s1 : State} (hr : Ready s) (on : actOn (opened s) none (mk 0) = true)
    (trig : (mk 0).dst = none) (self : selfHits (opened s) (afterMoves (opened s) [mk 0]) none [mk 0] (mk 0) = false)
    (rdb : Readable s (mk 0).g (mk 0).src) (slot : (mk 0).slot = 0)
    (run : (mk 0).fn (trigAt (opened s) (srcVal (opened s) (freeSrc (opened s) 0) (mk 0).src)) (begun s) = .ok s1)
    (clean : slotPoisoned (opened s) none (mk 0) = false) :
    issueOne mk s = .next (spend (opened s) (applyTodos (closed (opened s) s1 (mk 0)))) := by
  have ham : afterMoves (opened s) [mk 0] = begun s := by
    simp [afterMoves, applyMove, movedTiles, trig, begun]
    rfl
  have hv : actVal (opened s) none (mk 0) = srcVal (opened s) (freeSrc (opened s) 0) (mk 0).src := by
    simp [actVal, trig, slot]
  refine issueOne_any hr on self rdb ?_ clean
  rw [ham]
  simp only [runTrigs, trigOf, trig, Option.isSome_none, hv, slot]
  simp only [trigAt] at run
  simp [run]

/-- A bundle of one plain move. -/
theorem issueOne_move {g : Guard} {src : Src} {hold : Bool} {dst : MDst} {s : State} (hr : Ready s) (hg : Taken s g) (hs : Readable s g src)
    (self : selfHits (opened s) (afterMoves (opened s) [moveAct g src hold dst 0]) none [moveAct g src hold dst 0] (moveAct g src hold dst 0) = false) :
    issueOne (moveAct g src hold dst) s = .next (spend (opened s) (applyTodos (closed (opened s)
      (afterMoves (opened s) [moveAct g src hold dst 0]) (moveAct g src hold dst 0)))) := by
  refine issueOne_any hr ?_ self hs ?_ ?_
  · simpa [actOn, moveAct, Taken] using hg
  · simp [runTrigs, moveAct]
  · obtain ⟨-, -, h1, h2⟩ := hs
    simp [slotPoisoned, moveAct, h1, h2]

/-- A bundle whose one slot is squashed. -/
theorem issueOne_off {mk : Nat → Act} {s : State} (hr : Ready s) (off : actOn (opened s) none (mk 0) = false) :
    issueOne mk s = .next (spend (opened s) (applyTodos
      { afterMoves (opened s) [] with fresh := (opened s).fresh + freePerBundle, seq := (opened s).seq + 16 })) := by
  have key : issueTask [mk 0] none none (opened s) = .ok
      { afterMoves (opened s) [] with fresh := (opened s).fresh + freePerBundle, seq := (opened s).seq + 16 } := by
    simp [issueTask, off, conflictSlot, runTrigs, poisonSlot]
  have hg : grouped s.task = false := hr.2.2.2.1
  simp [issueOne, issue, hg, issueAlone, preIssue_ready hr, issueHeld, key]

/-- A result unit whose destination is good and whose operation gives a value. -/
theorem unitOp_ok {ports : List Port} {d : Port} {lat : Nat} {f : Trig → (Port → Row) → Except Trap Row} {g : Trig} {s : State}
    {dst : Dest} {x : Row} (hd : destOf (rrbRead g.s0) (rd64 g s d) = some dst) (hf : f g (rd g s) = .ok x) :
    unitOp ports d lat f g s = .ok { eat s (d :: ports) with task := sendResult (eat s (d :: ports)).task dst x (g.cyc + lat) g.seq } := by
  simp [unitOp, hd, hf]

end Sys2Proof.Machine
end

