-- ==== Sys2Proof/Laws/Operands.lean ====
section
/-! SUPPORT. Landings, results and pops: what each leaves alone; and the completion of a result unit. -/

namespace Sys2Proof.Machine

/-! ### A register write -/

@[simp] theorem write_pc (r : Regs) (d : RegDst) (x : Row) : (r.write d x).pc = r.pc := by
  cases d <;> simp only [Regs.write] <;> split <;> rfl
@[simp] theorem write_cyc (r : Regs) (d : RegDst) (x : Row) : (r.write d x).cyc = r.cyc := by
  cases d <;> simp only [Regs.write] <;> split <;> rfl

/-- The element of a vector that has been set. -/
theorem get_set_same {α : Type} {w : Nat} (v : Vector α (2 ^ w)) (a : BitVec w) (x : α) : (v.set a.toNat x a.isLt).get a.toFin = x := by
  show (v.set a.toNat x a.isLt)[a.toNat]'a.isLt = x
  simp

/-- Any other element. -/
theorem get_set_ne {α : Type} {w : Nat} (v : Vector α (2 ^ w)) (a b : BitVec w) (x : α) (h : b ≠ a) :
    (v.set a.toNat x a.isLt).get b.toFin = v.get b.toFin := by
  show (v.set a.toNat x a.isLt)[b.toNat]'b.isLt = v[b.toNat]'b.isLt
  exact Vector.getElem_set_ne _ _ fun e => h (BitVec.eq_of_toNat_eq e.symm)

/-- A written register reads as what it keeps of the value (R17, R19, R24). -/
theorem write_read_same (r : Regs) (d : RegDst) (x : Row) : (r.write d x).read d = holds d x := by
  cases d with
  | s n => simp only [Regs.write, Regs.read, Regs.getS, holds]; rw [get_set_same (w := 6) r.s n]
  | v n => exact get_set_same (w := 5) r.v n x
  | p n =>
    by_cases h : n = 0#3
    · simp [Regs.read, Regs.getP, holds, h, b2n]
    · simp only [Regs.write, Regs.read, Regs.getP, holds, BitVec.ofNat_eq_ofNat, h, if_false]
      rw [get_set_same (w := 3) r.p n]; simp only [bitAt]
  | m n =>
    by_cases h : n = 0#3
    · simp [Regs.read, Regs.getM, holds, h]
    · simp only [Regs.write, Regs.read, Regs.getM, holds, BitVec.ofNat_eq_ofNat, h, if_false]
      rw [get_set_same (w := 3) r.m n]
  | tcfg n => simp only [Regs.write, Regs.read, Regs.getT, holds, keepTcfg]; rw [get_set_same (w := 3) r.tcfg n]
  | _ => rfl

/-- Any other register reads as before. -/
theorem write_read_ne (r : Regs) (d e : RegDst) (x : Row) (h : e ≠ d) : (r.write d x).read e = r.read e := by
  cases d with
  | s n => cases e with
    | s k => simp only [Regs.write, Regs.read, Regs.getS]; rw [get_set_ne (w := 6) r.s n k _ fun e => h (e ▸ rfl)]
    | _ => rfl
  | v n => cases e with
    | v k => exact get_set_ne (w := 5) r.v n k x fun e => h (e ▸ rfl)
    | _ => rfl
  | p n =>
    by_cases h0 : n = 0#3
    · simp [Regs.write, h0]
    · cases e with
      | p k =>
        simp only [Regs.write, Regs.read, Regs.getP, BitVec.ofNat_eq_ofNat, h0, if_false]
        rw [get_set_ne (w := 3) r.p n k _ fun e => h (e ▸ rfl)]
      | _ => simp only [Regs.write, BitVec.ofNat_eq_ofNat, h0, if_false]; rfl
  | m n =>
    by_cases h0 : n = 0#3
    · simp [Regs.write, h0]
    · cases e with
      | m k =>
        simp only [Regs.write, Regs.read, Regs.getM, BitVec.ofNat_eq_ofNat, h0, if_false]
        rw [get_set_ne (w := 3) r.m n k _ fun e => h (e ▸ rfl)]
      | _ => simp only [Regs.write, BitVec.ofNat_eq_ofNat, h0, if_false]; rfl
  | tcfg n => cases e with
    | tcfg k => simp only [Regs.write, Regs.read, Regs.getT]; rw [get_set_ne (w := 3) r.tcfg n k _ fun e => h (e ▸ rfl)]
    | _ => rfl
  | acp | rrb | lc | ec | mcfg | pcfg => cases e <;> first | rfl | exact absurd rfl h
/-! ### Landing -/

@[simp] theorem landOne_uid (t : Task) (f : Flight) : (landOne t f).uid = t.uid := by
  unfold landOne; split
  · rfl
  · split <;> (try split) <;> rfl
@[simp] theorem landOne_info (t : Task) (f : Flight) : (landOne t f).info = t.info := by
  unfold landOne; split
  · rfl
  · split <;> (try split) <;> rfl
@[simp] theorem landOne_ports (t : Task) (f : Flight) : (landOne t f).ports = t.ports := by
  unfold landOne; split
  · rfl
  · split <;> (try split) <;> rfl
@[simp] theorem landOne_lq (t : Task) (f : Flight) : (landOne t f).lq = t.lq := by
  unfold landOne; split
  · rfl
  · split <;> (try split) <;> rfl
@[simp] theorem landOne_memq (t : Task) (f : Flight) : (landOne t f).memq = t.memq := by
  unfold landOne; split
  · rfl
  · split <;> (try split) <;> rfl
@[simp] theorem landOne_mx (t : Task) (f : Flight) : (landOne t f).mx = t.mx := by
  unfold landOne; split
  · rfl
  · split <;> (try split) <;> rfl
@[simp] theorem landOne_lake (t : Task) (f : Flight) : (landOne t f).lake = t.lake := by
  unfold landOne; split
  · rfl
  · split <;> (try split) <;> rfl
@[simp] theorem landOne_plates (t : Task) (f : Flight) : (landOne t f).plates = t.plates := by
  unfold landOne; split
  · rfl
  · split <;> (try split) <;> rfl
@[simp] theorem landOne_platePoison (t : Task) (f : Flight) : (landOne t f).platePoison = t.platePoison := by
  unfold landOne; split
  · rfl
  · split <;> (try split) <;> rfl
@[simp] theorem landOne_owners (t : Task) (f : Flight) : (landOne t f).owners = t.owners := by
  unfold landOne; split
  · rfl
  · split <;> (try split) <;> rfl
@[simp] theorem landOne_stash (t : Task) (f : Flight) : (landOne t f).stash = t.stash := by
  unfold landOne; split
  · rfl
  · split <;> (try split) <;> rfl
@[simp] theorem landOne_stashRows (t : Task) (f : Flight) : (landOne t f).stashRows = t.stashRows := by
  unfold landOne; split
  · rfl
  · split <;> (try split) <;> rfl
@[simp] theorem landOne_sc (t : Task) (f : Flight) : (landOne t f).sc = t.sc := by
  unfold landOne; split
  · rfl
  · split <;> (try split) <;> rfl
@[simp] theorem landOne_released (t : Task) (f : Flight) : (landOne t f).released = t.released := by
  unfold landOne; split
  · rfl
  · split <;> (try split) <;> rfl
@[simp] theorem landOne_spec (t : Task) (f : Flight) : (landOne t f).spec = t.spec := by
  unfold landOne; split
  · rfl
  · split <;> (try split) <;> rfl
@[simp] theorem landOne_uint (t : Task) (f : Flight) : (landOne t f).uint = t.uint := by
  unfold landOne; split
  · rfl
  · split <;> (try split) <;> rfl
@[simp] theorem landOne_freeze (t : Task) (f : Flight) : (landOne t f).freeze = t.freeze := by
  unfold landOne; split
  · rfl
  · split <;> (try split) <;> rfl
@[simp] theorem landOne_pending (t : Task) (f : Flight) : (landOne t f).pending = t.pending := by
  unfold landOne; split
  · rfl
  · split <;> (try split) <;> rfl
@[simp] theorem landOne_fused (t : Task) (f : Flight) : (landOne t f).fused = t.fused := by
  unfold landOne; split
  · rfl
  · split <;> (try split) <;> rfl
@[simp] theorem landOne_place (t : Task) (f : Flight) : (landOne t f).place = t.place := by
  unfold landOne; split
  · rfl
  · split <;> (try split) <;> rfl
@[simp] theorem landOne_time (t : Task) (f : Flight) : (landOne t f).time = t.time := by
  unfold landOne; split
  · rfl
  · split <;> (try split) <;> rfl
@[simp] theorem landOne_frame (t : Task) (f : Flight) : (landOne t f).frame = t.frame := by
  unfold landOne; split
  · rfl
  · split <;> (try split) <;> rfl
@[simp] theorem landOne_egress (t : Task) (f : Flight) : (landOne t f).egress = t.egress := by
  unfold landOne; split
  · rfl
  · split <;> (try split) <;> rfl
@[simp] theorem landOne_accLost (t : Task) (f : Flight) : (landOne t f).accLost = t.accLost := by
  unfold landOne; split
  · rfl
  · split <;> (try split) <;> rfl
@[simp] theorem landOne_pc (t : Task) (f : Flight) : (landOne t f).regs.pc = t.regs.pc := by
  unfold landOne; split
  · rfl
  · split <;> (try split) <;> simp [writeTile, noteLine]
@[simp] theorem landOne_cyc (t : Task) (f : Flight) : (landOne t f).regs.cyc = t.regs.cyc := by
  unfold landOne; split
  · rfl
  · split <;> (try split) <;> simp [writeTile, noteLine]

theorem landAll_uid (l : List Flight) (t : Task) : (l.foldl landOne t).uid = t.uid := by
  induction l generalizing t with
  | nil => rfl
  | cons f l ih => simp [ih]
@[simp] theorem landDue_uid (t : Task) (now : Nat) : (landDue t now).uid = t.uid := by simp [landDue, landAll_uid]
theorem landAll_info (l : List Flight) (t : Task) : (l.foldl landOne t).info = t.info := by
  induction l generalizing t with
  | nil => rfl
  | cons f l ih => simp [ih]
@[simp] theorem landDue_info (t : Task) (now : Nat) : (landDue t now).info = t.info := by simp [landDue, landAll_info]
theorem landAll_ports (l : List Flight) (t : Task) : (l.foldl landOne t).ports = t.ports := by
  induction l generalizing t with
  | nil => rfl
  | cons f l ih => simp [ih]
@[simp] theorem landDue_ports (t : Task) (now : Nat) : (landDue t now).ports = t.ports := by simp [landDue, landAll_ports]
theorem landAll_lq (l : List Flight) (t : Task) : (l.foldl landOne t).lq = t.lq := by
  induction l generalizing t with
  | nil => rfl
  | cons f l ih => simp [ih]
@[simp] theorem landDue_lq (t : Task) (now : Nat) : (landDue t now).lq = t.lq := by simp [landDue, landAll_lq]
theorem landAll_memq (l : List Flight) (t : Task) : (l.foldl landOne t).memq = t.memq := by
  induction l generalizing t with
  | nil => rfl
  | cons f l ih => simp [ih]
@[simp] theorem landDue_memq (t : Task) (now : Nat) : (landDue t now).memq = t.memq := by simp [landDue, landAll_memq]
theorem landAll_mx (l : List Flight) (t : Task) : (l.foldl landOne t).mx = t.mx := by
  induction l generalizing t with
  | nil => rfl
  | cons f l ih => simp [ih]
@[simp] theorem landDue_mx (t : Task) (now : Nat) : (landDue t now).mx = t.mx := by simp [landDue, landAll_mx]
theorem landAll_lake (l : List Flight) (t : Task) : (l.foldl landOne t).lake = t.lake := by
  induction l generalizing t with
  | nil => rfl
  | cons f l ih => simp [ih]
@[simp] theorem landDue_lake (t : Task) (now : Nat) : (landDue t now).lake = t.lake := by simp [landDue, landAll_lake]
theorem landAll_plates (l : List Flight) (t : Task) : (l.foldl landOne t).plates = t.plates := by
  induction l generalizing t with
  | nil => rfl
  | cons f l ih => simp [ih]
@[simp] theorem landDue_plates (t : Task) (now : Nat) : (landDue t now).plates = t.plates := by simp [landDue, landAll_plates]
theorem landAll_platePoison (l : List Flight) (t : Task) : (l.foldl landOne t).platePoison = t.platePoison := by
  induction l generalizing t with
  | nil => rfl
  | cons f l ih => simp [ih]
@[simp] theorem landDue_platePoison (t : Task) (now : Nat) : (landDue t now).platePoison = t.platePoison := by simp [landDue, landAll_platePoison]
theorem landAll_owners (l : List Flight) (t : Task) : (l.foldl landOne t).owners = t.owners := by
  induction l generalizing t with
  | nil => rfl
  | cons f l ih => simp [ih]
@[simp] theorem landDue_owners (t : Task) (now : Nat) : (landDue t now).owners = t.owners := by simp [landDue, landAll_owners]
theorem landAll_stash (l : List Flight) (t : Task) : (l.foldl landOne t).stash = t.stash := by
  induction l generalizing t with
  | nil => rfl
  | cons f l ih => simp [ih]
@[simp] theorem landDue_stash (t : Task) (now : Nat) : (landDue t now).stash = t.stash := by simp [landDue, landAll_stash]
theorem landAll_stashRows (l : List Flight) (t : Task) : (l.foldl landOne t).stashRows = t.stashRows := by
  induction l generalizing t with
  | nil => rfl
  | cons f l ih => simp [ih]
@[simp] theorem landDue_stashRows (t : Task) (now : Nat) : (landDue t now).stashRows = t.stashRows := by simp [landDue, landAll_stashRows]
theorem landAll_sc (l : List Flight) (t : Task) : (l.foldl landOne t).sc = t.sc := by
  induction l generalizing t with
  | nil => rfl
  | cons f l ih => simp [ih]
@[simp] theorem landDue_sc (t : Task) (now : Nat) : (landDue t now).sc = t.sc := by simp [landDue, landAll_sc]
theorem landAll_released (l : List Flight) (t : Task) : (l.foldl landOne t).released = t.released := by
  induction l generalizing t with
  | nil => rfl
  | cons f l ih => simp [ih]
@[simp] theorem landDue_released (t : Task) (now : Nat) : (landDue t now).released = t.released := by simp [landDue, landAll_released]
theorem landAll_spec (l : List Flight) (t : Task) : (l.foldl landOne t).spec = t.spec := by
  induction l generalizing t with
  | nil => rfl
  | cons f l ih => simp [ih]
@[simp] theorem landDue_spec (t : Task) (now : Nat) : (landDue t now).spec = t.spec := by simp [landDue, landAll_spec]
theorem landAll_uint (l : List Flight) (t : Task) : (l.foldl landOne t).uint = t.uint := by
  induction l generalizing t with
  | nil => rfl
  | cons f l ih => simp [ih]
@[simp] theorem landDue_uint (t : Task) (now : Nat) : (landDue t now).uint = t.uint := by simp [landDue, landAll_uint]
theorem landAll_freeze (l : List Flight) (t : Task) : (l.foldl landOne t).freeze = t.freeze := by
  induction l generalizing t with
  | nil => rfl
  | cons f l ih => simp [ih]
@[simp] theorem landDue_freeze (t : Task) (now : Nat) : (landDue t now).freeze = t.freeze := by simp [landDue, landAll_freeze]
theorem landAll_pending (l : List Flight) (t : Task) : (l.foldl landOne t).pending = t.pending := by
  induction l generalizing t with
  | nil => rfl
  | cons f l ih => simp [ih]
@[simp] theorem landDue_pending (t : Task) (now : Nat) : (landDue t now).pending = t.pending := by simp [landDue, landAll_pending]
theorem landAll_fused (l : List Flight) (t : Task) : (l.foldl landOne t).fused = t.fused := by
  induction l generalizing t with
  | nil => rfl
  | cons f l ih => simp [ih]
@[simp] theorem landDue_fused (t : Task) (now : Nat) : (landDue t now).fused = t.fused := by simp [landDue, landAll_fused]
theorem landAll_place (l : List Flight) (t : Task) : (l.foldl landOne t).place = t.place := by
  induction l generalizing t with
  | nil => rfl
  | cons f l ih => simp [ih]
@[simp] theorem landDue_place (t : Task) (now : Nat) : (landDue t now).place = t.place := by simp [landDue, landAll_place]
theorem landAll_time (l : List Flight) (t : Task) : (l.foldl landOne t).time = t.time := by
  induction l generalizing t with
  | nil => rfl
  | cons f l ih => simp [ih]
@[simp] theorem landDue_time (t : Task) (now : Nat) : (landDue t now).time = t.time := by simp [landDue, landAll_time]
theorem landAll_frame (l : List Flight) (t : Task) : (l.foldl landOne t).frame = t.frame := by
  induction l generalizing t with
  | nil => rfl
  | cons f l ih => simp [ih]
@[simp] theorem landDue_frame (t : Task) (now : Nat) : (landDue t now).frame = t.frame := by simp [landDue, landAll_frame]
theorem landAll_egress (l : List Flight) (t : Task) : (l.foldl landOne t).egress = t.egress := by
  induction l generalizing t with
  | nil => rfl
  | cons f l ih => simp [ih]
theorem landAll_accLost (l : List Flight) (t : Task) : (l.foldl landOne t).accLost = t.accLost := by
  induction l generalizing t with
  | nil => rfl
  | cons f l ih => simp [ih]
@[simp] theorem landDue_egress (t : Task) (now : Nat) : (landDue t now).egress = t.egress := by simp [landDue, landAll_egress]
@[simp] theorem landDue_accLost (t : Task) (now : Nat) : (landDue t now).accLost = t.accLost := by simp [landDue, landAll_accLost]
theorem landAll_pc (l : List Flight) (t : Task) : (l.foldl landOne t).regs.pc = t.regs.pc := by
  induction l generalizing t with
  | nil => rfl
  | cons f l ih => simp [ih]
@[simp] theorem landDue_pc (t : Task) (now : Nat) : (landDue t now).regs.pc = t.regs.pc := by simp [landDue, landAll_pc]
theorem landAll_cyc (l : List Flight) (t : Task) : (l.foldl landOne t).regs.cyc = t.regs.cyc := by
  induction l generalizing t with
  | nil => rfl
  | cons f l ih => simp [ih]
@[simp] theorem landDue_cyc (t : Task) (now : Nat) : (landDue t now).regs.cyc = t.regs.cyc := by simp [landDue, landAll_cyc]

/-! ### The start of a bundle -/

@[simp] theorem opened_others (s : State) : (opened s).others = s.others := rfl
@[simp] theorem opened_mem (s : State) : (opened s).mem = s.mem := rfl
@[simp] theorem opened_side (s : State) : (opened s).side = s.side := rfl
@[simp] theorem opened_sched (s : State) : (opened s).sched = s.sched := rfl
@[simp] theorem opened_parts (s : State) : (opened s).parts = s.parts := rfl
@[simp] theorem opened_rings (s : State) : (opened s).rings = s.rings := rfl
@[simp] theorem opened_ept (s : State) : (opened s).ept = s.ept := rfl
@[simp] theorem opened_mir (s : State) : (opened s).mir = s.mir := rfl
@[simp] theorem opened_boot (s : State) : (opened s).boot = s.boot := rfl
@[simp] theorem opened_clk (s : State) : (opened s).clk = s.clk := rfl
@[simp] theorem opened_agenda (s : State) : (opened s).agenda = s.agenda := rfl
@[simp] theorem opened_fresh (s : State) : (opened s).fresh = s.fresh := rfl
@[simp] theorem opened_seq (s : State) : (opened s).seq = s.seq := rfl
@[simp] theorem opened_task_uid (s : State) : (opened s).task.uid = s.task.uid := by simp [opened]
@[simp] theorem opened_task_info (s : State) : (opened s).task.info = s.task.info := by simp [opened]
@[simp] theorem opened_task_ports (s : State) : (opened s).task.ports = s.task.ports := by simp [opened]
@[simp] theorem opened_task_lq (s : State) : (opened s).task.lq = s.task.lq := by simp [opened]
@[simp] theorem opened_task_memq (s : State) : (opened s).task.memq = s.task.memq := by simp [opened]
@[simp] theorem opened_task_mx (s : State) : (opened s).task.mx = s.task.mx := by simp [opened]
@[simp] theorem opened_task_lake (s : State) : (opened s).task.lake = s.task.lake := by simp [opened]
@[simp] theorem opened_task_plates (s : State) : (opened s).task.plates = s.task.plates := by simp [opened]
@[simp] theorem opened_task_platePoison (s : State) : (opened s).task.platePoison = s.task.platePoison := by simp [opened]
@[simp] theorem opened_task_owners (s : State) : (opened s).task.owners = s.task.owners := by simp [opened]
@[simp] theorem opened_task_stash (s : State) : (opened s).task.stash = s.task.stash := by simp [opened]
@[simp] theorem opened_task_stashRows (s : State) : (opened s).task.stashRows = s.task.stashRows := by simp [opened]
@[simp] theorem opened_task_sc (s : State) : (opened s).task.sc = s.task.sc := by simp [opened]
@[simp] theorem opened_task_released (s : State) : (opened s).task.released = s.task.released := by simp [opened]
@[simp] theorem opened_task_spec (s : State) : (opened s).task.spec = s.task.spec := by simp [opened]
@[simp] theorem opened_task_uint (s : State) : (opened s).task.uint = s.task.uint := by simp [opened]
@[simp] theorem opened_task_freeze (s : State) : (opened s).task.freeze = s.task.freeze.filter (· != .stall) := by simp [opened]
@[simp] theorem opened_task_pending (s : State) : (opened s).task.pending = s.task.pending := by simp [opened]
@[simp] theorem opened_task_fused (s : State) : (opened s).task.fused = s.task.fused := by simp [opened]
@[simp] theorem opened_task_place (s : State) : (opened s).task.place = s.task.place := by simp [opened]
@[simp] theorem opened_task_time (s : State) : (opened s).task.time = s.task.time := by simp [opened]
@[simp] theorem opened_task_frame (s : State) : (opened s).task.frame = s.task.frame := by simp [opened]
@[simp] theorem opened_task_egress (s : State) : (opened s).task.egress = s.task.egress := by simp [opened]
@[simp] theorem opened_task_accLost (s : State) : (opened s).task.accLost = s.task.accLost := by simp [opened]
@[simp] theorem opened_speculative (s : State) : speculative (opened s).task = speculative s.task := by
  unfold speculative iterOf; simp only [opened_task_spec, opened_task_fused, opened_task_uid]
@[simp] theorem opened_pc (s : State) : (opened s).task.regs.pc = s.task.regs.pc := by simp [opened]
@[simp] theorem opened_cyc (s : State) : (opened s).task.regs.cyc = s.task.regs.cyc := by simp [opened]

/-! ### A result joins the flights -/

@[simp] theorem addFlight_uid (t : Task) (f : Flight) : (addFlight t f).uid = t.uid := by
  unfold addFlight; split
  · split <;> rfl
  · rfl
  · rfl
@[simp] theorem sendResult_uid (t : Task) (d : Dest) (x : Row) (due seq : Nat) : (sendResult t d x due seq).uid = t.uid := by simp [sendResult]
@[simp] theorem addFlight_info (t : Task) (f : Flight) : (addFlight t f).info = t.info := by
  unfold addFlight; split
  · split <;> rfl
  · rfl
  · rfl
@[simp] theorem sendResult_info (t : Task) (d : Dest) (x : Row) (due seq : Nat) : (sendResult t d x due seq).info = t.info := by simp [sendResult]
@[simp] theorem addFlight_ports (t : Task) (f : Flight) : (addFlight t f).ports = t.ports := by
  unfold addFlight; split
  · split <;> rfl
  · rfl
  · rfl
@[simp] theorem sendResult_ports (t : Task) (d : Dest) (x : Row) (due seq : Nat) : (sendResult t d x due seq).ports = t.ports := by simp [sendResult]
@[simp] theorem addFlight_lq (t : Task) (f : Flight) : (addFlight t f).lq = t.lq := by
  unfold addFlight; split
  · split <;> rfl
  · rfl
  · rfl
@[simp] theorem sendResult_lq (t : Task) (d : Dest) (x : Row) (due seq : Nat) : (sendResult t d x due seq).lq = t.lq := by simp [sendResult]
@[simp] theorem addFlight_memq (t : Task) (f : Flight) : (addFlight t f).memq = t.memq := by
  unfold addFlight; split
  · split <;> rfl
  · rfl
  · rfl
@[simp] theorem sendResult_memq (t : Task) (d : Dest) (x : Row) (due seq : Nat) : (sendResult t d x due seq).memq = t.memq := by simp [sendResult]
@[simp] theorem addFlight_tiles (t : Task) (f : Flight) : (addFlight t f).tiles = t.tiles := by
  unfold addFlight; split
  · split <;> rfl
  · rfl
  · rfl
@[simp] theorem sendResult_tiles (t : Task) (d : Dest) (x : Row) (due seq : Nat) : (sendResult t d x due seq).tiles = t.tiles := by simp [sendResult]
@[simp] theorem addFlight_tilePoison (t : Task) (f : Flight) : (addFlight t f).tilePoison = t.tilePoison := by
  unfold addFlight; split
  · split <;> rfl
  · rfl
  · rfl
@[simp] theorem sendResult_tilePoison (t : Task) (d : Dest) (x : Row) (due seq : Nat) : (sendResult t d x due seq).tilePoison = t.tilePoison := by simp [sendResult]
@[simp] theorem addFlight_mx (t : Task) (f : Flight) : (addFlight t f).mx = t.mx := by
  unfold addFlight; split
  · split <;> rfl
  · rfl
  · rfl
@[simp] theorem sendResult_mx (t : Task) (d : Dest) (x : Row) (due seq : Nat) : (sendResult t d x due seq).mx = t.mx := by simp [sendResult]
@[simp] theorem addFlight_lake (t : Task) (f : Flight) : (addFlight t f).lake = t.lake := by
  unfold addFlight; split
  · split <;> rfl
  · rfl
  · rfl
@[simp] theorem sendResult_lake (t : Task) (d : Dest) (x : Row) (due seq : Nat) : (sendResult t d x due seq).lake = t.lake := by simp [sendResult]
@[simp] theorem addFlight_plates (t : Task) (f : Flight) : (addFlight t f).plates = t.plates := by
  unfold addFlight; split
  · split <;> rfl
  · rfl
  · rfl
@[simp] theorem sendResult_plates (t : Task) (d : Dest) (x : Row) (due seq : Nat) : (sendResult t d x due seq).plates = t.plates := by simp [sendResult]
@[simp] theorem addFlight_platePoison (t : Task) (f : Flight) : (addFlight t f).platePoison = t.platePoison := by
  unfold addFlight; split
  · split <;> rfl
  · rfl
  · rfl
@[simp] theorem sendResult_platePoison (t : Task) (d : Dest) (x : Row) (due seq : Nat) : (sendResult t d x due seq).platePoison = t.platePoison := by simp [sendResult]
@[simp] theorem addFlight_owners (t : Task) (f : Flight) : (addFlight t f).owners = t.owners := by
  unfold addFlight; split
  · split <;> rfl
  · rfl
  · rfl
@[simp] theorem sendResult_owners (t : Task) (d : Dest) (x : Row) (due seq : Nat) : (sendResult t d x due seq).owners = t.owners := by simp [sendResult]
@[simp] theorem addFlight_stash (t : Task) (f : Flight) : (addFlight t f).stash = t.stash := by
  unfold addFlight; split
  · split <;> rfl
  · rfl
  · rfl
@[simp] theorem sendResult_stash (t : Task) (d : Dest) (x : Row) (due seq : Nat) : (sendResult t d x due seq).stash = t.stash := by simp [sendResult]
@[simp] theorem addFlight_stashRows (t : Task) (f : Flight) : (addFlight t f).stashRows = t.stashRows := by
  unfold addFlight; split
  · split <;> rfl
  · rfl
  · rfl
@[simp] theorem sendResult_stashRows (t : Task) (d : Dest) (x : Row) (due seq : Nat) : (sendResult t d x due seq).stashRows = t.stashRows := by simp [sendResult]
@[simp] theorem addFlight_sc (t : Task) (f : Flight) : (addFlight t f).sc = t.sc := by
  unfold addFlight; split
  · split <;> rfl
  · rfl
  · rfl
@[simp] theorem sendResult_sc (t : Task) (d : Dest) (x : Row) (due seq : Nat) : (sendResult t d x due seq).sc = t.sc := by simp [sendResult]
@[simp] theorem addFlight_released (t : Task) (f : Flight) : (addFlight t f).released = t.released := by
  unfold addFlight; split
  · split <;> rfl
  · rfl
  · rfl
@[simp] theorem sendResult_released (t : Task) (d : Dest) (x : Row) (due seq : Nat) : (sendResult t d x due seq).released = t.released := by simp [sendResult]
@[simp] theorem addFlight_spec (t : Task) (f : Flight) : (addFlight t f).spec = t.spec := by
  unfold addFlight; split
  · split <;> rfl
  · rfl
  · rfl
@[simp] theorem sendResult_spec (t : Task) (d : Dest) (x : Row) (due seq : Nat) : (sendResult t d x due seq).spec = t.spec := by simp [sendResult]
@[simp] theorem addFlight_uint (t : Task) (f : Flight) : (addFlight t f).uint = t.uint := by
  unfold addFlight; split
  · split <;> rfl
  · rfl
  · rfl
@[simp] theorem sendResult_uint (t : Task) (d : Dest) (x : Row) (due seq : Nat) : (sendResult t d x due seq).uint = t.uint := by simp [sendResult]
@[simp] theorem addFlight_freeze (t : Task) (f : Flight) : (addFlight t f).freeze = t.freeze := by
  unfold addFlight; split
  · split <;> rfl
  · rfl
  · rfl
@[simp] theorem sendResult_freeze (t : Task) (d : Dest) (x : Row) (due seq : Nat) : (sendResult t d x due seq).freeze = t.freeze := by simp [sendResult]
@[simp] theorem addFlight_pending (t : Task) (f : Flight) : (addFlight t f).pending = t.pending := by
  unfold addFlight; split
  · split <;> rfl
  · rfl
  · rfl
@[simp] theorem sendResult_pending (t : Task) (d : Dest) (x : Row) (due seq : Nat) : (sendResult t d x due seq).pending = t.pending := by simp [sendResult]
@[simp] theorem addFlight_fused (t : Task) (f : Flight) : (addFlight t f).fused = t.fused := by
  unfold addFlight; split
  · split <;> rfl
  · rfl
  · rfl
@[simp] theorem sendResult_fused (t : Task) (d : Dest) (x : Row) (due seq : Nat) : (sendResult t d x due seq).fused = t.fused := by simp [sendResult]
@[simp] theorem addFlight_place (t : Task) (f : Flight) : (addFlight t f).place = t.place := by
  unfold addFlight; split
  · split <;> rfl
  · rfl
  · rfl
@[simp] theorem sendResult_place (t : Task) (d : Dest) (x : Row) (due seq : Nat) : (sendResult t d x due seq).place = t.place := by simp [sendResult]
@[simp] theorem addFlight_time (t : Task) (f : Flight) : (addFlight t f).time = t.time := by
  unfold addFlight; split
  · split <;> rfl
  · rfl
  · rfl
@[simp] theorem sendResult_time (t : Task) (d : Dest) (x : Row) (due seq : Nat) : (sendResult t d x due seq).time = t.time := by simp [sendResult]
@[simp] theorem addFlight_frame (t : Task) (f : Flight) : (addFlight t f).frame = t.frame := by
  unfold addFlight; split
  · split <;> rfl
  · rfl
  · rfl
@[simp] theorem sendResult_frame (t : Task) (d : Dest) (x : Row) (due seq : Nat) : (sendResult t d x due seq).frame = t.frame := by simp [sendResult]
@[simp] theorem addFlight_egress (t : Task) (f : Flight) : (addFlight t f).egress = t.egress := by
  unfold addFlight; split
  · split <;> rfl
  · rfl
  · rfl
@[simp] theorem addFlight_accLost (t : Task) (f : Flight) : (addFlight t f).accLost = t.accLost := by
  unfold addFlight; split
  · split <;> rfl
  · rfl
  · rfl
@[simp] theorem sendResult_egress (t : Task) (d : Dest) (x : Row) (due seq : Nat) : (sendResult t d x due seq).egress = t.egress := by simp [sendResult]
@[simp] theorem sendResult_accLost (t : Task) (d : Dest) (x : Row) (due seq : Nat) : (sendResult t d x due seq).accLost = t.accLost := by simp [sendResult]
@[simp] theorem addFlight_pc (t : Task) (f : Flight) : (addFlight t f).regs.pc = t.regs.pc := by
  unfold addFlight; split
  · split <;> rfl
  · rfl
  · rfl
@[simp] theorem sendResult_pc (t : Task) (d : Dest) (x : Row) (due seq : Nat) : (sendResult t d x due seq).regs.pc = t.regs.pc := by simp [sendResult]
@[simp] theorem addFlight_cyc (t : Task) (f : Flight) : (addFlight t f).regs.cyc = t.regs.cyc := by
  unfold addFlight; split
  · split <;> rfl
  · rfl
  · rfl
@[simp] theorem sendResult_cyc (t : Task) (d : Dest) (x : Row) (due seq : Nat) : (sendResult t d x due seq).regs.cyc = t.regs.cyc := by simp [sendResult]
@[simp] theorem addFlight_tcfg (t : Task) (f : Flight) : (addFlight t f).regs.tcfg = t.regs.tcfg := by
  unfold addFlight; split
  · split <;> rfl
  · rfl
  · rfl
@[simp] theorem sendResult_tcfg (t : Task) (d : Dest) (x : Row) (due seq : Nat) : (sendResult t d x due seq).regs.tcfg = t.regs.tcfg := by simp [sendResult]
@[simp] theorem addFlight_read (t : Task) (f : Flight) (d : RegDst) : (addFlight t f).regs.read d = t.regs.read d := by
  unfold addFlight; split
  · split <;> rfl
  · cases d <;> rfl
  · rfl
@[simp] theorem sendResult_read (t : Task) (e : Dest) (x : Row) (due seq : Nat) (d : RegDst) :
    (sendResult t e x due seq).regs.read d = t.regs.read d := by simp [sendResult]

/-- A result reads nothing of the task but its flights. -/
theorem sendResult_flights (t u : Task) (d : Dest) (x : Row) (due seq : Nat) (h : t.flights = u.flights) :
    (sendResult t d x due seq).flights = (sendResult u d x due seq).flights := by
  unfold sendResult addFlight; dsimp only
  split <;> simp [settle, h]

/-! ### The pop of a source -/

@[simp] theorem applyPop_others (s : State) (a : Act) : (applyPop s a).others = s.others := by
  unfold applyPop; split <;> (try split) <;> rfl
@[simp] theorem applyPop_mem (s : State) (a : Act) : (applyPop s a).mem = s.mem := by
  unfold applyPop; split <;> (try split) <;> rfl
@[simp] theorem applyPop_side (s : State) (a : Act) : (applyPop s a).side = s.side := by
  unfold applyPop; split <;> (try split) <;> rfl
@[simp] theorem applyPop_sched (s : State) (a : Act) : (applyPop s a).sched = s.sched := by
  unfold applyPop; split <;> (try split) <;> rfl
@[simp] theorem applyPop_parts (s : State) (a : Act) : (applyPop s a).parts = s.parts := by
  unfold applyPop; split <;> (try split) <;> rfl
@[simp] theorem applyPop_rings (s : State) (a : Act) : (applyPop s a).rings = s.rings := by
  unfold applyPop; split <;> (try split) <;> rfl
@[simp] theorem applyPop_ept (s : State) (a : Act) : (applyPop s a).ept = s.ept := by
  unfold applyPop; split <;> (try split) <;> rfl
@[simp] theorem applyPop_mir (s : State) (a : Act) : (applyPop s a).mir = s.mir := by
  unfold applyPop; split <;> (try split) <;> rfl
@[simp] theorem applyPop_boot (s : State) (a : Act) : (applyPop s a).boot = s.boot := by
  unfold applyPop; split <;> (try split) <;> rfl
@[simp] theorem applyPop_clk (s : State) (a : Act) : (applyPop s a).clk = s.clk := by
  unfold applyPop; split <;> (try split) <;> rfl
@[simp] theorem applyPop_agenda (s : State) (a : Act) : (applyPop s a).agenda = s.agenda := by
  unfold applyPop; split <;> (try split) <;> rfl
@[simp] theorem applyPop_fresh (s : State) (a : Act) : (applyPop s a).fresh = s.fresh := by
  unfold applyPop; split <;> (try split) <;> rfl
@[simp] theorem applyPop_seq (s : State) (a : Act) : (applyPop s a).seq = s.seq := by
  unfold applyPop; split <;> (try split) <;> rfl
@[simp] theorem applyPop_task_uid (s : State) (a : Act) : (applyPop s a).task.uid = s.task.uid := by
  unfold applyPop; split <;> (try split) <;> rfl
@[simp] theorem applyPop_task_info (s : State) (a : Act) : (applyPop s a).task.info = s.task.info := by
  unfold applyPop; split <;> (try split) <;> rfl
@[simp] theorem applyPop_task_ports (s : State) (a : Act) : (applyPop s a).task.ports = s.task.ports := by
  unfold applyPop; split <;> (try split) <;> rfl
@[simp] theorem applyPop_task_flights (s : State) (a : Act) : (applyPop s a).task.flights = s.task.flights := by
  unfold applyPop; split <;> (try split) <;> rfl
@[simp] theorem applyPop_task_memq (s : State) (a : Act) : (applyPop s a).task.memq = s.task.memq := by
  unfold applyPop; split <;> (try split) <;> rfl
@[simp] theorem applyPop_task_tiles (s : State) (a : Act) : (applyPop s a).task.tiles = s.task.tiles := by
  unfold applyPop; split <;> (try split) <;> rfl
@[simp] theorem applyPop_task_tilePoison (s : State) (a : Act) : (applyPop s a).task.tilePoison = s.task.tilePoison := by
  unfold applyPop; split <;> (try split) <;> rfl
@[simp] theorem applyPop_task_mx (s : State) (a : Act) : (applyPop s a).task.mx = s.task.mx := by
  unfold applyPop; split <;> (try split) <;> rfl
@[simp] theorem applyPop_task_lake (s : State) (a : Act) : (applyPop s a).task.lake = s.task.lake := by
  unfold applyPop; split <;> (try split) <;> rfl
@[simp] theorem applyPop_task_plates (s : State) (a : Act) : (applyPop s a).task.plates = s.task.plates := by
  unfold applyPop; split <;> (try split) <;> rfl
@[simp] theorem applyPop_task_platePoison (s : State) (a : Act) : (applyPop s a).task.platePoison = s.task.platePoison := by
  unfold applyPop; split <;> (try split) <;> rfl
@[simp] theorem applyPop_task_owners (s : State) (a : Act) : (applyPop s a).task.owners = s.task.owners := by
  unfold applyPop; split <;> (try split) <;> rfl
@[simp] theorem applyPop_task_stash (s : State) (a : Act) : (applyPop s a).task.stash = s.task.stash := by
  unfold applyPop; split <;> (try split) <;> rfl
@[simp] theorem applyPop_task_stashRows (s : State) (a : Act) : (applyPop s a).task.stashRows = s.task.stashRows := by
  unfold applyPop; split <;> (try split) <;> rfl
@[simp] theorem applyPop_task_sc (s : State) (a : Act) : (applyPop s a).task.sc = s.task.sc := by
  unfold applyPop; split <;> (try split) <;> rfl
@[simp] theorem applyPop_task_released (s : State) (a : Act) : (applyPop s a).task.released = s.task.released := by
  unfold applyPop; split <;> (try split) <;> rfl
@[simp] theorem applyPop_task_spec (s : State) (a : Act) : (applyPop s a).task.spec = s.task.spec := by
  unfold applyPop; split <;> (try split) <;> rfl
@[simp] theorem applyPop_task_uint (s : State) (a : Act) : (applyPop s a).task.uint = s.task.uint := by
  unfold applyPop; split <;> (try split) <;> rfl
@[simp] theorem applyPop_task_freeze (s : State) (a : Act) : (applyPop s a).task.freeze = s.task.freeze := by
  unfold applyPop; split <;> (try split) <;> rfl
@[simp] theorem applyPop_task_pending (s : State) (a : Act) : (applyPop s a).task.pending = s.task.pending := by
  unfold applyPop; split <;> (try split) <;> rfl
@[simp] theorem applyPop_task_fused (s : State) (a : Act) : (applyPop s a).task.fused = s.task.fused := by
  unfold applyPop; split <;> (try split) <;> rfl
@[simp] theorem applyPop_task_place (s : State) (a : Act) : (applyPop s a).task.place = s.task.place := by
  unfold applyPop; split <;> (try split) <;> rfl
@[simp] theorem applyPop_task_frame (s : State) (a : Act) : (applyPop s a).task.frame = s.task.frame := by
  unfold applyPop; split <;> (try split) <;> rfl
@[simp] theorem applyPop_task_egress (s : State) (a : Act) : (applyPop s a).task.egress = s.task.egress := by
  unfold applyPop; split <;> (try split) <;> rfl
@[simp] theorem applyPop_task_accLost (s : State) (a : Act) : (applyPop s a).task.accLost = s.task.accLost := by
  unfold applyPop; split <;> (try split) <;> rfl
@[simp] theorem applyPop_pc (s : State) (a : Act) : (applyPop s a).task.regs.pc = s.task.regs.pc := by
  unfold applyPop; split <;> (try split) <;> rfl
@[simp] theorem applyPop_cyc (s : State) (a : Act) : (applyPop s a).task.regs.cyc = s.task.regs.cyc := by
  unfold applyPop; split <;> (try split) <;> rfl

/-- A pop moves on the read pointer of its tile and no other register. -/
theorem applyPop_read (s : State) (a : Act) (d : RegDst) (h : poppedReg a.src d = false) : (applyPop s a).task.regs.read d = s.task.regs.read d := by
  unfold applyPop
  split
  · rfl
  · split <;> rfl
  · next k hk =>
    simp only [hk, poppedReg] at h
    cases d with
    | tcfg n =>
      have hn : n ≠ k := by simpa using h
      have hv : k.toNat ≠ n.toNat := fun e => hn (BitVec.eq_of_toNat_eq e.symm)
      simp only [Regs.read, Regs.getT]
      congr 1
      exact Vector.getElem_set_ne _ _ hv
    | _ => rfl
  · rfl

end Sys2Proof.Machine
end

