-- ==== Sys2Proof/Laws/Units.lean ====
section
/-! SUPPORT. A result unit completes: the one lemma behind the statements about operations that send a result. -/

namespace Sys2Proof.Machine

@[simp] theorem applyTodos_none (s : State) (h : s.task.spec.todo = []) : applyTodos s = s := by
  simp only [applyTodos, h, List.foldl_nil]
  rw [← h]

@[simp] theorem closed_regs_pc (s0 s : State) (a : Act) : (closed s0 s a).task.regs.pc = s.task.regs.pc := by simp [closed]
@[simp] theorem closed_regs_cyc (s0 s : State) (a : Act) : (closed s0 s a).task.regs.cyc = s.task.regs.cyc := by simp [closed]
@[simp] theorem closed_flights (s0 s : State) (a : Act) : (closed s0 s a).task.flights = s.task.flights := by simp [closed]
@[simp] theorem closed_ports (s0 s : State) (a : Act) : (closed s0 s a).task.ports = s.task.ports := by simp [closed]
@[simp] theorem closed_spec (s0 s : State) (a : Act) : (closed s0 s a).task.spec = s.task.spec := by simp [closed]

/-- A task that can issue stands frozen at most before its bundle, and no more once it is tried. -/
theorem opened_freeze_nil {s : State} (h : Ready s) : (opened s).task.freeze = [] := by
  have hh : heldAfter s.task = false := by
    have := h.1
    simp only [canIssue, Bool.and_eq_true, Bool.not_eq_true'] at this
    exact this.1.1.1.1.2
  simpa [heldAfter] using hh

/-- A slot that acts is not poisoned, where nothing beside its source and guard is read. -/
theorem slotPoisoned_plain {s : State} {a : Act} (ht : a.dst = none) (hr : ∀ v, a.reads (opened s) v = []) (hf : a.feed (opened s) = none)
    (h : Readable s a.g a.src) : slotPoisoned (opened s) none a = false := by
  obtain ⟨-, -, h1, h2⟩ := h
  simp [slotPoisoned, ht, hr, hf, h1, h2]

/-- An operation of slot 0 whose trigger goes well. -/
theorem issueOne_trig {u : Nat} {h : Head} {fn : TrigFn} {s s1 : State} (ha : Acts s h)
    (run : fn (trigAt (opened s) (trigVal s h)) (begun s) = .ok s1) :
    issueOne (trigAct u h fn) s = .next (spend (opened s) (applyTodos (closed (opened s) s1 (trigAct u h fn 0)))) := by
  obtain ⟨hr, hg, hs⟩ := ha
  refine issueOne_ok hr ?_ rfl ?_ hs rfl run (slotPoisoned_plain rfl (fun _ => rfl) rfl hs)
  · simpa [actOn, trigAct, Taken] using hg
  · simp [selfHits, trigAct]

/-- A result unit completes. -/
theorem yields_unit {i : Instr} {h : Head} {u : Nat} {ports : List Port} {d : Port} {lat : Nat} {f : Trig → (Port → Row) → Except Trap Row}
    {s : State} {dst : Dest} {x : Row} (hi : exec i s = issueOne (trigAct u h (unitOp ports d lat f)) s) (ha : Acts s h)
    (hd : destAt s d = some dst) (hf : f (trigAt (opened s) (trigVal s h)) (portRow s) = .ok x) :
    Yields i s h.src d ports dst x lat := by
  have hpend : s.task.pending = [] := ha.1.2.2.1
  have hfree := opened_freeze_nil ha.1
  have htodo : s.task.spec.todo = [] := ha.1.2.2.2.2.2
  have run := unitOp_ok (ports := ports) (d := d) (lat := lat) (f := f) (g := trigAt (opened s) (trigVal s h)) (s := begun s)
    (dst := dst) (x := x) hd hf
  have key := issueOne_trig (u := u) ha run
  rw [applyTodos_none _ (by simpa [eat, begun] using htodo)] at key
  refine ⟨_, hi.trans key, ?_, ?_, ?_, ?_, ?_, ?_, ?_⟩
  · simp only [Sends, spend, tickN_task_flights, closed_flights]
    rw [← opened_cyc s]
    exact sendResult_flights _ _ _ _ _ _ rfl
  · simp [Consumes, spend, eat, begun]
  · simp [Advances, spend, eat, begun]
  · intro r hr _
    have : (applyPop { eat (begun s) (d :: ports) with
        task := sendResult (eat (begun s) (d :: ports)).task dst x ((trigAt (opened s) (trigVal s h)).cyc + lat)
          (trigAt (opened s) (trigVal s h)).seq } (trigAct u h (unitOp ports d lat f) 0)).task.regs.read r = (opened s).task.regs.read r := by
      rw [applyPop_read _ _ _ (by simpa [trigAct] using hr)]
      simp only [sendResult_read, eat, begun]
      cases r <;> rfl
    simpa [spend, closed] using this
  · intro a
    simp [spend, closed, eat, begun]
  · simp [KeepsDevice, spend, closed, eat, begun]
  · simpa [KeepsTask, spend, closed, eat, begun, hpend] using hfree

/-! ### Any operation that goes well -/

theorem tickN_waitN (n : Nat) (s : State) : (tickN n s).task.time.waitN = s.task.time.waitN := by
  induction n generalizing s with
  | zero => rfl
  | succ n ih => rw [tickN, ih]; simp only [tick, chargeTime]; split <;> rfl
theorem tickN_sysr (n : Nat) (s : State) : (tickN n s).task.time.sysr = s.task.time.sysr := by
  induction n generalizing s with
  | zero => rfl
  | succ n ih => rw [tickN, ih]; simp only [tick, chargeTime]; split <;> rfl
theorem tickN_rngs (n : Nat) (s : State) : (tickN n s).task.time.rngs = s.task.time.rngs := by
  induction n generalizing s with
  | zero => rfl
  | succ n ih => rw [tickN, ih]; simp only [tick, chargeTime]; split <;> rfl
theorem applyPop_waitN (s : State) (a : Act) : (applyPop s a).task.time.waitN = s.task.time.waitN := by
  unfold applyPop; split <;> (try split) <;> rfl
theorem applyPop_sysr (s : State) (a : Act) : (applyPop s a).task.time.sysr = s.task.time.sysr := by
  unfold applyPop; split <;> (try split) <;> rfl
theorem applyPop_rngs (s : State) (a : Act) : (applyPop s a).task.time.rngs = s.task.time.rngs := by
  unfold applyPop; split <;> (try split) <;> rfl
theorem applyPop_lq (s : State) (a : Act) (h : a.src ≠ .lq) : (applyPop s a).task.lq = s.task.lq := by
  unfold applyPop; split
  · exact absurd ‹_› h
  · split <;> rfl
  · rfl
  · rfl

/-- What a bundle ends in. -/
theorem closes_closed (s u : State) (a : Act) : Closes s a.src u (spend (opened s) (closed (opened s) u a)) := by
  refine ⟨fun d hd => ?_, ?_⟩
  · have := applyPop_read u a d hd
    simpa [spend, closed] using this
  · refine ⟨?_, ?_, ?_, ?_, ?_, ?_, fun h => ?_, ?_⟩
    any_goals simp [spend, closed, tickN_waitN, tickN_sysr, tickN_rngs, applyPop_waitN, applyPop_sysr, applyPop_rngs]
    exact applyPop_lq u a h

/-- An operation of slot 0 whose trigger goes well completes with its effect. -/
theorem completes_act {i : Instr} {mk : Nat → Act} {s u : State} {h : Head} (hi : exec i s = issueOne mk s)
    (hh : (mk 0).g = h.g ∧ (mk 0).src = h.src ∧ (mk 0).dst = none ∧ (mk 0).slot = 0) (ha : Acts s h)
    (self : selfHits (opened s) (afterMoves (opened s) [mk 0]) none [mk 0] (mk 0) = false) (clean : slotPoisoned (opened s) none (mk 0) = false)
    (run : (mk 0).fn (trigAt (opened s) (trigVal s h)) (begun s) = .ok u) (todo : u.task.spec.todo = []) :
    Completes i s h.src u := by
  obtain ⟨hg, hs, hd, h0⟩ := hh
  have key := issueOne_ok (mk := mk) (s1 := u) ha.1 (by simpa [actOn, hd, h0, hg, Taken] using ha.2.1) hd self
    (by rw [hg, hs]; exact ha.2.2) h0 (by rw [hs]; exact run) clean
  rw [applyTodos_none _ (by simpa using todo)] at key
  exact ⟨_, hi.trans key, hs ▸ closes_closed s u (mk 0)⟩

/-- The plain case: an operation that reads and writes no register beside its ports. -/
theorem completes_trig {i : Instr} {n : Nat} {fn : TrigFn} {s u : State} {h : Head} (hi : exec i s = issueOne (trigAct n h fn) s)
    (ha : Acts s h) (run : fn (trigAt (opened s) (trigVal s h)) (begun s) = .ok u) (todo : u.task.spec.todo = []) :
    Completes i s h.src u :=
  completes_act hi ⟨rfl, rfl, rfl, rfl⟩ ha (by simp [selfHits, trigAct])
    (slotPoisoned_plain rfl (fun _ => rfl) rfl ha.2.2) run todo

end Sys2Proof.Machine
end

