-- ==== Sys2Proof/Laws/Lanes.lean ====
section
/-! SUPPORT. Lanes of a row: packing, extensionality, the masked map that most vec operations are. -/

namespace Sys2Proof.Machine

/-- Digit i of a packed list is its element i. -/
theorem packN_div (w : Nat) (hw : 0 < w) : ∀ (l : List Nat) (i : Nat), packN w l / 2 ^ (w * i) % 2 ^ w = nth l i 0 % 2 ^ w
  | [], i => by simp [packN, nth]
  | x :: l, 0 => by
    simp [packN, nth]
  | x :: l, i + 1 => by
    have := packN_div w hw l i
    simp only [packN, nth, List.foldr_cons, List.getD_cons_succ] at *
    rw [← this, Nat.mul_add, Nat.mul_one, Nat.add_comm (w*i) w, Nat.pow_add, ← Nat.div_div_eq_div_mul]
    congr 2
    rw [Nat.add_mul_div_left _ _ (by positivity), Nat.div_eq_of_lt (Nat.mod_lt _ (by positivity)), Nat.zero_add]

/-- A packed list fits its width. -/
theorem packN_lt (w : Nat) : ∀ l : List Nat, packN w l < 2 ^ (w * l.length)
  | [] => by simp [packN]
  | x :: l => by
    have h := packN_lt w l
    simp only [packN, List.foldr_cons, List.length_cons] at *
    rw [Nat.mul_add, Nat.mul_one, Nat.add_comm (w * l.length), Nat.pow_add]
    have h2 : x % 2 ^ w < 2 ^ w := Nat.mod_lt _ (by positivity)
    generalize List.foldr (fun x a => x % 2 ^ w + 2 ^ w * a) 0 l = z at *
    calc x % 2 ^ w + 2 ^ w * z < 2 ^ w + 2 ^ w * z := by omega
      _ = 2 ^ w * (z + 1) := by ring
      _ ≤ _ := Nat.mul_le_mul_left _ h

/-- Lane i of a packed row is element i of the list. -/
theorem lane_pack {w : Nat} (hw : 0 < w) (l : List Nat) (hl : w * l.length ≤ 1024) (i : Nat) : laneN (packRow w l) w i = nth l i 0 % 2 ^ w := by
  unfold laneN packRow
  rw [BitVec.toNat_ofNat, Nat.mod_eq_of_lt (lt_of_lt_of_le (packN_lt w l) (Nat.pow_le_pow_right (by norm_num) hl))]
  exact packN_div w hw l i

/-- Two numbers with the same digits are equal. -/
theorem num_ext {w : Nat} (hw : 0 < w) : ∀ (n : Nat) (x y : Nat), x < 2 ^ (w * n) → y < 2 ^ (w * n) →
    (∀ i < n, x / 2 ^ (w * i) % 2 ^ w = y / 2 ^ (w * i) % 2 ^ w) → x = y
  | 0, x, y, hx, hy, _ => by simp at hx hy; omega
  | n + 1, x, y, hx, hy, h => by
    have h0 := h 0 (by omega)
    simp at h0
    have := num_ext hw n (x / 2 ^ w) (y / 2 ^ w) ?_ ?_ ?_
    · have a := Nat.div_add_mod x (2 ^ w)
      have b := Nat.div_add_mod y (2 ^ w)
      rw [this, h0] at a; omega
    · rw [Nat.div_lt_iff_lt_mul (by positivity), ← pow_add]; convert hx using 2; ring
    · rw [Nat.div_lt_iff_lt_mul (by positivity), ← pow_add]; convert hy using 2; ring
    · intro i hi
      have := h (i + 1) (by omega)
      rw [Nat.mul_add, Nat.mul_one, Nat.add_comm (w * i) w, Nat.pow_add] at this
      simpa [Nat.div_div_eq_div_mul] using this

/-- Two rows with the same lanes are equal. -/
theorem row_ext {w n : Nat} (hw : 0 < w) (hn : w * n = 1024) {x y : Row} (h : ∀ i < n, laneN x w i = laneN y w i) : x = y := by
  apply BitVec.eq_of_toNat_eq
  exact num_ext hw n _ _ (by rw [hn]; exact x.isLt) (by rw [hn]; exact y.isLt) h

/-- The element widths. -/
theorem tyWidth_cases {ty : Nat} (h : ty ≤ 12) : tyWidth ty = 8 ∨ tyWidth ty = 16 ∨ tyWidth ty = 32 ∨ tyWidth ty = 64 := by
  interval_cases ty <;> simp [tyWidth]

/-- The lanes of a vec type fill the row. -/
theorem vecCfg_lanes {s : State} (h : (vecCfg s).ty ≤ 12) : 0 < (vecCfg s).w ∧ (vecCfg s).w * (vecCfg s).n = 1024 := by
  have := tyWidth_cases h
  simp only [vecCfg, typeWord] at *
  rcases this with e | e | e | e <;> rw [e] <;> simp

/-- Element k of a tabulated list. -/
theorem nth_map_range (n : Nat) (f : Nat → Nat) (k : Nat) (h : k < n) : nth ((List.range n).map f) k 0 = f k := by
  simp [nth, List.getD, h]

/-- Lane k of a masked map of lanes (R122). -/
theorem lane_map (c : VecCfg) (hw : 0 < c.w) (hn : c.w * c.n = 1024) (op pass : Nat → Nat) (k : Nat) (hk : k < c.n) :
    laneN (mapLanes c op pass) c.w k = (if bitAt c.k k then op k else pass k) % 2 ^ c.w := by
  unfold mapLanes
  rw [lane_pack hw _ (by simp [hn]), nth_map_range _ _ _ hk]

end Sys2Proof.Machine
end

