-- ==== Sys2Proof/Laws/Mem.lean ====
section
/-! SUPPORT. Sparse arrays and memory: read after write, and that every operation keeps the canonical form. -/

namespace Sys2Proof.Machine

/-! ### Reads -/

@[simp] theorem sget_nil {w : Nat} (a : Nat) : sget ([] : Sparse w) a = 0 := rfl

theorem swfFrom_mono {w lo lo' : Nat} {m : Sparse w} (h : swfFrom lo m = true) (le : lo' ≤ lo) : swfFrom lo' m = true := by
  cases m with
  | nil => rfl
  | cons e t =>
    simp only [swfFrom, Bool.and_eq_true, decide_eq_true_eq] at h ⊢
    exact ⟨⟨by omega, h.1.2⟩, h.2⟩

/-- Below the least key everything reads 0. -/
theorem sget_below {w lo a : Nat} {m : Sparse w} (h : swfFrom lo m = true) (lt : a < lo) : sget m a = 0 := by
  induction m generalizing lo with
  | nil => rfl
  | cons e t ih =>
    obtain ⟨k, v⟩ := e
    simp only [swfFrom, Bool.and_eq_true, decide_eq_true_eq] at h
    rw [sget, if_neg (by omega)]
    exact ih h.2 (by omega)

theorem sget_sset_same {w lo a : Nat} {m : Sparse w} (h : swfFrom lo m = true) (x : BitVec w) : sget (sset m a x) a = x := by
  induction m generalizing lo with
  | nil => by_cases hx : x = 0#w <;> simp [sset, sget, hx]
  | cons e t ih =>
    obtain ⟨k, v⟩ := e
    simp only [swfFrom, Bool.and_eq_true, decide_eq_true_eq] at h
    by_cases h1 : a < k
    · by_cases hx : x = 0#w
      · have : sget t a = 0 := sget_below h.2 (by omega)
        have hne : a ≠ k := by omega
        simp [sset, h1, hx, sget, hne, this]
      · simp [sset, h1, hx, sget]
    · by_cases h2 : a = k
      · by_cases hx : x = 0#w
        · have : sget t a = 0 := sget_below h.2 (by omega)
          have h1' : ¬ k < k := by omega
          subst h2
          simp [sset, hx, this]
        · subst h2
          simp [sset, hx, sget]
      · simp only [sset, h1, h2, if_false, sget]
        exact ih h.2

/-- A write leaves every other key alone. -/
theorem sget_sset_other {w a b : Nat} (m : Sparse w) (x : BitVec w) (ne : b ≠ a) (h : swf m = true) : sget (sset m a x) b = sget m b := by
  unfold swf at h
  generalize 0 = lo at h
  induction m generalizing lo with
  | nil => by_cases hx : x = 0#w <;> simp [sset, sget, hx, ne]
  | cons e t ih =>
    obtain ⟨k, v⟩ := e
    simp only [swfFrom, Bool.and_eq_true, decide_eq_true_eq] at h
    by_cases h1 : a < k
    · by_cases hx : x = 0#w
      · simp [sset, h1, hx]
      · simp [sset, h1, hx, sget, ne]
    · by_cases h2 : a = k
      · by_cases hx : x = 0#w
        · subst h2; simp [sset, hx, sget, ne]
        · subst h2; simp [sset, hx, sget, ne]
      · simp only [sset, h1, h2, if_false, sget]
        rw [ih _ h.2]

/-! ### The canonical form -/

theorem swfFrom_sset {w lo a : Nat} {m : Sparse w} (h : swfFrom lo m = true) (x : BitVec w) (le : lo ≤ a) : swfFrom lo (sset m a x) = true := by
  induction m generalizing lo with
  | nil => by_cases hx : x = 0#w <;> simp [sset, swfFrom, hx, le]
  | cons e t ih =>
    obtain ⟨k, v⟩ := e
    have h' := h
    simp only [swfFrom, Bool.and_eq_true, decide_eq_true_eq] at h'
    by_cases h1 : a < k
    · by_cases hx : x = 0#w
      · simpa [sset, h1, hx] using h
      · have hk : a + 1 ≤ k := by omega
        simp [sset, h1, hx, swfFrom, le, hk]
        exact ⟨by simpa using h'.1.2, h'.2⟩
    · by_cases h2 : a = k
      · subst h2
        by_cases hx : x = 0#w
        · simpa [sset, hx] using swfFrom_mono h'.2 (by omega)
        · simp [sset, hx, swfFrom, le, h'.2]
      · have : k < a := by omega
        simp only [sset, h1, h2, if_false, swfFrom, Bool.and_eq_true, decide_eq_true_eq]
        exact ⟨h'.1, ih h'.2 (by omega)⟩

/-- A write keeps the canonical form. -/
theorem swf_sset {w a : Nat} {m : Sparse w} (h : swf m = true) (x : BitVec w) : swf (sset m a x) = true := swfFrom_sset h x (Nat.zero_le a)

theorem swfFrom_filter {w lo : Nat} {m : Sparse w} (p : Nat × BitVec w → Bool) (h : swfFrom lo m = true) : swfFrom lo (m.filter p) = true := by
  induction m generalizing lo with
  | nil => rfl
  | cons e t ih =>
    simp only [swfFrom, Bool.and_eq_true, decide_eq_true_eq] at h
    by_cases hp : p e
    · rw [List.filter_cons_of_pos hp]
      simp only [swfFrom, Bool.and_eq_true, decide_eq_true_eq]
      exact ⟨h.1, ih h.2⟩
    · rw [List.filter_cons_of_neg hp]
      exact swfFrom_mono (ih h.2) (by omega)

/-- Clearing a range keeps the canonical form. -/
theorem swf_sclearRange {w : Nat} {m : Sparse w} (lo hi : Nat) (h : swf m = true) : swf (sclearRange m lo hi) = true := swfFrom_filter _ h

/-- Writes of a list of entries keep the canonical form. -/
theorem swf_foldl_sset {w : Nat} {α : Type} (key : α → Nat) (val : α → BitVec w) (l : List α) {m : Sparse w} (h : swf m = true) :
    swf (l.foldl (fun m e => sset m (key e) (val e)) m) = true := by
  induction l generalizing m with
  | nil => exact h
  | cons e t ih => exact ih (swf_sset h _)

/-! ### Bytes in a row -/

/-- An n-byte write keeps the canonical form. -/
theorem wf_writeN {m : List Host.Cell} (h : Memory.wf m = true) (a n x : Nat) : Memory.wf (writeN m a n x) = true := by
  induction n generalizing m a x with
  | zero => exact h
  | succ n ih => exact ih (swf_sset h _) _ _

/-- A row write keeps the canonical form. -/
theorem wf_writeRow {m : List Host.Cell} (h : Memory.wf m = true) (pa : Nat) (r : Row) : Memory.wf (writeRow m pa r) = true := wf_writeN h _ _ _

/-- An n-byte write leaves every byte outside its n alone. -/
theorem sget_writeN_other {m : List Host.Cell} (h : Memory.wf m = true) (a n x b : Nat) (out : b < a ∨ a + n ≤ b) :
    sget (w := 8) (writeN m a n x) b = sget (w := 8) m b := by
  induction n generalizing m a x with
  | zero => rfl
  | succ n ih =>
    rw [writeN, ih (swf_sset h _) _ _ (by omega)]
    exact sget_sset_other (w := 8) m _ (by omega) h

/-- Byte i of an n-byte write reads back as byte i of the number. -/
theorem sget_writeN_inside {m : List Host.Cell} (h : Memory.wf m = true) (a n x i : Nat) (lt : i < n) :
    sget (w := 8) (writeN m a n x) (a + i) = BitVec.ofNat 8 (x / 256 ^ i) := by
  induction n generalizing m a x i with
  | zero => omega
  | succ n ih =>
    rw [writeN]
    cases i with
    | zero =>
      rw [sget_writeN_other (swf_sset h _) _ _ _ _ (by omega)]
      simpa using sget_sset_same (w := 8) (lo := 0) h (BitVec.ofNat 8 x)
    | succ i =>
      have := ih (swf_sset (a := a) h (BitVec.ofNat 8 x)) (a + 1) (x / 256) i (by omega)
      rw [show a + (i + 1) = a + 1 + i by omega, this, Nat.div_div_eq_div_mul, Nat.pow_succ, Nat.mul_comm]

end Sys2Proof.Machine
end

