-- ==== Sys2Proof/Laws/Objects.lean ====
section
/-! SUPPORT. The shared objects: an element written reads back and the others stay, for partitions, queues, rings, pairs, regions, tasks; what a raised record says. -/

namespace Sys2Proof.Machine

@[simp] theorem length_setNth {α : Type} (l : List α) (i : Nat) (x : α) : (setNth l i x).length = l.length := by
  induction l generalizing i with
  | nil => rfl
  | cons a t ih => cases i <;> simp [setNth, ih]

theorem nth_setNth_same {α : Type} (l : List α) (i : Nat) (x d : α) (h : i < l.length) : nth (setNth l i x) i d = x := by
  induction l generalizing i with
  | nil => simp at h
  | cons a t ih => cases i with
    | zero => rfl
    | succ i => simpa [setNth, nth] using ih i (by simpa using h)

theorem nth_setNth_ne {α : Type} (l : List α) (i j : Nat) (x d : α) (h : j ≠ i) : nth (setNth l i x) j d = nth l j d := by
  induction l generalizing i j with
  | nil => rfl
  | cons a t ih => cases i with
    | zero => cases j with
      | zero => exact absurd rfl h
      | succ j => rfl
    | succ i => cases j with
      | zero => rfl
      | succ j => simpa [setNth, nth] using ih i j (by omega)

/-- A partition that is written reads back. -/
theorem getPart_modPart_same (s : State) (p : Nat) (f : Part → Part) (h : p < s.parts.length) : getPart (modPart s p f) p = f (getPart s p) := by
  simp [getPart, modPart, nth_setNth_same _ _ _ _ h]

/-- The other partitions stay. -/
theorem getPart_modPart_ne (s : State) (p k : Nat) (f : Part → Part) (h : k ≠ p) : getPart (modPart s p f) k = getPart s k := by
  simp [getPart, modPart, nth_setNth_ne _ _ _ _ _ h]

@[simp] theorem parts_length_modPart (s : State) (p : Nat) (f : Part → Part) : (modPart s p f).parts.length = s.parts.length := by simp [modPart]

/-- A partition that is live stands in the list. -/
theorem live_lt {s : State} {p : Nat} (h : (getPart s p).live = true) : p < s.parts.length := by
  by_contra hn
  simp [getPart, nth, List.getD, List.getElem?_eq_none (Nat.not_lt.1 hn), Part.reset] at h

/-- A queue that is written reads back, where the partition and the queue are there. -/
theorem queueAt_modQueue_same (s : State) (p n : Nat) (f : LQueue → LQueue) (h : p < s.parts.length) (hn : n < (getPart s p).sch.queues.length) :
    queueAt (modQueue s p n f) p n = f (queueAt s p n) := by
  unfold queueAt modQueue modPS
  rw [getPart_modPart_same _ _ _ h]
  simp [nth_setNth_same _ _ _ _ hn]

theorem queueAt_modQueue_ne (s : State) (p n k : Nat) (f : LQueue → LQueue) (h : p < s.parts.length) (hk : k ≠ n) :
    queueAt (modQueue s p n f) p k = queueAt s p k := by
  unfold queueAt modQueue modPS
  rw [getPart_modPart_same _ _ _ h]
  simp [nth_setNth_ne _ _ _ _ _ hk]

/-- A ring that is written reads back. -/
theorem ringAt_modRing_same (s : State) (r : Nat) (f : Ring → Ring) (h : r < s.rings.length) : ringAt (modRing s r f) r = f (ringAt s r) := by
  simp [ringAt, modRing, nth_setNth_same _ _ _ _ h]

theorem ringAt_modRing_ne (s : State) (r k : Nat) (f : Ring → Ring) (h : k ≠ r) : ringAt (modRing s r f) k = ringAt s k := by
  simp [ringAt, modRing, nth_setNth_ne _ _ _ _ _ h]

/-- A mirror pair that is written reads back. -/
theorem pairAt_modPair_same (s : State) (n : Nat) (f : Pair → Pair) (h : n < s.mir.pairs.length) : pairAt (modPair s n f) n = f (pairAt s n) := by
  simp [pairAt, modPair, nth_setNth_same _ _ _ _ h]

theorem pairAt_modPair_ne (s : State) (n k : Nat) (f : Pair → Pair) (h : k ≠ n) : pairAt (modPair s n f) k = pairAt s k := by
  simp [pairAt, modPair, nth_setNth_ne _ _ _ _ _ h]

/-- A field of a record's words. -/
theorem recWords_fields (r : RecData) :
    let w := (recWords r).toNat
    w / 2 ^ 16 % 2 ^ 16 = r.slot % 2 ^ 16 ∧ w / 2 ^ 32 % 2 ^ 8 = r.cause % 2 ^ 8 ∧ w / 2 ^ 40 % 2 ^ 8 = r.kind % 2 ^ 8
      ∧ w / 2 ^ 48 % 2 ^ 16 = r.event % 2 ^ 16 ∧ w / 2 ^ 64 % 2 ^ 6 = r.part % 2 ^ 6 ∧ w / 2 ^ 72 % 2 ^ 5 = r.lane % 2 ^ 5
      ∧ w / 2 ^ 80 % 2 ^ 16 = r.loc % 2 ^ 16 ∧ w / 2 ^ 192 % 2 ^ 64 = r.seqno % 2 ^ 64 ∧ w / 2 ^ 320 % 2 ^ 64 = r.addr % 2 ^ 64
      ∧ w / 2 ^ 384 % 2 ^ 64 = r.info1 % 2 ^ 64 ∧ w / 2 ^ 448 % 2 ^ 64 = r.info2 % 2 ^ 64 := by
  intro w
  have : w = 2 ^ 16 * (r.slot % 2 ^ 16) + 2 ^ 32 * (r.cause % 2 ^ 8) + 2 ^ 40 * (r.kind % 2 ^ 8)
    + 2 ^ 48 * (r.event % 2 ^ 16) + 2 ^ 64 * (r.part % 2 ^ 6) + 2 ^ 72 * (r.lane % 2 ^ 5) + 2 ^ 80 * (r.loc % 2 ^ 16)
    + 2 ^ 96 * (r.crd % 2 ^ 25) + 2 ^ 128 * (r.recAddr % 2 ^ 64) + 2 ^ 192 * (r.seqno % 2 ^ 64)
    + 2 ^ 256 * (r.ftime.getD 0 % 2 ^ 64) + 2 ^ 320 * (r.addr % 2 ^ 64) + 2 ^ 384 * (r.info1 % 2 ^ 64) + 2 ^ 448 * (r.info2 % 2 ^ 64) := by
    simp only [w, recWords, BitVec.toNat_ofNat]
    apply Nat.mod_eq_of_lt
    omega
  refine ⟨?_, ?_, ?_, ?_, ?_, ?_, ?_, ?_, ?_, ?_, ?_⟩ <;> omega

/-- A record joins the waiting list of a ring that has room (R318). -/
theorem ringAt_enqueue (s : State) (r : Nat) (words : BitVec 512) (retry : Bool) (h : r < s.rings.length)
    (room : retry = true ∨ ((ringAt s r).waiting.filter fun w => !w.retry).length < 64) :
    ringAt (enqueueRec s r words retry) r
      = { ringAt s r with waiting := (ringAt s r).waiting ++ [{ words := words, retry := retry, at_ := s.clk.ftime, warned := false }] } := by
  unfold enqueueRec
  rw [ringAt_modRing_same _ _ _ h, if_neg]
  rcases room with rfl | room
  · simp
  · simp only [Bool.and_eq_true, decide_eq_true_eq, not_and]
    intro _
    omega

/-- The other rings stay. -/
theorem ringAt_enqueue_ne (s : State) (r k : Nat) (words : BitVec 512) (retry : Bool) (h : k ≠ r) :
    ringAt (enqueueRec s r words retry) k = ringAt s k := ringAt_modRing_ne _ _ _ _ h

/-- The newest record of a ring after a record has joined it. -/
theorem newest_enqueue (s : State) (r : Nat) (words : BitVec 512) (retry : Bool) (h : r < s.rings.length)
    (room : retry = true ∨ ((ringAt s r).waiting.filter fun w => !w.retry).length < 64) (lo n : Nat) :
    newest (enqueueRec s r words retry) r lo n = words.toNat / 2 ^ lo % 2 ^ n := by
  unfold newest
  rw [ringAt_enqueue s r words retry h room]
  simp

@[simp] theorem getPart_raiseEvent (s : State) (a b c d e f k : Nat) : getPart (raiseEvent s a b c d e f) k = getPart s k := rfl

/-- An event's record says what was raised (R315, R316). -/
theorem eventRaised_raiseEvent (s : State) (p code kind info1 recAddr seqno : Nat) (room : ringRoom s (ringOf s p false)) (hk : kind < 2 ^ 8) (hc : code < 2 ^ 16) :
    EventRaised s (raiseEvent s p code kind info1 recAddr seqno) p code kind info1 := by
  obtain ⟨h, hr⟩ := room
  have f := recWords_fields { part := p, event := code, kind := kind, info1 := info1, recAddr := recAddr, seqno := seqno, ftime := s.clk.ftime }
  simp only [] at f
  obtain ⟨-, -, f3, f4, f5, -, -, -, -, f10, -⟩ := f
  have n := newest_enqueue s (ringOf s p false) (recWords { part := p, event := code, kind := kind, info1 := info1, recAddr := recAddr, seqno := seqno, ftime := s.clk.ftime }) false h (.inr hr)
  refine ⟨?_, ?_, ?_, ?_, ?_⟩
  · show (ringAt (enqueueRec _ _ _ _) _).waiting.length = _
    rw [ringAt_enqueue _ _ _ _ h (.inr hr)]; simp
  · exact (n 40 8).trans (f3.trans (Nat.mod_eq_of_lt hk))
  · exact (n 48 16).trans (f4.trans (Nat.mod_eq_of_lt hc))
  · exact (n 64 6).trans f5
  · exact (n 384 64).trans f10

/-- The record of an error charge says how many lines, and where (R332). -/
theorem charged_raiseCharge (s : State) (p lines pa : Nat) (room : ringRoom s (ringOf s p false)) :
    Charged s (raiseCharge s p lines pa) p lines pa := by
  obtain ⟨h, hr⟩ := room
  have f := recWords_fields { part := p, kind := 5, info1 := lines, info2 := pa, ftime := s.clk.ftime }
  simp only [] at f
  obtain ⟨-, -, f3, -, f5, -, -, -, -, f10, f11⟩ := f
  have n := newest_enqueue s (ringOf s p false) (recWords { part := p, kind := 5, info1 := lines, info2 := pa, ftime := s.clk.ftime }) false h (.inr hr)
  have e : ∀ lo w, newest (raiseCharge s p lines pa) (ringOf s p false) lo w
      = newest (raiseRec s { part := p, kind := 5, info1 := lines, info2 := pa } false) (ringOf s p false) lo w := by
    intro lo w
    unfold raiseCharge
    simp only
    split
    · next hne =>
      unfold newest
      rw [ringAt_enqueue_ne _ 1 (ringOf s p false) _ _ hne]
    · rfl
  exact ⟨(e 40 8).trans ((n 40 8).trans f3), (e 64 6).trans ((n 64 6).trans f5), (e 384 64).trans ((n 384 64).trans f10), (e 448 64).trans ((n 448 64).trans f11)⟩

end Sys2Proof.Machine
end

