-- ==== Sys2Proof/Laws/Slots.lean ====
section
/-! SUPPORT. What every slot operation shares: its act is the trigger of its head, and its meaning issues that act alone. -/

namespace Sys2Proof.Machine

/-- An operation's meaning issues its act. -/
theorem exec_slot {i : Instr} {h : Head} (s : State) (hh : i.head? = some h) : exec i s = issueOne (slotAct i) s := by
  cases i <;> first | rfl | cases hh

/-- An operation's act is a trigger of slot 0 with its head's guard and source. -/
theorem slotAct_head {i : Instr} {h : Head} (hh : i.head? = some h) :
    (slotAct i 0).dst = none ∧ (slotAct i 0).slot = 0 ∧ (slotAct i 0).g = h.g ∧ (slotAct i 0).src = h.src := by
  cases i <;> first | cases hh; exact ⟨rfl, rfl, rfl, rfl⟩ | cases hh

end Sys2Proof.Machine
end

