-- ==== Sys2Proof/Laws/Step.lean ====
section
/-! SUPPORT. Every arm of exec answers a next state. -/

namespace Sys2Proof.Machine

/-- No instruction stops. -/
theorem exec_next (i : Instr) (s : State) : ∃ t, exec i s = .next t := by
  cases i <;> exact ⟨_, rfl⟩

end Sys2Proof.Machine
end

