-- ==== Sys2Proof/Laws/Words.lean ====
section
/-! SUPPORT. Words and bundles: a word put into slot 0 reads back, its carriers read as the immediate they hold, a source decodes from its code. -/

namespace Sys2Proof

/-- What stands in a slot behind the first is a never-guarded slot (R22, R25). -/
theorem carrierFor_range (src : Src) (k : Nat) : 0x800000 ≤ carrierFor src k ∧ carrierFor src k < 0x900000 := by
  unfold carrierFor
  split <;> (try split) <;> (try split) <;> constructor <;> (try have := BitVec.isLt (by assumption : BitVec 20)) <;> (try have := BitVec.isLt (by assumption : BitVec 40)) <;> omega

/-- The slots of a bundle built around one word (R20). -/
theorem slotOf_bundleOf (w : Nat) (src : Src) (hw : w < 2 ^ 24) :
    slotOf (bundleOf w src) 0 = BitVec.ofNat 24 w ∧ ∀ k, 1 ≤ k → k ≤ 7 → slotOf (bundleOf w src) k = BitVec.ofNat 24 (carrierFor src k) := by
  have h1 := carrierFor_range src 1
  have h2 := carrierFor_range src 2
  have h3 := carrierFor_range src 3
  have h4 := carrierFor_range src 4
  have h5 := carrierFor_range src 5
  have h6 := carrierFor_range src 6
  have h7 := carrierFor_range src 7
  unfold slotOf bundleOf bitsOf
  refine ⟨?_, ?_⟩
  · congr 1
    simp only [BitVec.toNat_ofNat]
    omega
  · intro k hk hk'
    have : k = 1 ∨ k = 2 ∨ k = 3 ∨ k = 4 ∨ k = 5 ∨ k = 6 ∨ k = 7 := by omega
    rcases this with rfl | rfl | rfl | rfl | rfl | rfl | rfl <;> congr 1 <;> simp only [BitVec.toNat_ofNat] <;> omega
/-- Each slot behind the first reads as its carrier. -/
theorem carrier_slot (w : Nat) (src : Src) (hw : w < 2 ^ 24) (k : Nat) (h1 : 1 ≤ k) (h7 : k ≤ 7) :
    isCarrier (slotOf (bundleOf w src) k) = true ∧ carried (bundleOf w src) k = carrierFor src k - 0x800000 := by
  have h := carrierFor_range src k
  unfold isCarrier carried
  rw [(slotOf_bundleOf w src hw).2 k h1 h7]
  unfold bitsOf
  simp only [BitVec.toNat_ofNat]
  constructor
  · simp only [beq_iff_eq]; omega
  · omega

/-- A bundle built around one word holds nothing else that acts. -/
theorem restCarriers_bundleOf (w : Nat) (src : Src) (hw : w < 2 ^ 24) : restCarriers (bundleOf w src) = true := by
  have h := fun k a b => (carrier_slot w src hw k a b).1
  simp [restCarriers, h]

/-- A source code is read by its range (R23). -/
theorem decodeSrc_ranges (b : Bundle) (s : Nat) :
    (s < 0x40 → decodeSrc b s = .ok (.s (BitVec.ofNat 6 s)))
    ∧ (0x40 ≤ s → s < 0x60 → decodeSrc b s = .ok (.v (BitVec.ofNat 5 s)))
    ∧ (0x60 ≤ s → s < 0x68 → decodeSrc b s = .ok (.p (BitVec.ofNat 3 s)))
    ∧ (0x68 ≤ s → s < 0x70 → decodeSrc b s = .ok (.m (BitVec.ofNat 3 s)))
    ∧ (0x70 ≤ s → s < 0x78 → decodeSrc b s = .ok (.tcfg (BitVec.ofNat 3 s)))
    ∧ (0x80 ≤ s → s < 0x88 → decodeSrc b s = .ok (.tn (BitVec.ofNat 3 s)))
    ∧ (0x88 ≤ s → s < 0x90 → decodeSrc b s = .ok (.th (BitVec.ofNat 3 s)))
    ∧ (0x100 ≤ s → s < 0x300 → decodeSrc b s = .ok (.imm9 (BitVec.ofNat 9 (s + 0x200))))
    ∧ (0x3f0 ≤ s → s < 0x3f8 → isCarrier (slotOf b (s - 0x3f0)) = true →
        decodeSrc b s = .ok (.limm20 (BitVec.ofNat 3 (s - 0x3f0)) (BitVec.ofNat 20 (carried b (s - 0x3f0)))))
    ∧ (0x3f8 ≤ s → s < 0x3ff → isCarrier (slotOf b (s - 0x3f8)) = true → isCarrier (slotOf b (s - 0x3f8 + 1)) = true →
        decodeSrc b s = .ok (.limm40 (BitVec.ofNat 3 (s - 0x3f8)) (BitVec.ofNat 40 (carried b (s - 0x3f8) + 2 ^ 20 * carried b (s - 0x3f8 + 1))))) := by
  refine ⟨?_, ?_, ?_, ?_, ?_, ?_, ?_, ?_, ?_, ?_⟩ <;> intros <;> unfold decodeSrc
  all_goals
    repeat rw [if_neg (by omega)]
    rw [if_pos (by omega)]
  all_goals simp_all only [Bool.and_self, if_true]

/-- A source decodes from its code in the bundle of its carriers. -/
theorem decodeSrc_bundleOf (w : Nat) (src : Src) (hw : w < 2 ^ 24) (h : src.ok = true) :
    decodeSrc (bundleOf w src) src.code = .ok src := by
  obtain ⟨rs, rv, rp, rm, rt, rn, rh, ri, r20, r40⟩ := decodeSrc_ranges (bundleOf w src) src.code
  cases src with
  | limm20 k i =>
    have hk : k.toNat ≠ 0 := by
      intro hk; simp [Src.ok] at h; exact h (by apply BitVec.eq_of_toNat_eq; simpa using hk)
    have hk7 := k.isLt
    obtain ⟨hc, hv⟩ := carrier_slot w (.limm20 k i) hw k.toNat (by omega) (by omega)
    have := i.isLt
    have e : (Src.limm20 k i).code - 0x3f0 = k.toNat := by simp only [Src.code]; omega
    rw [e] at r20
    rw [r20 (by simp only [Src.code]; omega) (by simp only [Src.code]; omega) hc, hv]
    simp [carrierFor]
  | limm40 k i =>
    have hk : k.toNat ≠ 0 ∧ k.toNat ≠ 7 := by
      simp [Src.ok] at h
      exact ⟨fun hk => h.1 (by apply BitVec.eq_of_toNat_eq; simpa using hk), fun hk => h.2 (by apply BitVec.eq_of_toNat_eq; simpa using hk)⟩
    have hk7 := k.isLt
    obtain ⟨hc, hv⟩ := carrier_slot w (.limm40 k i) hw k.toNat (by omega) (by omega)
    obtain ⟨hc', hv'⟩ := carrier_slot w (.limm40 k i) hw (k.toNat + 1) (by omega) (by omega)
    have := i.isLt
    have e : (Src.limm40 k i).code - 0x3f8 = k.toNat := by simp only [Src.code]; omega
    rw [e] at r40
    rw [r40 (by simp only [Src.code]; omega) (by simp only [Src.code]; omega) hc hc', hv, hv']
    have e : BitVec.ofNat 40 (0x800000 + i.toNat % 2 ^ 20 - 0x800000 + 2 ^ 20 * (0x800000 + i.toNat / 2 ^ 20 - 0x800000)) = i := by
      apply BitVec.eq_of_toNat_eq; rw [BitVec.toNat_ofNat]; omega
    simp [carrierFor] at e ⊢
    exact e
  | imm9 i =>
    have := i.isLt
    have e : BitVec.ofNat 9 ((Src.imm9 i).code + 0x200) = i := by
      apply BitVec.eq_of_toNat_eq; rw [BitVec.toNat_ofNat]; simp only [Src.code]; omega
    rw [ri (by simp only [Src.code]; omega) (by simp only [Src.code]; omega), e]
  | s n =>
    have := n.isLt
    rw [rs (by simp only [Src.code]; omega)]
    congr 2
    apply BitVec.eq_of_toNat_eq
    rw [BitVec.toNat_ofNat]
    simp only [Src.code]
    omega
  | v n =>
    have := n.isLt
    rw [rv (by simp only [Src.code]; omega) (by simp only [Src.code]; omega)]
    congr 2
    apply BitVec.eq_of_toNat_eq
    rw [BitVec.toNat_ofNat]
    simp only [Src.code]
    omega
  | p n =>
    have := n.isLt
    rw [rp (by simp only [Src.code]; omega) (by simp only [Src.code]; omega)]
    congr 2
    apply BitVec.eq_of_toNat_eq
    rw [BitVec.toNat_ofNat]
    simp only [Src.code]
    omega
  | m n =>
    have := n.isLt
    rw [rm (by simp only [Src.code]; omega) (by simp only [Src.code]; omega)]
    congr 2
    apply BitVec.eq_of_toNat_eq
    rw [BitVec.toNat_ofNat]
    simp only [Src.code]
    omega
  | tcfg n =>
    have := n.isLt
    rw [rt (by simp only [Src.code]; omega) (by simp only [Src.code]; omega)]
    congr 2
    apply BitVec.eq_of_toNat_eq
    rw [BitVec.toNat_ofNat]
    simp only [Src.code]
    omega
  | tn n =>
    have := n.isLt
    rw [rn (by simp only [Src.code]; omega) (by simp only [Src.code]; omega)]
    congr 2
    apply BitVec.eq_of_toNat_eq
    rw [BitVec.toNat_ofNat]
    simp only [Src.code]
    omega
  | th n =>
    have := n.isLt
    rw [rh (by simp only [Src.code]; omega) (by simp only [Src.code]; omega)]
    congr 2
    apply BitVec.eq_of_toNat_eq
    rw [BitVec.toNat_ofNat]
    simp only [Src.code]
    omega
  | acp | rrb | lc | ec | mcfg | pcfg | did | crd | lq | ftime | cyc | hb | rxq | sst => simp [decodeSrc, Src.code]

end Sys2Proof
end

