-- ==== Sys2Proof/Tests/Slice0.lean ====
section
/-! SUPPORT. The model's own tests: ill-formed terms, words of every code, one step of each kind of instruction against values from the spec's rules, and for every statement a state that meets what it assumes. -/

namespace Sys2Proof.Tests

set_option Elab.async false

open Sys2Proof.Machine

/-! ### Helpers -/

def always : Guard := { inv := false, p := 0 }

/-- An operation on the literal i. -/
def lit (i : Nat) : Head := { g := always, src := .imm9 (BitVec.ofNat 9 i) }

/-- An operation on s0, and on v0. -/
def onS : Head := { g := always, src := .s 0 }
def onV : Head := { g := always, src := .v 0 }

/-- Task 1 on core 0 of cluster 0 of die 0. -/
def task1 : Task := { Task.fresh 1 { TaskInfo.none with inst := 1, seqno := 1 } with place := .onCore 0 0 0 }

def base : State := { State.reset with task := task1 }

/-- With another task in focus. -/
def withTask (f : Task → Task) (s : State) : State := { s with task := f s.task }

/-- With values in operand ports. -/
def latch (l : List (Port × Nat)) (s : State) : State :=
  withTask (fun t => { t with ports := l.foldl (fun ps p => setNth ps (portIdx p.1) { val := BitVec.ofNat 1024 p.2, full := true, held := false }) t.ports }) s

/-- With a value in a register. -/
def put (d : RegDst) (x : Nat) (s : State) : State := withTask (fun t => { t with regs := t.regs.write d (BitVec.ofNat 1024 x) }) s

/-- The state after one instruction. -/
def after (i : Instr) (s : State) : State := match exec i s with
  | .next t => t
  | _ => State.reset

/-- What a register reads as 200 cycles on. -/
def reads (d : RegDst) (s : State) : Nat := ((landDue s.task (s.task.regs.cyc + 200)).regs.read d).toNat

/-- What a register reads as n cycles after issue cycle 0, while its result is on its way. -/
def readsAt (d : RegDst) (n : Nat) (s : State) : Option Nat :=
  let t := landDue s.task n
  if inFlight t d then none else some (t.regs.read d).toNat

/-- 64-bit two's complement of -n. -/
def neg (n : Nat) : Nat := 2 ^ 64 - n

/-- The row whose lanes of w bits are l, 0 above. -/
def lanes (w : Nat) (l : List Nat) : Nat := packN w l

/-! ### Ill-formed terms: each check refuses one -/

theorem test_wf_inverted_p0 : Instr.wf (.jmp { g := { inv := true, p := 0 }, src := .s 0 }) = false := by decide +kernel
theorem test_wf_limm20_own_slot : Instr.wf (.jmp { g := always, src := .limm20 0 5 }) = false := by decide +kernel
theorem test_wf_limm40_past_end : Instr.wf (.jmp { g := always, src := .limm40 7 5 }) = false := by decide +kernel
theorem test_wf_hold_register : Instr.wf (.move always (.s 0) true (.reg (.s 1))) = false := by decide +kernel
theorem test_wf_hold_port : Instr.wf (.move always (.s 0) true (.port .sa0a)) = true := by decide +kernel
theorem test_wf_own_bit : Instr.wf (.ownToEngine (lit 0)) = false ∧ Instr.wf (.ownToThread (lit 1)) = false := by decide +kernel
theorem test_wf_acmp_op : Instr.wf (.acmpGuess (lit 16)) = false ∧ Instr.wf (.acmpRun (lit 0)) = false ∧ Instr.wf (.acmpOut (lit 16)) = false
    ∧ Instr.wf (.acmpLast (lit 0)) = false ∧ Instr.wf (.acmpTag (lit 0)) = false := by decide +kernel
theorem test_wf_bounds : ∀ i ∈ [Instr.taskRestore 8 0 0, .taskRestore 0 8 0, .taskRestore 0 0 8, .teamDispatch 8 0, .teamDispatch 0 8, .queueDoorbell 64 0 0,
    .queueDoorbell 0 4 0, .ringRecordWrite 65, .fltResume 64 0, .inboundRead { part := 0, req := 0, io := 0, via := none } 0 129, .inboundRead { part := 64, req := 0, io := 0, via := none } 0 1, .inboundWrite { part := 0, req := 0, io := 0, via := none } 0 (List.replicate 129 0),
    .inboundWrite { part := 64, req := 0, io := 0, via := none } 0 [], .lnkVcw 64 0 0, .lnkVcw 0 40 0, .parWaymap 8 0, .hbmSlotcmt 8, .resync 4, .ingressMessage 16384 false 0 0 { src := 0, payload := [] }, .chunkEgress 16384 0,
    .functionLevelReset 0, .functionLevelReset 64, .blockScrubDone 256], i.wf = false := by decide +kernel

/-! ### Words -/

/-- The words name the instructions. -/
abbrev wordsName (l : List (Nat × Instr)) : Prop := ∀ x ∈ l, decodeTableWord 24 x.1 = some x.2

/-- R21 to R26: source codes, the hold bit, guards, destinations; the slots that the spec writes out. -/
theorem test_words_moves : wordsName [
  (0x000001, .move always (.s 0) false (.reg (.s 1))), (0x00FC3F, .move always (.s 63) false (.reg (.s 63))),
  (0x01005F, .move always (.v 0) false (.reg (.v 31))), (0x410490, .move { inv := false, p := 4 } (.v 1) false (.port .veca)),
  (0x410892, .move { inv := false, p := 4 } (.v 2) false (.port .vecc)), (0x495096, .move { inv := false, p := 4 } (.imm9 0x54) false (.port .vecd)),
  (0x08148A, .move always (.imm9 5) false (.port .ctlb)), (0x97FC60, .move { inv := true, p := 1 } (.imm9 0x1FF) false (.reg (.p 0))) ] := by decide +kernel

/-- R22: G = 0x8 is a carrier; R26, R76: reserved sources, destinations and hold bits are refused. -/
theorem test_words_refused : decodeTableWord 24 0x800000 = some (.bundleIssue (bundleOf 0x800000 .acp))
    ∧ ∀ w ∈ [0x096 * 2 ^ 10 + 1, 0x300 * 2 ^ 10 + 1, 0x3FF * 2 ^ 10 + 1, 0x07E, 0x07F, 0x0A5, 0x0B8, 0x0DF, 0x1A2, 0x1FF, 0x200, 0x2C0, 0x2B0], decodeTableWord 24 w = none := by
  decide +kernel

/-- The slots that the spec writes out as examples. -/
theorem test_words_examples : wordsName [
  (0x08A90F, .trap (lit 42)), (0x080D10, .sys (lit 3)), (0x080517, .csrr (lit 1)), (0x410D4B, .vfma { g := { inv := false, p := 4 }, src := .v 3 }),
  (0x70051C, .ld { g := { inv := false, p := 7 }, src := .s 1 }), (0x7A00C0, .add .sa0 { g := { inv := false, p := 7 }, src := .imm9 128 }),
  (0x514948, .vadd { g := { inv := false, p := 5 }, src := .v 18 }), (0x01092A, .amoAdd { g := always, src := .v 2 }), (0x00055F, .vrot { g := always, src := .s 1 }),
  (0x080190, .bwait (lit 0)), (0x080592, .cstage (lit 1)), (0x08019E, .scmt (lit 0)), (0x08019F, .sabt (lit 0)), (0x0801A1, .fnext (lit 0)),
  (0x08419D, .acmpRun (lit 16)), (0x08899D, .acmpOut (lit 34)), (0x08090D, .loop (lit 2)),
  (0x020584, .push { g := always, src := .tn 1 }), (0x020186, .acc { g := always, src := .tn 0 }) ] := by decide +kernel

/-- R25: a long immediate that names its own slot is an encoding error; one of 20 and one of 40 bits out of the slots behind. -/
theorem test_words_limm :
    decode (BitVec.ofNat 192 (0xFC0C0 + 0x812345 * 2 ^ 24 + packN 24 (List.replicate 6 0x800000) * 2 ^ 48)) = .bundleIssue (BitVec.ofNat 192 (0xFC0C0 + 0x812345 * 2 ^ 24 + packN 24 (List.replicate 6 0x800000) * 2 ^ 48))
    ∧ decode (BitVec.ofNat 192 (0xFC4C0 + 0x812345 * 2 ^ 24 + packN 24 (List.replicate 6 0x800000) * 2 ^ 48)) = .add .sa0 { g := always, src := .limm20 1 0x12345 }
    ∧ decode (BitVec.ofNat 192 (0xFE4C0 + 0x812345 * 2 ^ 24 + 0x867890 * 2 ^ 48 + packN 24 (List.replicate 5 0x800000) * 2 ^ 72)) = .add .sa0 { g := always, src := .limm40 1 0x6789012345 } := by
  decide +kernel

/-- R83: every trigger code of sa0, after a guard p0 and the literal of its source. -/
theorem test_words_sa0 : wordsName [
  (0x0800C0, .add .sa0 (lit 0)), (0x0800C1, .sub .sa0 (lit 0)), (0x0800C2, .and .sa0 (lit 0)), (0x0800C3, .or .sa0 (lit 0)),
  (0x0800C4, .xor .sa0 (lit 0)), (0x0800C5, .andn .sa0 (lit 0)), (0x0800C6, .shl .sa0 (lit 0)), (0x0800C7, .shr .sa0 (lit 0)),
  (0x0800C8, .sar .sa0 (lit 0)), (0x0800C9, .rotl .sa0 (lit 0)), (0x0800CA, .min .sa0 (lit 0)), (0x0800CB, .max .sa0 (lit 0)),
  (0x0800CC, .minu .sa0 (lit 0)), (0x0800CD, .maxu .sa0 (lit 0)), (0x0800CE, .seq .sa0 (lit 0)), (0x0800CF, .sne .sa0 (lit 0)),
  (0x0800D0, .slt .sa0 (lit 0)), (0x0800D1, .sltu .sa0 (lit 0)), (0x0800D2, .sle .sa0 (lit 0)), (0x0800D3, .sleu .sa0 (lit 0)),
  (0x0800D4, .sel .sa0 (lit 0)), (0x0800D5, .mul .sa0 (lit 0)), (0x0800D6, .mulh .sa0 (lit 0)), (0x0800D7, .mulhu .sa0 (lit 0)),
  (0x0800D8, .clz .sa0 (lit 0)), (0x0800D9, .ctz .sa0 (lit 0)), (0x0800DA, .popc .sa0 (lit 0)), (0x0800DB, .bfx .sa0 (lit 0)),
  (0x0800DC, .bfi .sa0 (lit 0)), (0x0800DD, .sext .sa0 (lit 0)), (0x0800DE, .zext .sa0 (lit 0))] := by decide +kernel

/-- R83: every trigger code of sa1, after a guard p0 and the literal of its source. -/
theorem test_words_sa1 : wordsName [
  (0x0800E0, .add .sa1 (lit 0)), (0x0800E1, .sub .sa1 (lit 0)), (0x0800E2, .and .sa1 (lit 0)), (0x0800E3, .or .sa1 (lit 0)),
  (0x0800E4, .xor .sa1 (lit 0)), (0x0800E5, .andn .sa1 (lit 0)), (0x0800E6, .shl .sa1 (lit 0)), (0x0800E7, .shr .sa1 (lit 0)),
  (0x0800E8, .sar .sa1 (lit 0)), (0x0800E9, .rotl .sa1 (lit 0)), (0x0800EA, .min .sa1 (lit 0)), (0x0800EB, .max .sa1 (lit 0)),
  (0x0800EC, .minu .sa1 (lit 0)), (0x0800ED, .maxu .sa1 (lit 0)), (0x0800EE, .seq .sa1 (lit 0)), (0x0800EF, .sne .sa1 (lit 0)),
  (0x0800F0, .slt .sa1 (lit 0)), (0x0800F1, .sltu .sa1 (lit 0)), (0x0800F2, .sle .sa1 (lit 0)), (0x0800F3, .sleu .sa1 (lit 0)),
  (0x0800F4, .sel .sa1 (lit 0)), (0x0800F5, .mul .sa1 (lit 0)), (0x0800F6, .mulh .sa1 (lit 0)), (0x0800F7, .mulhu .sa1 (lit 0)),
  (0x0800F8, .clz .sa1 (lit 0)), (0x0800F9, .ctz .sa1 (lit 0)), (0x0800FA, .popc .sa1 (lit 0)), (0x0800FB, .bfx .sa1 (lit 0)),
  (0x0800FC, .bfi .sa1 (lit 0)), (0x0800FD, .sext .sa1 (lit 0)), (0x0800FE, .zext .sa1 (lit 0)), (0x0800FF, .div (lit 0)), (0x080100, .divu (lit 0)),
  (0x080101, .rem (lit 0)), (0x080102, .remu (lit 0))] := by decide +kernel

/-- R83: every trigger code of agu, after a guard p0 and the literal of its source. -/
theorem test_words_agu : wordsName [
  (0x080104, .lea (lit 0)), (0x080105, .leaw (lit 0)), (0x080106, .cadd (lit 0))] := by decide +kernel

/-- R83: every trigger code of ctl, after a guard p0 and the literal of its source. -/
theorem test_words_ctl : wordsName [
  (0x080108, .jmp (lit 0)), (0x080109, .jmpi (lit 0)), (0x08010A, .call (lit 0)), (0x08010C, .jtab (lit 0)), (0x08010D, .loop (lit 0)),
  (0x08010B, .ret (lit 0)), (0x080114, .uintReturn (lit 0)), (0x08010E, .done (lit 0)), (0x080112, .dcpl (lit 0)), (0x08010F, .trap (lit 0)),
  (0x080110, .sys (lit 0)), (0x080111, .fuse (lit 0)), (0x080115, .spt (lit 0)), (0x080113, .rejoin (lit 0)), (0x080116, .wait (lit 0)),
  (0x080117, .csrr (lit 0)), (0x080118, .csrw (lit 0))] := by decide +kernel

/-- R83: every trigger code of lsu, after a guard p0 and the literal of its source. -/
theorem test_words_lsu : wordsName [
  (0x08011C, .ld (lit 0)), (0x08011D, .ldq (lit 0)), (0x08011E, .st (lit 0)), (0x08011F, .ldx (lit 0)), (0x080120, .stx (lit 0)),
  (0x080121, .qmark (lit 0)), (0x080123, .fsc (lit 0)), (0x080122, .fence (lit 0)), (0x080124, .pref (lit 0)), (0x080126, .sunm (lit 0)),
  (0x080129, .rinv (lit 0)), (0x080125, .smap (lit 0)), (0x080127, .sfl (lit 0)), (0x080128, .ownToThread (lit 0)), (0x080528, .ownToEngine (lit 1)),
  (0x08012A, .amoAdd (lit 0)), (0x08012B, .amoFadd (lit 0)), (0x08012C, .amoMax (lit 0)), (0x08012D, .amoMin (lit 0)), (0x08012E, .amoMaxu (lit 0)),
  (0x08012F, .amoMinu (lit 0)), (0x080130, .amoFmax (lit 0)), (0x080131, .amoFmin (lit 0)), (0x080132, .amoAnd (lit 0)), (0x080133, .amoOr (lit 0)),
  (0x080134, .amoXor (lit 0)), (0x080135, .amoSwp (lit 0)), (0x080136, .amoCas (lit 0)), (0x080137, .nraAdd (lit 0)), (0x080138, .nraFadd (lit 0)),
  (0x080139, .nraMax (lit 0)), (0x08013A, .nraMin (lit 0)), (0x08013B, .nraMaxu (lit 0)), (0x08013C, .nraMinu (lit 0)), (0x08013D, .nraFmax (lit 0)),
  (0x08013E, .nraFmin (lit 0)), (0x08013F, .nraAnd (lit 0)), (0x080140, .nraOr (lit 0)), (0x080141, .nraXor (lit 0)), (0x080142, .redAdd (lit 0)),
  (0x080143, .redFadd (lit 0)), (0x080144, .redFmax (lit 0))] := by decide +kernel

/-- R83: every trigger code of vec, after a guard p0 and the literal of its source. -/
theorem test_words_vec : wordsName [
  (0x080148, .vadd (lit 0)), (0x080149, .vsub (lit 0)), (0x08014C, .vmin (lit 0)), (0x08014D, .vmax (lit 0)), (0x080150, .vand (lit 0)),
  (0x080151, .vor (lit 0)), (0x080152, .vxor (lit 0)), (0x080153, .vshl (lit 0)), (0x080154, .vshr (lit 0)), (0x080155, .vsar (lit 0)),
  (0x08014A, .vmul (lit 0)), (0x08014B, .vfma (lit 0)), (0x08014E, .vabs (lit 0)), (0x08014F, .vneg (lit 0)), (0x08015B, .vbc (lit 0)),
  (0x080164, .vpopc (lit 0)), (0x080165, .vmexp (lit 0)), (0x080166, .vmpak (lit 0)), (0x080167, .vcls (lit 0)), (0x080156, .vceq (lit 0)),
  (0x080157, .vclt (lit 0)), (0x080158, .vcle (lit 0)), (0x080159, .vsel (lit 0)), (0x08015A, .vcvt (lit 0)), (0x08015C, .vext (lit 0)),
  (0x08015D, .vins (lit 0)), (0x08015E, .vperm (lit 0)), (0x08015F, .vrot (lit 0)), (0x080160, .vsum (lit 0)), (0x080161, .vrmax (lit 0)),
  (0x080162, .vmaxi (lit 0)), (0x080163, .vrmin (lit 0)), (0x080168, .vbnd (lit 0)), (0x080169, .viota (lit 0)), (0x08016A, .vsqz (lit 0))] := by decide +kernel

/-- R83: every trigger code of lg, after a guard p0 and the literal of its source. -/
theorem test_words_lg : wordsName [
  (0x080170, .lg2 (lit 0)), (0x080172, .ex2 (lit 0)), (0x080174, .rcp (lit 0)), (0x080175, .rsq (lit 0)), (0x080176, .sqrt (lit 0)),
  (0x080171, .ln (lit 0)), (0x080173, .exp (lit 0)), (0x080177, .tanh (lit 0)), (0x080178, .sigm (lit 0)), (0x080179, .gmb (lit 0)),
  (0x08017A, .rndGenerator (lit 0))] := by decide +kernel

/-- R83: every trigger code of srt, after a guard p0 and the literal of its source. -/
theorem test_words_srt : wordsName [
  (0x08017C, .sclr (lit 0)), (0x08017D, .smrg (lit 0)), (0x08017E, .srd (lit 0)), (0x08017F, .ssort (lit 0)), (0x080180, .scsum (lit 0))] := by decide +kernel

/-- R83: every trigger code of mx, after a guard p0 and the literal of its source. -/
theorem test_words_mx : wordsName [
  (0x080184, .push (lit 0)), (0x080185, .shift (lit 0)), (0x080186, .acc (lit 0)), (0x080187, .accz (lit 0)), (0x080188, .drain (lit 0)),
  (0x080189, .mxclr (lit 0))] := by decide +kernel

/-- R83: every trigger code of syn, after a guard p0 and the literal of its source. -/
theorem test_words_syn : wordsName [
  (0x08018C, .spawn (lit 0)), (0x08018D, .spawnd (lit 0)), (0x08018E, .dcnt (lit 0)), (0x080192, .cstage (lit 0)), (0x080196, .uien (lit 0)),
  (0x08018F, .bpost (lit 0)), (0x080191, .barv (lit 0)), (0x080190, .bwait (lit 0)), (0x080197, .hbw (lit 0)), (0x080193, .gth (lit 0)),
  (0x080194, .coll (lit 0)), (0x080195, .esend (lit 0))] := by decide +kernel

/-- R83: every trigger code of spc, after a guard p0 and the literal of its source. -/
theorem test_words_spc : wordsName [
  (0x08019C, .sgo (lit 0)), (0x08019D, .acmpGuess (lit 0)), (0x08419D, .acmpRun (lit 16)), (0x08819D, .acmpOut (lit 32)),
  (0x08C19D, .acmpLast (lit 48)), (0x09019D, .acmpTag (lit 64)), (0x08019E, .scmt (lit 0)), (0x08019F, .sabt (lit 0)), (0x0801A0, .apreg (lit 0)),
  (0x0801A1, .fnext (lit 0))] := by decide +kernel
/-! ### One step: scalar units (R92 to R101) -/

/-- Operands a and b in sa1's ports, t in s0, the result for s1. -/
def sa (a b t : Nat) : State := put (.s 0) t (latch [(.sa1a, a), (.sa1b, b), (.sa1d, 1)] base)

/-- The result of a scalar operation. -/
def scal (i : Sa → Head → Instr) (a b t : Nat) : Nat := reads (.s 1) (after (i .sa1 onS) (sa a b t))
def divs (i : Head → Instr) (a t : Nat) : Nat := reads (.s 1) (after (i onS) (sa a 0 t))

theorem test_add_sub : scal .add (2 ^ 64 - 1) 0 2 = 1 ∧ scal .sub 1 0 2 = neg 1 := by decide +kernel
theorem test_logic : scal .and 12 0 10 = 8 ∧ scal .or 12 0 10 = 14 ∧ scal .xor 12 0 10 = 6 ∧ scal .andn 12 0 10 = 4 := by decide +kernel
theorem test_min_max : scal .min (neg 1) 0 1 = neg 1 ∧ scal .minu (neg 1) 0 1 = 1 ∧ scal .max (neg 1) 0 1 = 1 ∧ scal .maxu (neg 1) 0 1 = neg 1 := by decide +kernel
theorem test_shifts : scal .shl 3 0 64 = 0 ∧ scal .shr (neg 1) 0 65 = 0 ∧ scal .sar (neg 8) 0 1 = neg 4 ∧ scal .sar (neg 8) 0 64 = neg 1 := by decide +kernel
theorem test_rotl : scal .rotl (2 ^ 63 + 2) 0 65 = 5 ∧ scal .rotl 9 0 64 = 9 := by decide +kernel
theorem test_compares : scal .slt (neg 1) 0 0 = 1 ∧ scal .sltu (neg 1) 0 0 = 0 ∧ scal .sle 4 0 4 = 1 ∧ scal .sleu 5 0 4 = 0 ∧ scal .seq 7 0 7 = 1 ∧ scal .sne 7 0 7 = 0 := by
  decide +kernel
theorem test_sel : scal .sel 3 4 2 = 3 ∧ scal .sel 3 4 0 = 4 := by decide +kernel
theorem test_products : scal .mul (neg 2) 0 3 = neg 6 ∧ scal .mulh (2 ^ 63) 0 (2 ^ 63) = 2 ^ 62 ∧ scal .mulhu (neg 1) 0 (neg 1) = neg 2 := by decide +kernel
theorem test_counts : scal .clz 0 0 0 = 64 ∧ scal .clz 0 0 1 = 63 ∧ scal .ctz 0 0 0 = 64 ∧ scal .ctz 0 0 8 = 3 ∧ scal .popc 0 0 255 = 8 := by decide +kernel
/-- W = 4, LO = 60, SX = 1; a field past bit 63; widths above 64. -/
theorem test_bfx : scal .bfx (15 * 2 ^ 60) 0 (0x8000 + 4 * 256 + 60) = neg 1 ∧ scal .bfx (15 * 2 ^ 60) 0 (0x8000 + 8 * 256 + 60) = 15
    ∧ scal .bfx (neg 1) 0 (127 * 256) = neg 1 := by decide +kernel
theorem test_bfi : scal .bfi 0xF5 0xFF00 (4 * 256 + 8) = 0xF500 ∧ scal .bfi 0xF5 0xFF00 0 = 0xFF00 := by decide +kernel
theorem test_narrow : scal .sext 0x8001 0 16 = neg 0x7FFF ∧ scal .zext 0x18001 0 16 = 0x8001 ∧ scal .sext 0x8001 0 64 = 0x8001 := by decide +kernel
/-- The spec's examples: -7 by 2, 7 by 0; the least number by -1. -/
theorem test_div : divs .div (neg 7) 2 = neg 3 ∧ divs .rem (neg 7) 2 = neg 1 ∧ divs .div (2 ^ 63) (neg 1) = 2 ^ 63 ∧ divs .rem (2 ^ 63) (neg 1) = 0 := by decide +kernel
theorem test_div_by_zero : divs .divu 7 0 = neg 1 ∧ divs .remu 7 0 = 7 ∧ divs .div 7 0 = neg 1 ∧ divs .rem 7 0 = 7 := by decide +kernel
/-- R36: the result is undefined until its bound. -/
theorem test_latency : readsAt (.s 1) 2 (after (.mul .sa1 onS) (sa 2 0 3)) = none ∧ readsAt (.s 1) 3 (after (.mul .sa1 onS) (sa 2 0 3)) = some 6
    ∧ readsAt (.s 1) 23 (after (.divu onS) (sa 6 0 3)) = none ∧ readsAt (.s 1) 24 (after (.divu onS) (sa 6 0 3)) = some 2 := by decide +kernel

def agu (i : Head → Instr) (a b t : Nat) : Nat := reads (.s 1) (after (i onS) (put (.s 0) t (latch [(.agua, a), (.agub, b), (.agud, 1)] base)))
/-- The spec's examples: a scale word 0x180, and the ring of 48. -/
theorem test_agu : agu .lea 100 (neg 256 + 3) 5 = 139 ∧ agu .leaw 1000 0x180 2 = 1257 ∧ agu .cadd 45 48 5 = 2 ∧ agu .cadd 1 48 (neg 3) = 46 ∧ agu .cadd 1 0 (neg 3) = neg 2 := by
  decide +kernel

/-! ### Moves and bundles (R17 to R36) -/

theorem test_move_latency_none : reads (.s 5) (after (.move always (.imm9 0x1FF) false (.reg (.s 5))) base) = neg 1 := by decide +kernel
theorem test_move_p0_m0 : reads (.p 0) (after (.move always (.imm9 0) false (.reg (.p 0))) base) = 1
    ∧ reads (.m 0) (after (.move always (.imm9 0) false (.reg (.m 0))) base) = 2 ^ 128 - 1 := by decide +kernel
/-- R81: s32 under rrb = 31 is s63; R151: reserved bits of tcfg read 0. -/
theorem test_move_renamed : reads (.s 63) (after (.move always (.imm9 9) false (.reg (.s 32))) (put .rrb 31 base)) = 9
    ∧ reads (.tcfg 2) (after (.move always (.imm9 0x1FF) false (.reg (.tcfg 2))) base) = 0x0fffffff := by decide +kernel
theorem test_move_port_width : (nth (after (.move always (.imm9 0x1FF) true (.port .lsuy)) base).task.ports (portIdx .lsuy) Latch.empty) = { val := 0x7f, full := true, held := true } := by
  decide +kernel
/-- R22: a squashed slot changes nothing and is counted. -/
theorem test_squashed : reads (.s 5) (after (.move { inv := false, p := 1 } (.imm9 3) false (.reg (.s 5))) base) = 0
    ∧ (after (.move { inv := false, p := 1 } (.imm9 3) false (.reg (.s 5))) base).task.regs.pc = 1 := by decide +kernel
/-- R153: a segment at the write pointer of tile 0 and the next one. -/
theorem test_move_tile : let t := (after (.move always (.imm9 3) false (.tileW 0)) (put (.tcfg 0) 0 base)).task
    sget (landDue t 1).tiles 0 = 3 ∧ tileW ((landDue t 1).regs.getT 0) = 1 := by decide +kernel
/-- R28: two moves of a bundle exchange s1 and s2. -/
theorem test_bundle_exchange :
    let b : Bundle := BitVec.ofNat 192 (0x000402 + 0x000801 * 2 ^ 24 + packN 24 (List.replicate 6 0x800000) * 2 ^ 48)
    let t := after (.bundleIssue b) (put (.s 1) 11 (put (.s 2) 22 base))
    reads (.s 1) t = 22 ∧ reads (.s 2) t = 11 ∧ t.task.regs.cyc = 1 := by decide +kernel
/-- R30: two moves into s1 conflict, reported at slot 1. -/
theorem test_bundle_conflict :
    let b : Bundle := BitVec.ofNat 192 (0x000401 + 0x000801 * 2 ^ 24 + packN 24 (List.replicate 6 0x800000) * 2 ^ 48)
    let t := after (.bundleIssue b) base
    t.task.place = .ended false ∧ newest t 1 32 8 = 5 ∧ newest t 1 80 16 = 2 ^ 13 := by decide +kernel

/-! ### Control (R102 to R110, R185 to R189, R305 to R313) -/

def pcCyc (s : State) : Nat × Nat := (s.task.regs.pc, s.task.regs.cyc)
theorem test_jumps : pcCyc (after (.jmp (lit 40)) base) = (40, 3) ∧ pcCyc (after (.jmpi onS) (put (.s 0) (neg 1) (latch [(.ctla, 10)] base))) = (9, 3)
    ∧ pcCyc (after (.ret (lit 0)) (put (.s 31) 77 base)) = (77, 3) := by decide +kernel
theorem test_call : pcCyc (after (.call (lit 40)) base) = (40, 3) ∧ reads (.s 31) (after (.call (lit 40)) base) = 1 := by decide +kernel
theorem test_jtab : pcCyc (after (.jtab (lit 1)) (withTask (fun t => { t with info := { t.info with ftab := [7, 9] } }) base)) = (9, 3) := by decide +kernel
/-- R104: rrb 0 becomes 1, so the new p7 is p4. -/
theorem test_loop : let t := after (.loop (lit 5)) (put .lc 3 (put .ec 2 base))
    pcCyc t = (5, 1) ∧ t.task.regs.lc = 2 ∧ t.task.regs.rrb = 1 ∧ reads (.p 4) t = 1 := by decide +kernel
theorem test_loop_falls_through : pcCyc (after (.loop (lit 5)) base) = (1, 1) := by decide +kernel
theorem test_done_wait : (after (.done (lit 0)) base).task.freeze = [.done] ∧ (after (.wait (lit 9)) base).task.time.waitN = 9 := by decide +kernel
theorem test_spt : (after (.spt (lit 0)) base).task.freeze = [] ∧ pcCyc (after (.spt (lit 0)) base) = (1, 1) := by decide +kernel
theorem test_sys_rejoin : (after (.sys (lit 3)) base).task.freeze = [.sysWait 3 0 0] ∧ (after (.rejoin (lit 3)) (withTask (fun t => { t with info := { t.info with extX := 2 } }) base)).task.freeze = [.rejoin 3] := by decide +kernel
theorem test_fuse_dcpl : (after (.fuse (lit 1)) base).task.fused = [] ∧ (after (.dcpl (lit 0)) (withTask (fun t => { t with fused := [1] }) base)).task.fused = [] := by decide +kernel
/-- R313: csrr 6 reads sysr for s1, two cycles later; csrw 6 writes it. -/
theorem test_csrs : readsAt (.s 1) 2 (after (.csrr (lit 6)) (latch [(.ctlb, 1)] (withTask (fun t => { t with time := { t.time with sysr := 5 } }) base))) = some 5
    ∧ (after (.csrw (lit 6)) (latch [(.ctla, 8)] base)).task.time.sysr = 8 := by decide +kernel
/-- R311, R315: TRAP_INSN with its code, in the ring of partition 0. -/
theorem test_trap : let t := after (.trap (lit 42)) base
    t.task.place = .ended false ∧ newest t 1 32 8 = 0x60 ∧ newest t 1 384 64 = 42 ∧ newest t 1 16 16 = 0xffff := by decide +kernel
/-- R305 to R308: the return from the handler. -/
theorem test_uret : let t := after (.uintReturn (lit 0)) (withTask (fun t => { t with uint := { t.uint with inHandler := true, ret := 30, shS := [1, 2, 3, 4, 5, 6, 7, 8], shP := [true, false, true], shRrb := 3 } }) base)
    pcCyc t = (30, 3) ∧ reads (.s 56) t = 1 ∧ reads (.s 63) t = 8 ∧ reads (.p 3) t = 1 ∧ t.task.regs.rrb = 3 ∧ t.task.uint.inHandler = false := by decide +kernel
/-- R305: entry at the handler's fragment, two cycles on, with the word in s63. -/
theorem test_uint_entry : let t := after .uintEntry (withTask (fun t => { t with info := { t.info with ftab := List.replicate 255 0xffff ++ [50] }, uint := { t.uint with en := true, queue := [0x1234] } }) base)
    pcCyc t = (50, 2) ∧ reads (.s 63) t = 0x1234 ∧ t.task.uint.inHandler = true ∧ t.task.uint.queue = [] := by decide +kernel

/-! ### One step: memory (R111 to R119, R245 to R279) -/

/-- Row r of plate p in the local window. -/
def window (p r : Nat) : Nat := neg 0x200000 + p * 16384 + r * 128

def plate (r x : Nat) (s : State) : State := withTask (fun t => { t with plates := sset t.plates r (BitVec.ofNat 1024 x) }) s

/-- The queue, performed to its end. -/
def drained (s : State) : State := drainAll s

theorem test_ld_local : let t := after (.ld onS) (put (.s 0) (window 1 2) (latch [(.lsuc, 4), (.lsud, 0x41)] (plate 130 77 base)))
    readsAt (.v 1) 3 t = none ∧ reads (.v 1) (drained t) = 77 ∧ readsAt (.v 1) 4 (drained t) = some 77 := by decide +kernel
theorem test_ldq_local : let t := drained (after (.ldq onS) (put (.s 0) (window 1 2) (plate 130 77 base)))
    t.task.lq = [{ seq := 1, val := some 77, poison := false }] := by decide +kernel
theorem test_st_local : sget (drained (after (.st onS) (put (.s 0) (window 1 2) (latch [(.lsua, 99)] base)))).task.plates 130 = 99 := by decide +kernel
/-- R86: lane 1 of 32 bits, index 3: bytes 12 to 15; lane 0 is inactive. -/
theorem test_stx_local : let idx := lanes 32 (2 ^ 31 :: 3 :: List.replicate 30 (2 ^ 31))
    sget (drained (after (.stx onV) (put (.v 0) idx (latch [(.lsua, window 0 0), (.lsub, lanes 32 [5, 6]), (.lsuy, 4)] base)))).task.plates 0 = BitVec.ofNat 1024 (6 * 2 ^ 96) := by
  decide +kernel
theorem test_ldx_local : let idx := lanes 32 (2 ^ 31 :: 3 :: List.replicate 30 (2 ^ 31))
    reads (.v 1) (drained (after (.ldx onV) (put (.v 0) idx (latch [(.lsua, window 0 0), (.lsuc, 8), (.lsuy, 4), (.lsud, 0x41)] (plate 0 (7 * 2 ^ 96) base))))) = 7 * 2 ^ 32 := by
  decide +kernel
/-- R265: the old value comes back, the sum is stored; cas compares bytes 0 to 3 and stores bytes 64 to 67. -/
theorem test_amo_add : let s := drained (after (.amoAdd onV) (put (.v 0) (lanes 32 (0 :: List.replicate 31 (2 ^ 31)))
      (latch [(.lsua, window 0 0), (.lsub, 5), (.lsuc, 8), (.lsuy, 4), (.lsud, 0x41)] (plate 0 (2 ^ 32 - 2) base))))
    sget s.task.plates 0 = 3 ∧ reads (.v 1) s = 2 ^ 32 - 2 := by decide +kernel
theorem test_amo_cas : let s := fun (old : Nat) => drained (after (.amoCas onV) (put (.v 0) (lanes 32 (0 :: List.replicate 31 (2 ^ 31)))
      (latch [(.lsua, window 0 0), (.lsub, 5 + 9 * 2 ^ 512), (.lsuc, 8), (.lsuy, 4), (.lsud, 0x41)] (plate 0 old base))))
    sget (s 5).task.plates 0 = 9 ∧ sget (s 6).task.plates 0 = 6 := by decide +kernel
theorem test_nra_max : let s := fun (i : Head → Instr) (old : Nat) => sget (drained (after (i onV) (put (.v 0) (lanes 32 (0 :: List.replicate 31 (2 ^ 31)))
      (latch [(.lsua, window 0 0), (.lsub, 2 ^ 32 - 1), (.lsuy, 4)] (plate 0 old base))))).task.plates 0
    s .nraMax 3 = 3 ∧ s .nraMaxu 3 = 2 ^ 32 - 1 ∧ s .nraMin 3 = 2 ^ 32 - 1 ∧ s .nraXor 3 = 2 ^ 32 - 4 := by decide +kernel
theorem test_fence_freezes : (after (.fence (lit 1)) base).task.freeze = [.fence 1] ∧ (after .fenceDone (after (.fence (lit 1)) base)).task.freeze = [] := by decide +kernel
theorem test_fence_scope : newest (after (.fence (lit 5)) base) 1 32 8 = 7 := by decide +kernel
theorem test_own : let t := drained (after (.ownToEngine (lit 1)) (latch [(.lsua, 2 + 3 * 256)] base))
    t.task.owners = 0b11100 ∧ (drained (after (.ownToThread (lit 0)) (latch [(.lsua, 3 + 256)] t))).task.owners = 0b10100 := by decide +kernel
/-- A load of a plate that the engine owns (R112). -/
theorem test_owner_trap : newest (after (.ld onS) (put (.s 0) (window 1 2) (latch [(.lsuc, 4), (.lsud, 0x41)] (withTask (fun t => { t with owners := 2 }) base)))) 1 32 8 = 0x13 := by
  decide +kernel
/-- R225: VBASE in bytes, WB, COUNT, FIRST. -/
theorem test_smap_sunm : let t := after (.smap (lit 3)) (latch [(.lsua, 2 ^ 30), (.lsub, 4 + 2 * 256 + 2 ^ 16)] base)
    (nth t.task.stash 3 StashEntry.empty).valid = true ∧ (nth t.task.stash 3 StashEntry.empty).vbase = 2 ^ 30
    ∧ (nth (after (.sunm (lit 3)) t).task.stash 3 StashEntry.empty).valid = false := by decide +kernel
theorem test_store_issue_global : let k : MemKind := .st (.glob 0x1000 0x1000 2 0 0x1000 false) (BitVec.ofNat 1024 0x0201)
    let t := after .storeQueueIssue (withTask (fun t => { t with memq := [{ seq := 1, kind := k }] }) base)
    t.mem = [(0x1000, 1), (0x1001, 2)] ∧ t.task.memq = [] := by decide +kernel

/-! ### One step: vector lanes (R120 to R135) -/

/-- Operands of the vector unit: type word y, all lanes on, a, b, c, the result for v1, t in v0. -/
def vec (i : Head → Instr) (y : Nat) (a b c t : Nat) : Nat :=
  reads (.v 1) (after (i onV) (put (.v 0) t (latch [(.vecy, y), (.veck, 2 ^ 128 - 1), (.veca, a), (.vecb, b), (.vecc, c), (.vecz, b), (.vecd, 0x41)] base)))

theorem test_vadd_int : vec .vadd 0 0x7f81 0 0 0x01ff = 0x8080 ∧ vec .vadd 0x40 0x7f81 0 0 0x01fe = 0x7f80 := by decide +kernel
/-- fp32: 1 + 1 = 2; 1.5 * 2 - 1 = 2; min of 1 and NaN. -/
theorem test_vec_float : vec .vadd 12 0x3f800000 0 0 0x3f800000 = 0x40000000 ∧ vec .vfma 12 0x3fc00000 0 0xbf800000 0x40000000 = 0x40000000
    ∧ vec .vneg 12 0 0 0 0x3f800000 % 2 ^ 32 = 0xbf800000 ∧ vec .vmul 12 0x40000000 0 0 0x40400000 = 0x40c00000 := by decide +kernel
theorem test_vec_bits : vec .vand 4 12 0 0 10 = 8 ∧ vec .vshl 4 1 0 0 32 = 0 ∧ vec .vsar 0 0x80 0 0 1 = 0xc0 ∧ vec .vshr 0 0x80 0 0 1 = 0x40 := by decide +kernel
/-- Lanes 0 of -1 against 1, signed and unsigned. -/
theorem test_vec_compare : vec .vclt 4 0xffffffff 0 0 1 % 2 = 1 ∧ vec .vclt 5 0xffffffff 0 0 1 % 2 = 0 ∧ vec .vceq 4 7 0 0 7 = 2 ^ 32 - 1 := by decide +kernel
theorem test_vec_sums : vec .vsum 4 0 0 0 (lanes 32 [1, 2, 3]) = 6 ∧ vec .vrmax 4 0 0 0 (lanes 32 [1, 9, 3]) = 9 ∧ vec .vmaxi 4 0 0 0 (lanes 32 [1, 9, 9]) = 9 + 2 ^ 32 := by decide +kernel
/-- i32 3 becomes fp32 3.0. -/
theorem test_vcvt : vec .vcvt 4 0 12 0 3 = 0x40400000 ∧ vec .vcvt 12 0 4 0 0x40400000 = 3 := by decide +kernel
theorem test_vec_moves : vec .vbc 7 0 0 0 5 = lanes 64 (List.replicate 16 5) ∧ vec .vext 0 (lanes 8 [1, 0xfe]) 0 0 1 = neg 2 ∧ vec .vrot 0 (2 ^ 1016) 7 0 127 = 1 + 7 * 2 ^ 8 := by decide +kernel
theorem test_vec_places : vec .vpopc 4 0 0 0 7 = 3 ∧ vec .viota 6 0 0 0 4 = lanes 64 ((List.range 16).map (4 + ·)) ∧ vec .vmpak 6 0 0 0 (lanes 64 [0, 5, 0, 6]) = 10 := by decide +kernel
theorem test_vec_type_trap : newest (after (.vadd onV) (latch [(.vecy, 15), (.veck, 1), (.veca, 0), (.vecd, 0x41)] base)) 1 32 8 = 6 := by decide +kernel

/-! ### One step: functions, sorting, the matrix (R136 to R169) -/

def fun1 (i : Head → Instr) (t : Nat) : Nat := reads (.v 1) (after (i onV) (put (.v 0) t (latch [(.lgy, 12), (.lgd, 0x41)] base))) % 2 ^ 32
/-- R71: 2^0 = 1, 1/0, log of -1, the root of 4, tanh of infinity. -/
theorem test_functions : fun1 .ex2 0 = 0x3f800000 ∧ fun1 .rcp 0 = 0x7f800000 ∧ fun1 .lg2 0xbf800000 = 0x7fc00000 ∧ fun1 .sqrt 0x40800000 = 0x40000000 ∧ fun1 .tanh 0x7f800000 = 0x3f800000 := by
  decide +kernel
theorem test_function_words : fun1 .ex2 0x40000000 = 0x40800000 ∧ fun1 .lg2 0x41000000 = 0x40400000 ∧ fun1 .rcp 0x40000000 = 0x3f000000 ∧ fun1 .rsq 0x40800000 = 0x3f000000 := by decide +kernel
/-- R139 to R142: state 0 and draw 0 mix to 0: the uniform is 2^-25. -/
theorem test_rnd : let x := reads (.v 1) (after (.rndGenerator onV) (latch [(.lgy, 12), (.lgb, 0), (.lgd, 0x41)] base)) % 2 ^ 32
    x = 0x33000000 := by decide +kernel

/-- R144 to R150: two candidates, the better first; the count; NaN never enters. -/
theorem test_lake : let nan := List.replicate 30 0x7fc00000
    let s := after (.smrg onV) (put (.v 0) (lanes 32 (0x3f800000 :: 0x40000000 :: nan)) (latch [(.srtb, 10)] base))
    let rd := fun (t : Nat) => reads (.v 1) (after (.srd (lit t)) (latch [(.srtd, 0x41)] s)) % 2 ^ 64
    rd 0 = 0x40000000 + 11 * 2 ^ 32 ∧ rd 1 = 0x3f800000 + 10 * 2 ^ 32 ∧ rd 2 = 0xffffffff7fc00000 := by decide +kernel
theorem test_lake_count : let s := after (.smrg onV) (put (.v 0) (lanes 32 (List.replicate 32 0x3f800000)) (latch [(.srtb, 0)] base))
    s.task.lake.entries.length = 32 ∧ (after (.sclr (lit 0)) s).task.lake.entries = [] ∧ (after (.ssort (lit 0)) s).task.lake.ord = true := by decide +kernel

/-- An e4m3 column of ones against an activation of ones over the first two positions: 2.0 (R166). -/
theorem test_beat : let s := put .mcfg 0x801 (put .pcfg (2 + 256) (latch [(.mxa, 0)] base))
    let s := after (.shift (lit 0)) (after (.push onV) (put (.v 0) 0x3838 s))
    let s := after (.accz onV) (put (.v 0) 0x3838 s)
    sget s.task.mx.acc 0 = 0x40000000 ∧ sget s.task.mx.acc 1 = 0
      ∧ sget (after (.acc onV) (latch [(.mxa, 0)] s)).task.mx.acc 0 = 0x40800000
      ∧ reads (.v 1) (after (.drain (lit 0)) (latch [(.mxe, 0x3F80000C), (.mxd, 0x41)] s)) = 0x40000000 := by decide +kernel
/-- The configuration words of the spec's schedule: the feed of t1, the step of acp. -/
theorem test_feed : let s := put .mcfg 0x3801 (put .acp 0x10000 (put (.tcfg 1) 0x8000000 (latch [(.mxa, 0)] base)))
    let s := withTask (fun t => { t with tiles := sset t.tiles 256 0x38 }) s
    let t := after (.acc (lit 0)) s
    t.task.mx.shadow.rows = 1 ∧ sget t.task.mx.shadow.data 0 = 0x38 ∧ tileR (t.task.regs.getT 1) = 1 ∧ t.task.regs.acp = 0x10001 := by decide +kernel
theorem test_mxclr : (after (.mxclr (lit 0)) (after (.push onV) (put .mcfg 1 base))).task.mx.shadow.fmt = 0 := by decide +kernel

/-! ### One step: synchronisation and speculation (R202 to R206, R300 to R307, R339 to R353) -/

/-- R301: a post of 2, its completion by -2, the overdraft. -/
theorem test_bpost : let post := fun (x : Nat) (s : State) => after (.bpost onS) (put (.s 0) x (latch [(.syna, 5)] s))
    let b := fun (s : State) => getBar s s.task.info 5
    b (post 2 base) = { pend := 2, phase := false, posted := true, broken := false } ∧ (b (post 0 base)).phase = true
      ∧ (b (post (2 ^ 31) (post (2 ^ 31 - 1) base))).broken = true := by decide +kernel
theorem test_bwait : (after (.bwait (lit 5)) base).task.freeze = [.bwait 5 false 0] ∧ (after (.bwait (lit 0x1FF)) base).task.freeze = [] := by decide +kernel
theorem test_hbw : (after (.hbw (lit 3)) base).task.freeze = [.hbw 3] ∧ (after (.hbw (lit 0)) base).task.freeze = [.hbw 1] := by decide +kernel
theorem test_dcnt_cstage_queue : ((after (.dcnt (lit 5)) base).task.memq.map MemOp.kind) = [.dcnt 5] ∧ ((after (.cstage (lit 0x101)) base).task.memq.map MemOp.kind) = [.cstage 0x101] := by decide +kernel
theorem test_uien : newest (after (.uien (lit 1)) base) 1 32 8 = 0x60
    ∧ (after (.uien (lit 1)) (withTask (fun t => { t with info := { t.info with ftab := List.replicate 255 0xffff ++ [50] } }) base)).task.uint.en = true := by decide +kernel
theorem test_apreg : (after (.apreg (lit 2)) (latch [(.spca, 0x1080), (.spcb, 7)] base)).task.spec.regions = [none, none, some { base := 0x1080, rb := 1, tail := 7, hi := none }, none] := by
  decide +kernel
/-- R353: with no header, NOHDR and fragment 0. -/
theorem test_fnext : reads (.s 1) (after (.fnext (lit 0)) (latch [(.spcd, 1)] base)) = 512 := by decide +kernel
/-- A batch header of width 2 that carries s8; fragments 1 to 4 (R341). -/
def header : Nat := 2 ^ 48 + 2 * 2 ^ 64 + 2 ^ 68 + 1 * 2 ^ 16 + 2 * 2 ^ 24 + 3 * 2 ^ 32 + 4 * 2 ^ 40

/-- A round that sgo has opened with s8 = 5. -/
def opened5 : State := after (.sgo (lit 0)) (latch [(.spca, window 0 0)] (plate 0 header (put (.s 8) 5 base)))

theorem test_sgo : opened5.task.spec.phase = .guess ∧ opened5.task.spec.width = 2 ∧ opened5.task.spec.tc.s.getD 0 0 = 5 ∧ (iterAt opened5.task.spec 0).row = some 0 := by decide +kernel
/-- R346, R348: GUESS 1 with s8 = 6, RUN, OUT 0 with s8 = 6, OUT 1 with s8 = 7: both iterations commit and the carry is 7. -/
def ran : State := after (.acmpRun (lit 16)) (latch [(.spcd, 0xff)] (after (.acmpGuess onS) (put (.s 0) 0x101 (latch [(.spcd, 0xff)] (put (.s 8) 6 opened5)))))
def checked : State := after (.acmpOut (lit 33)) (latch [(.spcd, 0xff)] (put (.s 8) 7 (after (.acmpOut (lit 32)) (latch [(.spcd, 0xff)] (put (.s 8) 6 ran)))))
theorem test_acmp_run : ran.task.spec.phase = .spec ∧ reads (.s 8) ran = 5 ∧ ((iterAt ran.task.spec 1).ci.getD Carry.zero).s.getD 0 0 = 6 := by decide +kernel
theorem test_scmt : let t := after (.scmt (lit 0)) checked
    t.task.spec.phase = .done ∧ t.task.spec.n = 2 ∧ reads (.s 8) t = 7 := by decide +kernel
theorem test_sabt : let t := after (.sabt (lit 0)) checked
    t.task.spec.phase = .idle ∧ reads (.s 8) t = 5 := by decide +kernel
theorem test_last_tag : let t := after (.acmpLast (lit 48)) (latch [(.spcd, 0xff)] ran)
    (iterAt t.task.spec 0).last = true ∧ (after (.acmpTag (lit 65)) (latch [(.spcd, 0xff)] ran)).task.spec.cur = 1 := by decide +kernel

/-! ### One step: the device -/

theorem test_result_landing : let s := after (.mul .sa1 onS) (sa 2 0 3)
    ((after (.resultLanding 0) s).task.regs.read (.s 1)).toNat = 6 := by decide +kernel
theorem test_heartbeat : (after .heartbeatTick base).clk.hb = 1 ∧ (after .heartbeatTick base).clk.ck = 128 ∧ (after .heartbeatTick base).clk.ftime = 213 := by decide +kernel
theorem test_doorbell : let s := { base with parts := base.parts.map fun p => { p with sch := { p.sch with queues := p.sch.queues.map fun q => { q with en := true } } } }
    (queueAt (after (.queueDoorbell 0 1 7) s) 0 1).tail = 7 ∧ (queueAt (after (.queueDoorbell 0 1 7) base) 0 1).tail = 0 := by decide +kernel
theorem test_soft_request : (after .softRequest base).task.time.ladder = .asked 0 ∧ (after .softRequest base).task.time.softPending = true := by decide +kernel
theorem test_machine_check : (after .machineCheck base).task.pending = [{ cause := .machineCheck, at_ := some 0 }] := by decide +kernel
theorem test_uncorrectable : poisonedRow (after (.uncorrectableError (.home 5)) base) 5 = true ∧ (after (.uncorrectableError (.scratch 1 2)) base).task.platePoison = [130] := by decide +kernel
theorem test_tlbinv : (getPart (after (.parPtroot 0 0x2001) base) 0).mem.ptroot = 0x2001 ∧ (getPart (after (.tlbinvDone 0) (after (.parPtroot 0 0x2001) base)) 0).mem.tlbBusy = false := by decide +kernel
theorem test_hattr_refused : (getPart (after (.parHattr 0 (3 * 2 ^ 13)) base) 0).mem.herr = true := by decide +kernel
theorem test_waymap : (nth (after (.parWaymap 2 0x4183) base).side.ways 2 0) = 0x183 ∧ (after (.parWaymap 2 (BitVec.allOnes 128)) base).side.ways = base.side.ways := by decide +kernel
/-- CREATE of partition 5; refused once it is there; DESTROY of partition 0 is refused. -/
theorem test_create : let t := after (.create (1 * 2 ^ 60 + 5 * 2 ^ 54)) base
    (getPart t 5).live = true ∧ t.boot.cmdstat = 2 ∧ (after (.create (1 * 2 ^ 60 + 5 * 2 ^ 54)) t).boot.cmdstat = 0x403
      ∧ (after (.destroy (2 * 2 ^ 60)) base).boot.cmdstat = 0x303 := by decide +kernel
theorem test_power_token : (getPart (after (.pwrToken 0 1000) base) 0).res.pwrToken = 1000 ∧ (getPart (after (.pwrToken 0 17501) base) 0).res.pwrToken = 2 ^ 40 := by decide +kernel
theorem test_thermal : (after (.thermalOver 3 100) base).boot.pwrBudget = 100 ∧ (after .thermalTrip base).boot.powered = false := by decide +kernel
/-- R398: X0 first; R383: the version is answered on port 0. -/
theorem test_release : let t := after (.dieRelease 7 true) State.reset
    t.boot.boot = 2 ^ 9 ∧ t.boot.next = 1 ∧ t.boot.measures = [(3, 7)] ∧ (after (.getVersion 0) t).boot.spdmState = [1, 0, 0] := by decide +kernel
theorem test_power_good : (after .powerGood base).task.place = .waiting ∧ (after .powerGood base).mem = [] := by decide +kernel
theorem test_servo : (after (.servoLock 5000 7) base).ept.tstat = 7 * 2 ^ 32 + 3 ∧ (after (.servoLock 5000 7) base).clk.ftime = 5000 := by decide +kernel
theorem test_woad_heartbeat : (pairAt (after (.woadHeartbeat 1) { base with clk := { base.clk with ftime := 9 } }) 0).hbAt = [0, 9] := by decide +kernel
theorem test_no_session : (after (.ingressMessage 3 false 9 0 { src := 5, payload := [] }) { base with boot := { base.boot with boot := 2 ^ 9 } }).ept.wire = [{ sess := 3, seq := 9, hold := true, deadline := 0, acts := 0, dest := 5 }] := by
  decide +kernel
theorem test_epoch_end : (after .epochEnd { base with clk := { base.clk with ftime := 64000 } }).side.epoch = 1 := by decide +kernel
theorem test_translation : (after .translationComplete (withTask (fun t => { t with freeze := [.stall] }) base)).task.freeze = [] := by decide +kernel
/-- A word placed where the next step fetches runs as the first instruction. -/
theorem test_first_instruction : (match step (State.reset.withFetchWord 24 0x081401) with
    | .next t => (t.task.regs.read (.s 1)).toNat
    | _ => 0) = 5 := by decide +kernel

/-! ### For every statement, states that meet what it assumes -/

/-- What Acts asks, computed. -/
def actsB (s : State) (h : Head) : Bool :=
  canIssue s && s.task.time.waitN == 0 && s.task.pending == [] && !grouped s.task && lateSeqs s.task == [] && s.task.spec.todo == []
    && guardVal (opened s) (freeGuard (opened s) 0) h.g && h.src != .lq && h.src != .rxq && !srcPoisoned (opened s) h.src
    && !regPoisoned (opened s).task (.p (renP (rrbRead (opened s)) h.g.p))

theorem acts_of {s : State} {h : Head} (hb : actsB s h = true) : Acts s h := by
  simp only [actsB, Bool.and_eq_true, beq_iff_eq, bne_iff_ne, Bool.not_eq_true'] at hb
  obtain ⟨⟨⟨⟨⟨⟨⟨⟨⟨⟨h1, h2⟩, h3⟩, h4⟩, h5⟩, h6⟩, h7⟩, h8⟩, h9⟩, h10⟩, h11⟩ := hb
  exact ⟨⟨h1, h2, h3, h4, h5, h6⟩, h7, fun h => absurd h h8, fun h => absurd h h9, h10, h11⟩

theorem acts_base : Acts base (lit 0) := acts_of (by decide +kernel)

/-- No block is mirrored where no partition has a pair. -/
theorem noShadow_of {s : State} (h : (s.parts.all fun q => q.res.pairs.isEmpty) = true) : NoShadow s := by
  intro b
  unfold shadowBlock
  rw [List.findSome?_eq_none_iff]
  intro q hq
  have hp := List.all_eq_true.1 h q hq
  rw [List.isEmpty_iff.1 hp]
  rfl

/-! #### Scalar units -/

theorem witness_ScalarOneCycle : Acts (sa 5 6 7) onS ∧ destAt (sa 5 6 7) .sa1d = some (.reg (.s 1)) := ⟨acts_of (by decide +kernel), by decide +kernel⟩

/-- Both cases of a comparison and of sel; the edges of the widths. -/
theorem witness_ScalarCases :
    (port64 (sa 5 6 7) .sa1a ≠ trig64 (sa 5 6 7) onS ∧ trig64 (sa 5 6 7) onS ≠ 0) ∧ (port64 (sa 0 6 0) .sa1a = trig64 (sa 0 6 0) onS ∧ trig64 (sa 0 6 0) onS = 0)
    ∧ (2 ^ (63 - 0) ≤ (trig64 (sa 0 0 (2 ^ 63)) onS).toNat ∧ (trig64 (sa 0 0 (2 ^ 63)) onS).toNat < 2 ^ (64 - 0))
    ∧ (2 ^ (63 - 63) ≤ (trig64 (sa 0 0 1) onS).toNat ∧ (trig64 (sa 0 0 1) onS).toNat < 2 ^ (64 - 63))
    ∧ (2 ^ 63 ∣ (trig64 (sa 0 0 (2 ^ 63)) onS).toNat ∧ (trig64 (sa 0 0 (2 ^ 63)) onS).getLsbD 63 = true)
    ∧ ((List.range 64).countP (fun k => (trig64 (sa 0 0 (neg 1)) onS).getLsbD k) = 64) := by decide +kernel

/-- sext and zext of bit 63's neighbours: width 1, 63, 64. -/
theorem witness_ScalarNarrow :
    (∀ w ∈ [0, 1, 63, 64], ∀ k < 64, (BitVec.ofNat 64 (scal .sext (2 ^ 62 + 1) 0 w)).getLsbD k = if 1 ≤ w ∧ w ≤ k then (BitVec.ofNat 64 (2 ^ 62 + 1)).getLsbD (w - 1) else (BitVec.ofNat 64 (2 ^ 62 + 1)).getLsbD k) := by
  decide +kernel

theorem witness_ScalarMulDiv : Acts (sa (neg 7) 0 2) onS ∧ destAt (sa (neg 7) 0 2) .sa1d = some (.reg (.s 1)) ∧ trig64 (sa (neg 7) 0 2) onS ≠ 0
    ∧ (port64 (sa (neg 7) 0 2) .sa1a).toInt = (-3) * (trig64 (sa (neg 7) 0 2) onS).toInt + (-1) ∧ (-1 : Int).natAbs < (trig64 (sa (neg 7) 0 2) onS).toInt.natAbs
    ∧ trig64 (sa 7 0 0) onS = 0 := ⟨acts_of (by decide +kernel), by decide +kernel⟩

/-- cadd with and without a modulus; the spec's 46 out of 1 and -3 modulo 48. -/
theorem witness_AddressUnit : let s := put (.s 0) (neg 3) (latch [(.agua, 1), (.agub, 48), (.agud, 1)] base)
    Acts s onS ∧ destAt s .agud = some (.reg (.s 1)) ∧ port64 s .agub ≠ 0 ∧ 46 < (port64 s .agub).toNat
      ∧ ((port64 s .agub).toNat : Int) ∣ (port64 s .agua).toInt + (trig64 s onS).toInt - 46 ∧ port64 (latch [(.agub, 0)] s) .agub = 0 :=
  ⟨acts_of (by decide +kernel), by decide +kernel⟩

/-! #### Moves and control -/

theorem witness_PlainMoves : Acts base (lit 5) ∧ (∀ f ∈ (opened base).task.flights, ∀ k, landsAfter base.task.regs.cyc k f = false) ∧ base.task.ports.length = 37 ∧ (opened base).task.flights = [] := by
  exact ⟨acts_of (by decide +kernel), by decide +kernel⟩

/-- The one skipped guard serves an operation and a move alike. -/
theorem witness_SquashedSlot : Ready base ∧ Skipped base { inv := false, p := 1 } ∧ (Instr.jmp { g := { inv := false, p := 1 }, src := .s 0 }).head? = some { g := { inv := false, p := 1 }, src := .s 0 } :=
  ⟨acts_base.1, by unfold Skipped; decide +kernel, rfl⟩

theorem witness_ResultLands : base.task.flights = [] ∧ RegDst.s 1 ≠ .p 0 ∧ RegDst.s 1 ≠ .m 0 := by decide +kernel

theorem witness_Branches : let s := withTask (fun t => { t with info := { t.info with ftab := [7, 9] } }) base
    Acts s (lit 1) ∧ regPoisoned (opened s).task (.s 31) = false ∧ fragOf s.task.info.ftab ((trig64 s (lit 1)).toNat % 256) = some 9 :=
  ⟨acts_of (by decide +kernel), by decide +kernel⟩

theorem witness_LoopPass : let s := put .lc 1 base
    Acts s (lit 5) ∧ (∀ d ∈ [RegDst.lc, .ec, .rrb], regPoisoned (opened s).task d = false ∧ inFlight (opened s).task d = false) ∧ (opened s).task.regs.lc ≠ 0
      ∧ (opened base).task.regs.lc = 0 := ⟨acts_of (by decide +kernel), by decide +kernel⟩

/-- A partition with two frame slots (R319). -/
def framed (s : State) : State := { s with parts := s.parts.map fun p => if p.id = 0 then { p with sch := { p.sch with framecnt := 2 } } else p }

/-- At a safe point of its map: mirrored or not, asked for a safe point or not. -/
def atPoint (mirrored asked : Bool) : State :=
  let s := framed (withTask (fun t => { t with info := { t.info with lmap := [0] }, time := { t.time with softPending := asked } }) base)
  { s with sched := { s.sched with safePt := true }, mir := { s.mir with standing := if mirrored then [{ uid := 1, image := task1, bars := [] }] else [] } }

theorem witness_DoneWaitSys : Acts base (lit 0) ∧ speculative base.task = false ∧ roundOpen base.task.spec = false ∧ lmapEntry base.task 0 base.task.regs.pc = none
    ∧ ∀ m a, Acts (atPoint m a) (lit 0) ∧ (lmapEntry (atPoint m a).task 0 0).isSome = true ∧ (atPoint m a).mir.standing.any (fun x => x.uid == 1) = m
      ∧ (let s := atPoint m a; s.sched.safePt && s.task.time.softPending && slotsThere s (groupOfTask s)) = a := by
  refine ⟨acts_base, by decide +kernel, by decide +kernel, by decide +kernel, fun m a => ?_⟩
  cases m <;> cases a <;> exact ⟨acts_of (by decide +kernel), by decide +kernel⟩

/-- Two tasks of one team, the second parked for mask 3. -/
def team2 : State :=
  let t := { task1 with info := { task1.info with extX := 2, z := 0 } }
  { base with task := t, others := [{ t with uid := 2, info := { t.info with x := 1 }, place := .onCore 0 0 1, freeze := [.rejoin 3], regs := { t.regs with pc := 1 } }] }

theorem witness_Fusion : Acts team2 (lit 3) ∧ ((allTasks team2).map Task.uid).Nodup
    ∧ 2 ≤ ((named (begun team2) team2.task.info 3).filter fun t => t.uid == team2.task.uid || parkedWith t 3).length
    ∧ (let p := withTask (fun t => { t with freeze := [.rejoin 3] }) team2;
      parkMask p.task = some 3 ∧ (named p p.task.info 3).length = popcN 8 3 ∧ (∀ t ∈ named p p.task.info 3, parkedWith t 3 = true) ∧ named p p.task.info 3 ≠ [])
    ∧ (let p := { withTask (fun t => { t with freeze := [.rejoin 3] }) team2 with others := [] };
      parkMask p.task = some 3 ∧ (named p p.task.info 3).length ≠ popcN 8 3)
    ∧ effMask team2.task.info (trig64 team2 (lit 3)) % 2 ^ team2.task.info.x = 0
    ∧ (effMask team2.task.info (trig64 team2 (lit 1))) = 2 ^ team2.task.info.x
    ∧ effMask team2.task.info (trig64 team2 (lit 3)) ≠ 2 ^ team2.task.info.x := ⟨acts_of (by decide +kernel), by decide +kernel⟩

/-- Both tasks of that team fused behind bundle 0; the mask 1 names the first alone. -/
def fused2 : State :=
  { team2 with task := { team2.task with fused := [1, 2] }, others := team2.others.map fun t => { t with fused := [1, 2], freeze := [], regs := task1.regs } }

theorem witness_GroupBundles : 2 ≤ fused2.task.fused.length ∧ groupOfTask fused2 = [1, 2] ∧ leadOf fused2 [1, 2] = 1 ∧ ((allTasks fused2).map Task.uid).Nodup
    ∧ (∀ i, Taken (focus fused2 1) (lit i).g)
    ∧ (∀ u ∈ [1, 2], ∃ x, findTask fused2 u = some x ∧ Readable (focus fused2 u) (lit 1).g (lit 1).src ∧ canIssue (focus fused2 u) = true ∧ 2 ≤ x.fused.length ∧ x.time.waitN = 0
      ∧ x.pending = [] ∧ lateSeqs x = [] ∧ x.spec.todo = [])
    ∧ effMask fused2.task.info (trig64 (focus fused2 1) (lit 1)) = 2 ^ fused2.task.info.x ∧ effMask fused2.task.info (trig64 (focus fused2 1) (lit 3)) ≠ 2 ^ fused2.task.info.x := by
  refine ⟨by decide +kernel, by decide +kernel, by decide +kernel, by decide +kernel, fun i => ?_, fun u hu => ?_, by decide +kernel, by decide +kernel⟩
  · show guardVal (opened (focus fused2 1)) (freeGuard (opened (focus fused2 1)) 0) always = true
    decide +kernel
  · have two : u = 1 ∨ u = 2 := by simpa using hu
    rcases two with rfl | rfl
    · exact ⟨fused2.task, by decide +kernel, ⟨fun h => (Src.noConfusion h), fun h => (Src.noConfusion h), by decide +kernel, by decide +kernel⟩, by decide +kernel⟩
    · exact ⟨(focus fused2 2).task, by decide +kernel, ⟨fun h => (Src.noConfusion h), fun h => (Src.noConfusion h), by decide +kernel, by decide +kernel⟩, by decide +kernel⟩

theorem witness_ControlRegisters : let s := latch [(.ctlb, 1), (.ctla, 3)] base
    Acts s (lit 6) ∧ destAt s .ctlb = some (.reg (.s 1)) ∧ speculative s.task = false ∧ s.task.info.vf = 0 := ⟨acts_of (by decide +kernel), by decide +kernel⟩

/-! #### Memory triggers -/

/-- An operation on t with its operands, over a plate row that holds 77. -/
def lsu (t : Nat) (l : List (Port × Nat)) : State := put (.s 0) t (latch l (plate 130 77 base))
def lsuV (t : Nat) (l : List (Port × Nat)) : State := put (.v 0) t (latch l (plate 130 77 base))

/-- A check that passes, with what it finds. -/
def okWith {ε β γ : Type} (p : γ → Bool) (x : Except ε (β × γ)) : Bool := match x with
  | .ok y => p y.2
  | .error _ => false

theorem ok_of {ε α : Type} {x : Except ε α} (h : x.toBool = true) : ∃ y, x = .ok y := by
  cases x with
  | ok y => exact ⟨y, rfl⟩
  | error _ => cases h

theorem err_of {ε α : Type} {x : Except ε α} (h : x.toBool = false) : ∃ c, x = .error c := by
  cases x with
  | ok _ => cases h
  | error c => exact ⟨c, rfl⟩

theorem ok_eq {ε : Type} {x : Except ε Nat} {n : Nat} (h : (match x with
    | .ok y => y == n
    | .error _ => false) = true) : x = .ok n := by
  cases x with
  | ok y => exact congrArg _ (by simpa using h)
  | error _ => cases h

theorem takes_of {v : Verdict} (h : (match v with
    | .takes .. => true
    | .refuse .. => false) = true) : ∃ img c, v = .takes img c := by
  cases v with
  | takes i c => exact ⟨i, c, rfl⟩
  | refuse _ _ => cases h

theorem refuse_of {v : Verdict} (h : (match v with
    | .takes .. => true
    | .refuse .. => false) = false) : ∃ st b, v = .refuse st b := by
  cases v with
  | takes _ _ => cases h
  | refuse s b => exact ⟨s, b, rfl⟩

theorem ok_with {ε β γ : Type} {p : γ → Bool} {x : Except ε (β × γ)} (h : okWith p x = true) : ∃ b c, x = .ok (b, c) ∧ p c = true := by
  cases x with
  | ok y => exact ⟨y.1, y.2, rfl, h⟩
  | error _ => cases h

theorem ok_is {ε β : Type} {p : β → Bool} {x : Except ε β} (h : (match x with
    | .ok y => p y
    | .error _ => false) = true) : ∃ y, x = .ok y ∧ p y = true := by
  cases x with
  | ok y => exact ⟨y, rfl, h⟩
  | error _ => cases h

theorem some_with {ε β γ : Type} {p : γ → Bool} {x : Except ε (Option (β × γ))} (h : (match x with
    | .ok (some y) => p y.2
    | _ => false) = true) : ∃ b c, x = .ok (some (b, c)) ∧ p c = true := by
  rcases x with _ | (_ | y)
  · cases h
  · cases h
  · exact ⟨y.1, y.2, rfl, h⟩

/-- Lane 0 alone, index 0. -/
def lane0 : Nat := lanes 32 (0 :: List.replicate 31 (2 ^ 31))

theorem witness_LoadTriggers : let s := lsu (window 1 2) [(.lsuc, 4), (.lsud, 0x41)]
    Acts s onS ∧ speculative s.task = false ∧ (∃ s1 tgt, resolve (begun s) accLoad ((trig64 s onS).toNat % 2 ^ 57 / 128 * 128) = .ok (s1, tgt) ∧ (tgt == .plate 130) = true)
      ∧ destAt s .lsud = some (.reg (.v 1)) ∧ outstanding (opened s).task < 32 ∧ s.task.lq.length < 16 :=
  ⟨acts_of (by decide +kernel), by decide +kernel, ok_with (by decide +kernel), by decide +kernel⟩

theorem witness_ElementLoads : let s := lsuV lane0 [(.lsua, window 1 2), (.lsuc, 8), (.lsuy, 12), (.lsud, 0x41)]
    Acts s onV ∧ (port64 s .lsuy).toNat % 16 = 12
      ∧ ∃ s1 l, lanesOf accLoad 32 (alignBase (port64 s .lsua) 32) (trigVal s onV) (fun _ => 0) (fun _ => 0) (List.range 32) (begun s) = .ok (s1, l) ∧ (l.length == 1) = true :=
  ⟨acts_of (by decide +kernel), by decide +kernel, ok_with (by decide +kernel)⟩

theorem witness_QueuedStores : let s := lsu (window 1 2) [(.lsua, 5)]
    Acts s onS ∧ hasRoom s
      ∧ ∃ s1 tgt, resolve (begun s) accStore ((trig64 s onS).toNat % 2 ^ 57 / 128 * 128) = .ok (s1, tgt) ∧ ((tentative s.task.spec tgt).isNone) = true :=
  ⟨acts_of (by decide +kernel), .inr (by decide +kernel), ok_with (by decide +kernel)⟩

theorem witness_ElementStores : let s := lsuV lane0 [(.lsua, window 1 2), (.lsub, 5), (.lsuy, 12)]
    Acts s onV ∧ hasRoom s
      ∧ ∃ s1 l, lanesOf accStore 32 (alignBase (port64 s .lsua) 32) (trigVal s onV) (laneN (portRow s .lsub) 32) (fun _ => 0) (List.range 32) (begun s) = .ok (s1, l)
        ∧ (l.all fun x => (tentative s.task.spec x.tgt).isNone) = true :=
  ⟨acts_of (by decide +kernel), .inr (by decide +kernel), ok_with (by decide +kernel)⟩

/-- Partition 0 with block 0 and a heap over its first 2 MiB: virtual address 0 is physical 0 (R211, R213). -/
def heap (s : State) : State :=
  { s with parts := s.parts.map fun p => if p.id = 0 then { p with res := { p.res with blocks := [0], keys := [1] }
                                                                   mem := { p.mem with hlim := 2 ^ 21, hattr := 0xC003 } } else p }

/-- A round in SPEC whose iteration 0 is current, with an append region at 0 of the heap. -/
def inRound : State := heap (withTask (fun t => { t with spec := { t.spec with phase := .spec, width := 2, header := some (BitVec.ofNat 72 header), regions := [some { base := 0, rb := 1, tail := 0, hi := none }, none, none, none] } }) base)

theorem witness_TentativeStores : let s := put (.s 0) 0 (latch [(.lsua, 5)] inRound)
    Acts s onS ∧ storeEntries s.task < 32
      ∧ ∃ s1 tgt, resolve (begun s) accStore ((trig64 s onS).toNat % 2 ^ 57 / 128 * 128) = .ok (s1, tgt) ∧ (tentative s.task.spec tgt == some (0, 0)) = true :=
  ⟨acts_of (by decide +kernel), by decide +kernel, ok_with (by decide +kernel)⟩

theorem witness_AtomicTriggers : let s := lsuV lane0 [(.lsua, window 1 2), (.lsub, 5), (.lsuc, 8), (.lsuy, 4), (.lsud, 0x41)]
    Acts s onV ∧ storeEntries s.task < 32 ∧ speculative s.task = false ∧ destAt s .lsud = some (.reg (.v 1)) ∧ outstanding (opened s).task < 32
      ∧ (∃ s1 l, amoLanes .cas accAmo (trigger s onV) (begun s) = .ok (s1, l) ∧ (l.length == 1) = true)
      ∧ ∃ s1 l, amoLanes .add accNra (trigger s onV) (begun s) = .ok (s1, l) ∧ (l.length == 1) = true :=
  ⟨acts_of (by decide +kernel), by decide +kernel, by decide +kernel, by decide +kernel, by decide +kernel, ok_with (by decide +kernel), ok_with (by decide +kernel)⟩

/-- The heap is coherent: a red target (R268). -/
theorem witness_ReductionTriggers : let s := put (.v 0) 3 (latch [(.lsua, 0), (.lsub, lanes 32 [1, 2]), (.lsuy, 4)] (heap base))
    Acts s onV ∧ hasRoom s ∧ redTypeOk .add 4 = true ∧ redTypeOk .fadd 12 = true ∧ redTypeOk .fmax 12 = true
      ∧ ∃ s1 tgt, redTarget (begun s) (alignBase (port64 s .lsua) 32 % 2 ^ 57) = .ok (s1, tgt) ∧ (tgt == .glob 0 0 2 0 0 false) = true :=
  ⟨acts_of (by decide +kernel), .inr (by decide +kernel), by decide +kernel, by decide +kernel, by decide +kernel, ok_with (by decide +kernel)⟩

/-- The scopes 0 and 4; the plates up to 127; rinv in the window and in the heap. -/
theorem witness_OrderingTriggers : Acts base (lit 0) ∧ Acts base (lit 4) ∧ (trigVal base (lit 4)).toNat % 256 = 4 ∧ hasRoom base
    ∧ (let s := latch [(.lsua, 125 + 3 * 256)] base;
      Acts s (lit 1) ∧ (port64 s .lsua).toNat / 256 % 256 ≠ 0 ∧ (port64 s .lsua).toNat % 128 + (port64 s .lsua).toNat / 256 % 256 ≤ 128
        ∧ (trigVal s (lit 1)).getLsbD 0 = true ∧ ∀ j < 3, stashOfPlate (opened s).task (125 + j) = none)
    ∧ (let s := latch [(.lsua, 125)] base;
      (port64 s .lsua).toNat / 256 % 256 = 0)
    ∧ isLocal ((trig64 (lsu (window 0 0) []) onS).toNat % 2 ^ 57) = true
    ∧ (let s := put (.s 0) 256 (heap base);
      Acts s onS ∧ isLocal ((trig64 s onS).toNat % 2 ^ 57) = false
        ∧ ∃ s1 tgt, translate (begun s) s.task.info.part accRinv 256 = .ok (s1, tgt) ∧ (tgt == .glob 256 256 2 0 256 false) = true) :=
  ⟨acts_base, acts_of (by decide +kernel), by decide +kernel, .inr (by decide +kernel),
    ⟨acts_of (by decide +kernel), by decide +kernel, by decide +kernel, by decide +kernel, by decide +kernel⟩, by decide +kernel, by decide +kernel,
    acts_of (by decide +kernel), by decide +kernel, ok_with (by decide +kernel)⟩

/-- An entry over the heap's first plate's worth of rows. -/
def mapped : State := after (.smap (lit 3)) (latch [(.lsua, 0), (.lsub, 4 + 256 + 2 ^ 16)] (heap base))

/-- That entry unbound, as sunm and smap leave it. -/
def unmapped (s : State) : State :=
  let u := push (begun s) (s.seq + 1) (.unbind 2 1)
  { u with task := { u.task with stash := setNth s.task.stash 3 { nth s.task.stash 3 StashEntry.empty with valid := false } } }

/-- Entry 3 is there; a window that smap takes, one of no plates that it refuses, one whose plate the engine owns. -/
theorem witness_StashTriggers :
    (let s := latch [(.lsua, 2 ^ 20), (.lsub, 6 + 256)] mapped; let x := smapEntry (port64 s .lsua) (port64 s .lsub)
    Acts s (lit 3) ∧ storeEntries s.task < 32 ∧ nth s.task.stash 3 StashEntry.empty = { valid := true, vbase := 0, wb := true, count := 1, first := 2 }
      ∧ smapRefused (unmapped s).task x = false ∧ (∀ j < x.count, (ownersAt (unmapped s).task).getLsbD (x.first + j) = false) ∧ speculative s.task = false)
    ∧ (let s := latch [(.lsua, 2 ^ 20), (.lsub, 6)] mapped; Acts s (lit 3) ∧ smapRefused (unmapped s).task (smapEntry (port64 s .lsua) (port64 s .lsub)) = true)
    ∧ (let s := latch [(.lsua, 2 ^ 20), (.lsub, 6 + 256)] (withTask (fun t => { t with owners := 8 }) mapped); let x := smapEntry (port64 s .lsua) (port64 s .lsub)
    Acts s (lit 3) ∧ smapRefused (unmapped s).task x = false ∧ x.count = 1 ∧ (ownersAt (unmapped s).task).getLsbD (x.first + 0) = true)
    ∧ (nth base.task.stash 3 StashEntry.empty).valid = false :=
  ⟨⟨acts_of (by decide +kernel), by decide +kernel⟩, ⟨acts_of (by decide +kernel), by decide +kernel⟩, ⟨acts_of (by decide +kernel), by decide +kernel⟩, by decide +kernel⟩

/-- A queue of one operation. -/
def queued (k : MemKind) (s : State) : State := withTask (fun t => { t with memq := [{ seq := 1, kind := k }] }) s

theorem witness_WriteBacks : (queued (.unbind 4 1) base).task.memq = { seq := 1, kind := .unbind 4 1 } :: [] ∧ (queued (.flush [(4, 1)]) base).task.memq = [{ seq := 1, kind := .flush [(4, 1)] }]
    ∧ (let s := withTask (fun t => { t with stashRows := [{ row := 512, dirty := true, src := .glob 0 0 2 0 0 false }] }) base;
      ∃ r ∈ s.task.stashRows, ∃ p ∈ [(4, 1)], inPlates p.1 p.2 r.row = true) := by decide +kernel

/-- A bound dirty row of plate 4, and its way home. -/
def boundRow : StashRow := { row := 512, dirty := true, src := .glob 0 0 2 0 0 false }
def boundState (k : MemKind) : State := queued k (withTask (fun t => { t with stashRows := [boundRow] }) (heap base))
theorem witness_WriteBacks_home : ∀ k ∈ [MemKind.unbind 4 1, .flush [(4, 1)]], rowsThere (boundState k) k = true ∧ atMirror (boundState k).task = false
    ∧ (boundState k).task.stashRows.filter (fun r => r.dirty && inPlates 4 1 r.row) = [boundRow] ∧ Apart (boundState k).task ∧ HomeBound (boundState k) [boundRow] := by
  have apart : ∀ k, Apart (boundState k).task := by
    intro k a ha b hb hab
    have ea : a = boundRow := List.mem_singleton.1 ha
    have eb : b = boundRow := List.mem_singleton.1 hb
    exact absurd (congrArg StashRow.row (ea.trans eb.symm)) hab
  have home : ∀ k ∈ [MemKind.unbind 4 1, .flush [(4, 1)]], dirtyBound (boundState k) 0 (keepRow (boundState k).task.uid (some boundRow.row)) = [] := by decide +kernel
  have clean : ∀ k ∈ [MemKind.unbind 4 1, .flush [(4, 1)]], ∀ x ∈ (boundState k).side.l1, x.core = coreNum (boundState k).task → x.coh = 0 → x.dirty = false := by decide +kernel
  have there : ∀ k ∈ [MemKind.unbind 4 1, .flush [(4, 1)]], rowsThere (boundState k) k = true ∧ atMirror (boundState k).task = false
      ∧ (boundState k).task.stashRows.filter (fun r => r.dirty && inPlates 4 1 r.row) = [boundRow] := by decide +kernel
  have shadow : ∀ k ∈ [MemKind.unbind 4 1, .flush [(4, 1)]], shadowBlock (boundState k) 0 = none := by decide +kernel
  have wf : ∀ k ∈ [MemKind.unbind 4 1, .flush [(4, 1)]], Memory.wf (boundState k).mem = true := by decide +kernel
  intro k hk
  refine ⟨(there k hk).1, (there k hk).2.1, (there k hk).2.2, apart k, wf k hk, apart k, clean k hk, ?_, List.pairwise_singleton _ _⟩
  intro b hb
  obtain rfl := List.mem_singleton.1 hb
  exact ⟨0, ⟨0, 2, 0, 0, false, rfl, by decide +kernel⟩, home k hk, shadow k hk⟩

/-- A fixed and a timed result with its data; a queue entry whose load is at the head. -/
def landingFixed : Flight := { dest := .reg (.s 1), kind := .fixed, val := some 7, poison := false, due := 9, seq := 1, dead := false, landed := false }
theorem witness_Landings :
    (let s := withTask (fun t => { t with flights := [landingFixed] }) base;
      s.task.flights[0]? = some landingFixed ∧ landingFixed.kind = .fixed)
    ∧ (let f := { landingFixed with kind := .timed, due := 0 };
      let s := withTask (fun t => { t with flights := [f] }) base;
      s.task.flights[0]? = some f ∧ f.due ≤ s.task.regs.cyc ∧ memIdx s.task f.seq = none)
    ∧ (let e : LqEntry := { seq := 1, val := none, poison := false };
      let s := withTask (fun t => { t with lq := [e], memq := [{ seq := 1, kind := .ld (.plate 5) }] }) base;
      s.task.lq[0]? = some e ∧ s.task.memq = { seq := e.seq, kind := .ld (.plate 5) } :: [] ∧ (∀ f ∈ s.task.flights, f.seq ≠ e.seq)) := by decide +kernel

theorem witness_MemoryIssues : opsOf base base.task.uid = [] ∧ Memory.wf base.mem = true ∧ heldRow base (rqOf base.task) (0x1000 / 128) = false ∧ (∀ l ∈ base.side.l1, l.core = coreNum base.task → l.coh = 0 → l.dirty = false) ∧ quietRow base 0x1000
    ∧ base.task.platePoison.contains 5 = false ∧ (∀ f ∈ base.task.flights, f.seq = 1 → f.kind = .timed) := by
  refine ⟨by decide +kernel, by decide +kernel, by decide +kernel, by decide +kernel, ?_, by decide +kernel, by decide +kernel⟩
  unfold quietRow
  decide +kernel

/-- A class B launch of partition 0, one team of one task, period 1 us from time 0; an instance of it with a deadline. -/
def lr0 : Launch := { parseLaunch 0x100 0 with seqno := 1, cls := 2, extX := 1, extY := 1, extZ := 1, extS := 1, codelen := 1, wct := 1000, period := 1000 }
def launch0 : LaunchState := newLaunch base 0 lr0 { image := [], ftab := [5], sched := [], lmap := [], groups := [] } []
def inst0 : Inst := { newInst base launch0 0 with id := 1, deadline := some 50, orderDl := some 50 }
/-- The device with that launch and that instance. -/
def launched : State := { base with sched := { base.sched with launches := [launch0], insts := [inst0] } }

def group0 : RedGroup := { addr := 0, op := .add, ty := 4, xmask := 1, yFirst := 0, yCount := 1, zFirst := 0, zCount := 1, stg := 0 }
def contrib0 : Contrib := { inst := 1, group := 0, pass := 0, copy := 0, x := 0, y := 0, z := 0, val := 5, tgt := .glob 0 0 2 0 0 false, off := 0 }
theorem witness_ReductionPass :
    let l := { launch0 with groups := [group0] }
    let s := { launched with sched := { launched.sched with launches := [l], contribs := [contrib0] } }
    findInst s 1 = some inst0 ∧ findLaunch s inst0.seqno = some l ∧ l.groups[0]? = some group0
      ∧ s.sched.contribs.filter (fun c => c.inst == 1 && c.group == 0 && c.pass == passesDone s 1 0) = contrib0 :: [] ∧ [contrib0].length = expected l group0
      ∧ poisonedRow s 0 = false ∧ quietRow s 0 := by
  refine ⟨by decide +kernel, by decide +kernel, by decide +kernel, by decide +kernel, by decide +kernel, by decide +kernel, ?_⟩
  unfold quietRow
  decide +kernel

theorem witness_FenceAndFlip :
    (withTask (fun t => { t with memq := [{ seq := 1, kind := .fence 3 }], freeze := [.fsc none] }) base).task.memq = [{ seq := 1, kind := .fence 3 }] ∧ atMirror base.task = false
    ∧ (let s := withTask (fun t => { t with memq := [{ seq := 1, kind := .own false 3 2 }] }) base;
      s.task.memq = { seq := 1, kind := .own false 3 2 } :: [] ∧ opsOf s s.task.uid = []) := by decide +kernel

/-! #### Vector, functions, sorting, matrix -/

/-- The vector unit's operands, all of lanes 0 and 1 on. -/
def vecState (y t : Nat) : State := put (.v 0) t (latch [(.vecy, y), (.veck, 3), (.veca, 1), (.vecb, 0), (.vecc, 3), (.vecz, 12), (.vecd, 0x41)] base)

/-- Integer types up to 7, the bitwise ones up to 12, floating point from 10 to 12. -/
theorem witness_VectorLanes :
    (Acts (vecState 7 5) onV ∧ destAt (vecState 7 5) .vecd = some (.reg (.v 1)) ∧ (vecCfg (vecState 7 5)).ty < 8)
    ∧ (Acts (vecState 8 5) onV ∧ destAt (vecState 8 5) .vecd = some (.reg (.v 1)) ∧ (vecCfg (vecState 8 5)).ty = 8 ∧ (port64 (vecState 8 5) .vecz).toNat % 16 ≤ 12)
    ∧ (Acts (vecState 10 5) onV ∧ destAt (vecState 10 5) .vecd = some (.reg (.v 1)) ∧ 10 ≤ (vecCfg (vecState 10 5)).ty)
    ∧ (Acts (vecState 12 5) onV ∧ destAt (vecState 12 5) .vecd = some (.reg (.v 1)) ∧ (vecCfg (vecState 12 5)).ty ≤ 12) :=
  ⟨⟨acts_of (by decide +kernel), by decide +kernel⟩, ⟨acts_of (by decide +kernel), by decide +kernel⟩, ⟨acts_of (by decide +kernel), by decide +kernel⟩,
    ⟨acts_of (by decide +kernel), by decide +kernel⟩⟩

/-- Lane 1 is the greatest active lane, lane 0 the least, and there are states without an active lane, and with NaN lanes alone. -/
theorem witness_VectorReductions :
    (let s := vecState 4 (lanes 32 [1, 9, 100]); let t := vecT s onV; let val := intVal (vecCfg s).ty;
      (1 < (vecCfg s).n ∧ vecOn s 1 = true) ∧ (∀ j < (vecCfg s).n, vecOn s j = true → val (t j) ≤ val (t 1)) ∧ (∀ j < (vecCfg s).n, vecOn s j = true → val (t 0) ≤ val (t j))
        ∧ (∀ j < (vecCfg s).n, vecOn s j = true → j < 1 → beats 4 (t j) (t 1) = true) ∧ t 1 < 2 ^ (vecCfg s).w)
    ∧ (∀ k < 32, vecOn (latch [(.veck, 0)] (vecState 4 5)) k = false)
    ∧ (let s := vecState 12 (lanes 32 [0x7fc00000, 0x7fc00000]); ∀ k < 32, vecOn s k = true → isNaNPat 12 (vecT s onV k) = true)
    ∧ (vecCfg (vecState 12 5)).v1 = false := by decide +kernel

/-- VER = 1 of R74, in a task of a partition that has written it. -/
theorem witness_VectorVersions : (vecCfg (withTask (fun t => { t with info := { t.info with nbv := 1 } }) (vecState 12 5))).v1 = true := by decide +kernel

theorem witness_VectorPlaces :
    (let s := vecState 6 (lanes 64 [7, 8]); Acts s onV ∧ destAt s .vecd = some (.reg (.v 1)) ∧ (trig64 s onV).toNat < 128)
    ∧ (let s := put (.s 0) 1 (vecState 0 0); Acts s onS ∧ (trig64 s onS).toNat < (vecCfg s).n ∧ vecOn s (trig64 s onS).toNat = true)
    ∧ (let s := vecState 12 (lanes 32 [0x3f800000]); askpOn (2 ^ 32) = true ∧ askpOn s.task.info.askp = false ∧ isNaNPat 12 (vecT s onV 0) = false ∧ isNaNPat 12 (vecP s .vecb 0) = false) :=
  ⟨⟨acts_of (by decide +kernel), by decide +kernel⟩, ⟨acts_of (by decide +kernel), by decide +kernel⟩, by decide +kernel⟩

def lgState (y t b : Nat) : State := put (.v 0) t (latch [(.lgy, y), (.lgd, 0x41), (.lgb, b)] base)

theorem witness_FunctionUnit : (∀ y ∈ [10, 12], 10 ≤ (port64 (lgState y 0 0) .lgy).toNat % 16 ∧ (port64 (lgState y 0 0) .lgy).toNat % 16 ≤ 12)
    ∧ Acts (lgState 12 0 0) onV ∧ destAt (lgState 12 0 0) .lgd = some (.reg (.v 1)) ∧ (1 : Nat) ≠ 0 := ⟨by decide +kernel, acts_of (by decide +kernel), by decide +kernel⟩

/-- Generator mode up to the last position; replay mode in the window; a draw above 2^24 - 1. -/
theorem witness_Uniforms :
    (let s := lgState 12 (lanes 32 [0x1000000]) ((2 ^ 40 - 1) * 2 ^ 64);
      Acts s onV ∧ destAt s .lgd = some (.reg (.v 1)) ∧ (portRow s .lgy).toNat % 16 = 12 ∧ (portRow s .lgy).toNat.testBit 6 = false
        ∧ (portRow s .lgb).toNat / 2 ^ 64 % 2 ^ 40 + (portRow s .lgy).toNat / 16 % 4 < 2 ^ 40 ∧ ∃ k < 32, 0xffffff < laneN (trigVal s onV) 32 k)
    ∧ (let s := lgState 0x4c 0 ((2 ^ 36 - 1) * 2 ^ 21);
      Acts s onV ∧ (portRow s .lgy).toNat % 16 = 12 ∧ (portRow s .lgy).toNat.testBit 6 = true ∧ (portRow s .lgb).toNat / 2 ^ 21 % 2 ^ 36 = 2 ^ 36 - 1 ∧ s.task.memq = []
        ∧ speculative s.task = false ∧ s.task.platePoison = [] ∧ (∀ f ∈ (opened s).task.flights, f.seq ≠ s.seq + 1)
        ∧ ∀ k < 32, (ownersAt (opened s).task).getLsbD (((portRow s .lgb).toNat / 4 % 2 ^ 19 * 4 + 4 * (((portRow s .lgb).toNat / 2 ^ 64 + min (laneN (trigVal s onV) 32 k) 0xffffff) % 2 ^ 64)) % 2 ^ 21 / 16384) = false
          ∧ stashOfPlate (opened s).task (((portRow s .lgb).toNat / 4 % 2 ^ 19 * 4 + 4 * (((portRow s .lgb).toNat / 2 ^ 64 + min (laneN (trigVal s onV) 32 k) 0xffffff) % 2 ^ 64)) % 2 ^ 21 / 16384) = none) := by
  refine ⟨⟨acts_of (by decide +kernel), by decide +kernel, by decide +kernel, by decide +kernel, by decide +kernel, 0, by decide +kernel⟩, acts_of (by decide +kernel), by decide +kernel⟩

/-- A Lake in its order, of two entries, one candidate and one NaN. -/
def lake2 : Lake := { entries := [{ val := 0x40000000, idx := 3 }, { val := 0x3f800000, idx := 1 }], ord := false }
theorem witness_SortUnit :
    (let s := put (.v 0) (lanes 32 [0x3f800000, 0x7fc00000]) (latch [(.srtb, 8), (.srtd, 0x41)] (withTask (fun t => { t with lake := lake2 }) base));
      Acts s onV ∧ destAt s .srtd = some (.reg (.v 1)) ∧ s.task.lake.entries.Pairwise (fun a b => ranksAbove b a = false) ∧ (∀ c ∈ s.task.lake.entries, isNaNPat 12 c.val.toNat = false)
        ∧ (trigVal s onV).getLsbD 8 = false ∧ Acts s (lit 0) ∧ (trigVal (put (.s 0) 256 s) onS).getLsbD 8 = true)
    ∧ ({ lake2 with ord := true } : Lake).ord = true ∧ ({ lake2 with ord := true } : Lake).entries.Pairwise (fun a b => ranksAbove b a = false) :=
  ⟨⟨acts_of (by decide +kernel), by decide +kernel, by decide +kernel, by decide +kernel, by decide +kernel, acts_of (by decide +kernel), by decide +kernel⟩, by decide +kernel⟩

theorem mxReady_of {s : State} (h : ([RegDst.mcfg, .pcfg, .acp].all fun d => !regPoisoned (opened s).task d && !inFlight (opened s).task d) = true) (hop : opsOf s s.task.uid = []) : MxReady s := by
  refine ⟨fun d hd => ?_, hop⟩
  have := List.all_eq_true.1 h d hd
  simpa using this

/-- The configuration of the spec's schedule, with NCOLS 1. -/
def mxState (mcfg : Nat) : State := put .mcfg mcfg (put .pcfg 0x100 (latch [(.mxa, 0), (.mxe, 0x3F80000C), (.mxd, 0x41)] base))

theorem witness_MatrixPlanes : let s := mxState 0x801
    Acts s onV ∧ Acts s (lit 1) ∧ MxReady s ∧ s.task.mx.shadow.fmt = 0 ∧ mxField s Regs.mcfg 0 6 = 1 ∧ s.task.mx.shadow.lost = []
      ∧ (let p := { s.task.mx.shadow with fmt := 1, nc := 1 }; p.rows < fullRows p ∧ fullRows p ≤ { p with rows := 1 }.rows)
      ∧ (trigVal s (lit 1)).getLsbD 0 = true ∧ (trigVal s (lit 0)).getLsbD 0 = false ∧ destAt s .mxd = some (.reg (.v 1)) ∧ (port64 s .mxe).toNat % 16 = 12
      ∧ drainBad s.task.mx 32 0 0 = false ∧ drainBad { s.task.mx with accBad := [0] } 32 0 0 = true ∧ drainBad { s.task.mx with accBad := [0] } 32 0 1 = false :=
  ⟨acts_of (by decide +kernel), acts_of (by decide +kernel), mxReady_of (by decide +kernel) (by decide +kernel), by decide +kernel⟩

theorem witness_MatrixSums : let s := after (.shift (lit 0)) (after (.push onV) (put (.v 0) 0x38 (mxState 0x801)))
    Acts s onV ∧ MxReady s ∧ swf s.task.mx.acc = true ∧ mxPairs s.task.mx.active.fmt (mxField s Regs.mcfg 8 4) = true ∧ s.task.mx.active.nc = 1 ∧ mxField s Regs.mcfg 12 1 = 0
      ∧ mxPairs (mxState 0x800).task.mx.active.fmt (mxField (mxState 0x800) Regs.mcfg 8 4) = true ∧ (mxState 0x800).task.mx.active.fmt = 0 :=
  ⟨acts_of (by decide +kernel), mxReady_of (by decide +kernel) (by decide +kernel), by decide +kernel⟩

theorem witness_MatrixFeed : let s := put (.tcfg 1) 0x8000000 (withTask (fun t => { t with mx := { t.mx with shadow := { t.mx.shadow with fmt := 1, nc := 1 } } }) (mxState 0x3801))
    Acts s onV ∧ MxReady s ∧ mxPairs s.task.mx.active.fmt (mxField s Regs.mcfg 8 4) = true ∧ mxField s Regs.mcfg 12 1 = 1 ∧ mxField s Regs.acp 16 10 = 0 ∧ mxField s Regs.mcfg 0 6 = 1
      ∧ mxField s Regs.mcfg 13 3 = 1 ∧ tileTy ((opened s).task.regs.getT 1) = feedType 1 ∧ s.task.mx.shadow.fmt = 1 ∧ s.task.mx.shadow.lost = [] ∧ s.task.mx.shadow.rows < s.task.mx.shadow.nc
      ∧ inFlight (opened s).task (.tcfg 1) = false ∧ regPoisoned (opened s).task (.tcfg 1) = false ∧ (opened s).task.tilePoison.contains (256 * 1 + tileR ((opened s).task.regs.getT 1)) = false
      ∧ segEarly (opened s).task (segKey (opened s).task 1) = false :=
  ⟨acts_of (by decide +kernel), mxReady_of (by decide +kernel) (by decide +kernel), by decide +kernel⟩

/-! #### Traps, bundles, synchronisation, speculation -/

theorem bare_base : Bare base := by
  unfold Bare
  decide +kernel

theorem room_base : ringRoom base (ringOf base base.task.info.part false) := by
  unfold ringRoom
  decide +kernel

theorem witness_TrapsTaken : Bare base ∧ onCore base.task = true ∧ base.task.pending = [] ∧ ringRoom base (ringOf base base.task.info.part false)
    ∧ ({ cause := .illType } : Trap).cause ∉ [Cause.pageFault, .killed, .poison, .machineCheck] ∧ ({ cause := .illType } : Trap).kind = 0 ∧ ({ cause := .illType } : Trap).loc = none
    ∧ Acts base (lit 0) ∧ speculative base.task = false :=
  ⟨bare_base, by decide +kernel, by decide +kernel, room_base, by decide +kernel, by decide +kernel, by decide +kernel, acts_base, by decide +kernel⟩

theorem witness_PageFaultSwap : let s := framed base
    slotFor s s.task = some 0 ∧ ringOf s s.task.info.part true < s.rings.length ∧ onCore s.task = true ∧ s.task.pending = [] := by decide +kernel

theorem witness_TrapCauses :
    (let s := latch [(.sa0a, 1), (.sa0d, 0x7e), (.vecd, 0x7e), (.vecy, 15)] base; Acts s (lit 5) ∧ destAt s .sa0d = none ∧ destAt s .vecd = none)
    ∧ (let s := latch [(.vecd, 0x41), (.vecy, 13)] base; Acts s onV ∧ destAt s .vecd = some (.reg (.v 1)) ∧ 13 ≤ (port64 s .vecy).toNat % 16)
    ∧ (let s := latch [(.vecd, 0x41), (.vecy, 8)] base; (port64 s .vecy).toNat % 16 = 8)
    ∧ (let s := lsu 0 [(.lsuc, 4), (.lsud, 0x41)]; Acts s onS ∧ destAt s .lsud = some (.reg (.v 1)) ∧ outstanding (opened s).task < 32
        ∧ ∃ c, resolve (begun s) accLoad ((trig64 s onS).toNat % 2 ^ 57 / 128 * 128) = .error c)
    ∧ (let s := withTask (fun t => { t with flights := List.replicate 32 { landingFixed with kind := .timed }, lq := List.replicate 16 { seq := 9, val := none, poison := false } }) base;
      Acts s (lit 0) ∧ 32 ≤ outstanding (opened s).task ∧ 16 ≤ s.task.lq.length)
    ∧ (Acts base (lit 5) ∧ 4 < (trig64 base (lit 5)).toNat % 256 ∧ (trig64 base (lit 2)).toNat % 4096 ≠ 0 ∧ fragOf base.task.info.ftab 255 = none ∧ (trig64 base (lit 5)).toNat % 2 = 1)
    ∧ (let s := withTask (fun t => { t with info := { t.info with vf := 3 } }) base; Acts s (lit 0) ∧ (trig64 s (lit 0)).toNat % 4096 = 0 ∧ s.task.info.vf ≠ 0)
    ∧ (Acts opened5 (lit 0) ∧ speculative opened5.task = false ∧ roundOpen opened5.task.spec = true) := by
  refine ⟨⟨acts_of (by decide +kernel), by decide +kernel⟩, ⟨acts_of (by decide +kernel), by decide +kernel⟩, by decide +kernel, ⟨acts_of (by decide +kernel), by decide +kernel, by decide +kernel, ?_⟩,
    ⟨acts_of (by decide +kernel), by decide +kernel⟩, ⟨acts_of (by decide +kernel), by decide +kernel⟩, ⟨acts_of (by decide +kernel), by decide +kernel⟩, acts_of (by decide +kernel), by decide +kernel⟩
  refine err_of ?_
  decide +kernel

theorem witness_HandlerReturn : Acts base (lit 0) ∧ base.task.uint.inHandler = false
    ∧ (let s := withTask (fun t => { t with uint := { t.uint with inHandler := true, ret := 30 } }) base; Acts s (lit 0) ∧ s.task.uint.inHandler = true) :=
  ⟨acts_base, by decide +kernel, acts_of (by decide +kernel), by decide +kernel⟩

/-- One live slot; two moves that exchange s1 and s2. -/
def exchange12 : Bundle := BitVec.ofNat 192 (0x000402 + 0x000801 * 2 ^ 24 + packN 24 (List.replicate 6 0x800000) * 2 ^ 48)
theorem witness_BundleOfSlots :
    (let b := bundleOf 0x08010C .acp; liveSlots b = [0] ∧ (decodeSlot b 0).toOption = some (.jtab (lit 0)) ∧ (Instr.jtab (lit 0)).head?.isSome = true)
    ∧ liveSlots exchange12 = [0, 1] ∧ Ready base ∧ (decodeSlot exchange12 0).toOption = some (.move always (.s 1) false (.reg (.s 2)))
    ∧ (decodeSlot exchange12 1).toOption = some (.move always (.s 2) false (.reg (.s 1)))
    ∧ renDst (opened base).task.regs.rrb (.s 2) ≠ renDst (opened base).task.regs.rrb (.s 1)
    ∧ Readable base always (.s 1) ∧ Readable base always (.s 2) ∧ inFlight (opened base).task (.s 1) = false ∧ inFlight (opened base).task (.s 2) = false :=
  ⟨by decide +kernel, by decide +kernel, acts_base.1, by decide +kernel, by decide +kernel, by decide +kernel, (acts_of (h := { g := always, src := .s 1 }) (by decide +kernel)).2.2,
    (acts_of (h := { g := always, src := .s 2 }) (by decide +kernel)).2.2, by decide +kernel, by decide +kernel⟩

/-- In SPEC, in iteration 1: what it triggers is held back, while the deferred queue has room for it. -/
theorem witness_SyncDeferred : ∀ full : Bool,
    let s := withTask (fun t => { t with spec := { t.spec with cur := 1, buf := List.replicate (if full then 64 else 0) (1, { seq := 0, kind := .dcnt 0 }) } }) inRound
    let s := latch [(.syna, 0), (.synd, 1)] s
    Acts s (lit 5) ∧ speculative s.task = true ∧ ∃ s1, recordFault (begun s) 0 = .ok s1
      ∧ ((bufferOp (eaten s1 [.syna, .synd]) (iterOf s.task) { seq := s.seq + 1, kind := .spawn 0 5 false }).task.spec.buf.any (fun e => e.2.seq == s.seq + 1) == !full) = true := by
  intro full
  cases full <;> refine ⟨acts_of (by decide +kernel), by decide +kernel, ?_⟩
  · exact ok_is (by decide +kernel)
  · exact ok_is (by decide +kernel)

theorem witness_SyncTriggers : let s := latch [(.syna, 0), (.synd, 1)] (heap base)
    Acts s (lit 5) ∧ hasRoom s ∧ destAt s .synd = some (.reg (.s 1)) ∧ (∃ s1, recordFault (begun s) 0 = .ok s1) ∧ s.task.info.cls ≠ 0 ∧ (withTask (fun t => { t with info := { t.info with cls := 0 } }) s).task.info.cls = 0 :=
  ⟨acts_of (by decide +kernel), .inr (by decide +kernel), by decide +kernel, ok_of (by decide +kernel), by decide +kernel⟩

/-- Posts that complete, that stay open, that overflow and that overdraw; waits that pass, freeze and find a broken barrier. -/
def barred (b : Barrier) (s : State) : State := setBar s s.task.info 5 b
theorem witness_BarriersAndWaits :
    (let s := put (.s 0) 1 (latch [(.syna, 5)] (barred { pend := 2 ^ 31 - 1, phase := false, posted := true, broken := false } base));
      Acts s onS ∧ (∀ x ∈ s.sched.barSets, x.bars.length = 64) ∧ (getBar s s.task.info 5).broken = false ∧ 2 ^ 31 ≤ (getBar s s.task.info 5).pend + ((trig64 s onS).toNat % 2 ^ 32 : Nat))
    ∧ (let s := put (.s 0) 1 (latch [(.syna, 5)] (barred { pend := 2 ^ 31 - 2, phase := false, posted := true, broken := false } base));
      (getBar s s.task.info 5).pend + ((trig64 s onS).toNat % 2 ^ 32 : Nat) < 2 ^ 31)
    ∧ (let s := put (.s 0) 1 (latch [(.syna, 5)] (barred { pend := -2, phase := false, posted := false, broken := false } base));
      (getBar s s.task.info 5).pend + ((trig64 s onS).toNat % 2 ^ 32 : Nat) < 0)
    ∧ (let s := put (.s 0) 1 (latch [(.syna, 5)] (barred { pend := -1, phase := false, posted := false, broken := false } base));
      (getBar s s.task.info 5).pend + ((trig64 s onS).toNat % 2 ^ 32 : Nat) = 0)
    ∧ (let s := barred { pend := 0, phase := true, posted := false, broken := true } base;
      Acts s (lit 5) ∧ (getBar s s.task.info 5).broken = true ∧ speculative s.task = false)
    ∧ (let s := barred { pend := 0, phase := true, posted := false, broken := false } base;
      Acts s (lit 5) ∧ (getBar s s.task.info 5).phase ≠ (trig64 s (lit 5)).getLsbD 8 ∧ (getBar base base.task.info 5).phase = (trig64 base (lit 5)).getLsbD 8)
    ∧ ((trig64 base (lit 4)).toNat % 2 = 0 ∧ (trig64 base (lit 5)).toNat % 2 = 1 ∧ (fragOf (List.replicate 255 (0xffff : BitVec 16) ++ [50]) 255).isSome = true)
    ∧ (trig64 base (lit 5)).getLsbD 63 = false := by
  refine ⟨⟨acts_of (by decide +kernel), by decide +kernel⟩, by decide +kernel, by decide +kernel, by decide +kernel, ⟨acts_of (by decide +kernel), by decide +kernel⟩,
    ⟨acts_of (by decide +kernel), by decide +kernel⟩, by decide +kernel, by decide +kernel⟩

/-- A session of partition 0. -/
def session0 : Session := { num := 3, part := 0, image := 1, lv := false, last := 0, rv := false, rxseq := 0, ringPa := [0x2000, 0x3000], peer := [], peerOff := 0, slots := [], nextSlot := 0, recSeq := 1, reasonSeq := none, closing := false }

theorem witness_EngineTriggers :
    (let s := latch [(.syna, window 0 0), (.synb, 0)] base;
      Acts s (lit 0) ∧ speculative s.task = false ∧ s.task.memq = [] ∧ isLocal ((port64 s .syna).toNat % 2 ^ 57 / 128 * 128) = true
        ∧ (∃ s1 tgt, resolve (begun s) accLoad ((port64 s .syna).toNat % 2 ^ 57 / 128 * 128) = .ok (s1, tgt) ∧ (tgt == .plate 0) = true) ∧ s.task.platePoison.contains 0 = false ∧ opsOf s s.task.uid = [])
    ∧ (let s := latch [(.syna, window 0 0), (.synb, 3), (.synd, 1)] { base with ept := { base.ept with sessions := [session0] } };
      Acts s (lit 0) ∧ destAt s .synd = some (.reg (.s 1)) ∧ s.task.egress.length < 8 ∧ (ownersAt s.task).getLsbD 0 = false ∧ stashOfPlate s.task 0 = none
        ∧ ∃ x ∈ s.ept.sessions, x.num = (port64 s .synb).toNat % 2 ^ 14 ∧ x.part = s.task.info.part ∧ x.image.getLsbD 0 = true)
    ∧ (withTask (fun t => { t with platePoison := [0] }) base).task.platePoison.contains 0 = true :=
  ⟨⟨acts_of (by decide +kernel), by decide +kernel, by decide +kernel, by decide +kernel, ok_with (by decide +kernel), by decide +kernel⟩,
    ⟨acts_of (by decide +kernel), by decide +kernel⟩, by decide +kernel⟩

/-- From the rounds of the tests: sgo over a header in the window; GUESS, RUN, OUT, TAG in their phases; a commit of two; an abandoned one. -/
theorem witness_CarryActions :
    (let s := latch [(.spcd, 0xff)] (put (.s 0) 0x101 opened5);
      Acts s onS ∧ destAt s .spcd = some .drop ∧ s.task.spec.team = false ∧ s.task.spec.header = some (BitVec.ofNat 72 header) ∧ s.task.spec.iters.length = 8 ∧ s.task.spec.width = 2
        ∧ s.task.memq = [] ∧ s.task.spec.buf = [] ∧ (∀ r ∈ carryRegs (BitVec.ofNat 72 header), regPoisoned (opened s).task r = false)
        ∧ (trig64 s onS).toNat / 16 % 8 = 0 ∧ s.task.spec.phase = .guess ∧ (iterAt s.task.spec 1).ci = none ∧ rowOk s.task.spec 1 1 = true)
    ∧ (let s := latch [(.spcd, 0xff)] ran;
      Acts s (lit 32) ∧ Acts s (lit 49) ∧ Acts s (lit 65) ∧ s.task.spec.phase = .spec ∧ s.task.spec.buf = [] ∧ s.task.memq = [] ∧ s.task.spec.iters.length = 8
        ∧ ∀ j < 2, (iterAt s.task.spec j).fail = false ∧ (iterAt s.task.spec j).co = none) := by
  refine ⟨⟨acts_of (by decide +kernel), by decide +kernel⟩, acts_of (by decide +kernel), acts_of (by decide +kernel), acts_of (by decide +kernel), by decide +kernel⟩

theorem witness_Rounds :
    (let s := latch [(.spca, window 0 0)] (plate 0 header (put (.s 8) 5 base));
      Acts s (lit 0) ∧ s.task.memq = [] ∧ roundOpen s.task.spec = false ∧ (∃ s1 hd, headerRow (begun s) ((port64 s .spca).toNat % 2 ^ 57 / 64 * 64) = .ok (some (s1, hd)) ∧ (hd == BitVec.ofNat 72 header) = true)
        ∧ (BitVec.ofNat 72 header).getLsbD 68 = true ∧ (∀ d ∈ carryRegs (BitVec.ofNat 72 header), regPoisoned (opened s).task d = false ∧ inFlight (opened s).task d = false))
    ∧ (Acts checked (lit 0) ∧ checked.task.spec.phase = .spec ∧ (∀ r ∈ checked.task.spec.regions, r = none) ∧ checked.task.spec.buf = [] ∧ checked.task.memq = []
        ∧ (∀ j < 2, (iterAt checked.task.spec j).done = true ∧ (iterAt checked.task.spec j).fail = false ∧ (j = 0 ∨ (iterAt checked.task.spec (j - 1)).ok = true ∧ (iterAt checked.task.spec (j - 1)).last = false))
        ∧ ¬ 2 < checked.task.spec.width)
    ∧ (Acts opened5 (lit 0) ∧ opened5.task.spec.phase = .guess) ∧ base.task.spec.phase ≠ .spec :=
  ⟨⟨acts_of (by decide +kernel), by decide +kernel, by decide +kernel, some_with (by decide +kernel), by decide +kernel⟩, ⟨acts_of (by decide +kernel), by decide +kernel⟩,
    ⟨acts_of (by decide +kernel), by decide +kernel⟩, by decide +kernel⟩

theorem witness_RegionsAndFragments : let s := latch [(.spca, 0x1080), (.spcb, 7), (.spcd, 1)] base
    Acts s (lit 2) ∧ roundOpen s.task.spec = false ∧ s.task.spec.regions.length = 4 ∧ destAt s .spcd = some (.reg (.s 1)) := ⟨acts_of (by decide +kernel), by decide +kernel⟩

/-! #### The scheduler -/

/-- All dies released, PHASE 2; partition 0 with cluster (0, 0), barrier sets, launch queues, a quota of one unit, the heap. -/
def granted (s : State) : State :=
  let s := heap s
  { s with
    boot := { s.boot with boot := 0xff602, next := 10 }
    parts := s.parts.map fun p => if p.id = 0 then
      { p with
        res := { p.res with held := [(11, 0, 64), (14, 0, 4), (8, 0, 4)], genClusters := [(0, 0)] }
        sch := { p.sch with quota := setNth p.sch.quota 0 0x10001, queues := setNth p.sch.queues 0 { base := 0x100, logn := 4, en := true, head := 0, tail := 1, wait := none } } } else p }

theorem hasPart_base : HasPart base 0 := by unfold HasPart; decide +kernel

/-- A valid class B record at 0x400, its image at 0x1000, its fragment table at 0x2000, queued at 0x800. -/
def recorded (s : State) : State :=
  { s with mem := [(0x401, 0x10), (0x409, 0x20), (0x448, 0xe8), (0x449, 3), (0x450, 1), (0x452, 1), (0x453, 1), (0x454, 1), (0x456, 1), (0x45c, 2), (0x801, 4)] }

/-- The record's bytes. -/
def rawOf (s : State) : Nat := match readImg s 0 0x400 256 with
  | .ok x => x
  | .error _ => 0

/-- Quota left: the record is taken; none left: it waits; a class 3 record is refused. -/
theorem witness_LaunchFlow : let s := recorded (granted base)
    HasPart s 0 ∧ partOpen (getPart s 0) = true ∧ 4 ≤ heldUnits (getPart s 0) 14 0 ∧ (queueAt s 0 0).en = true
      ∧ (queueAt s 0 0).head % queueSize (queueAt s 0 0) ≠ (queueAt s 0 0).tail % queueSize (queueAt s 0 0)
      ∧ (queueAt s 0 0).wait = none ∧ virtWaits s 0 accData ((queueAt s 0 0).base * 8 + (queueAt s 0 0).head % queueSize (queueAt s 0 0) * 8) 8 = false
      ∧ readVirt s 0 accData ((queueAt s 0 0).base * 8 + (queueAt s 0 0).head % queueSize (queueAt s 0 0) * 8) 8 = .ok 0x400
      ∧ recordWaits s 0 0x400 none = false ∧ readImg s 0 0x400 256 = .ok (rawOf s)
      ∧ (∃ img c, judge s 0 (parseLaunch 0x400 (rawOf s)) (rawOf s) = .takes img c) ∧ (parseLaunch 0x400 (rawOf s)).cls ≠ 0 ∧ unitFree s 0 0 = true
      ∧ (∃ st b, judge (recorded (granted base)) 0 (parseLaunch 0x400 (rawOf s + 2 ^ (8 * 0x5C))) (rawOf s + 2 ^ (8 * 0x5C)) = .refuse st b)
      ∧ (queueAt (modPS s 0 fun q => { q with queues := setNth q.queues 0 { nth q.queues 0 (queueAt s 0 0) with wait := some launch0 } }) 0 0).wait = some launch0
      ∧ (let u := modPS s 0 fun q => { q with unitsHeld := setNth q.unitsHeld 0 1 }; unitFree u 0 0 = false)
      ∧ findLaunch launched 1 = some launch0 ∧ nextRelease launch0 = some 0 ∧ 0 ≤ launched.clk.ftime ∧ launch0.gateOpen = true ∧ partOpen (getPart launched 0) = true ∧ skips launch0 = false
      ∧ skips { launch0 with lr := { lr0 with cls := 1 }, level := 3 } = true ∧ lr0.period ≠ 0 := by
  refine ⟨?_, by decide +kernel, by decide +kernel, by decide +kernel, by decide +kernel, by decide +kernel, by decide +kernel, ok_eq (by decide +kernel), by decide +kernel, ok_eq (by decide +kernel),
    takes_of (by decide +kernel), by decide +kernel, by decide +kernel, refuse_of (by decide +kernel), by decide +kernel⟩
  unfold HasPart; decide +kernel

theorem witness_TaskStart : fragOf launch0.ftab (launch0.lr.ents.getD inst0.ent 0) = some 5 := by decide +kernel

/-- The instance's team is the one ready team for cluster (0, 0), where core 0 is held. -/
def ready : State := { granted launched with sched := { launched.sched with nextUid := 2 } }

theorem witness_Dispatch :
    (let r : Rival := { key := orderKey inst0 0 0 0, pair := pairOf launch0.lr, teams := 0, seats := some ({ inst := 1, z := 0, y := 0 }, [((0, 0, (0, 0)) : Seat)]) }
    leastOf (rivals ready (0, 0)) = some r ∧ keyLt r.key (orderKey inst0 0 0 0) = false) ∧ findInst ready 1 = some inst0 ∧ findLaunch ready inst0.seqno = some launch0
      ∧ inst0.id = 1 ∧ launch0.lr.extX ≤ (freeCores ready (0, 0)).length ∧ setFree ready 0 (0, 0) = true ∧ launch0.sched = [] ∧ (∀ t ∈ allTasks ready, t.uid < ready.sched.nextUid) := by
  decide +kernel

/-- Two pipelines of two stages on three clusters of the ring: the lesser starts on the first two, though the other one's first stage could go to the second (R174, R192). -/
theorem test_pipelines_start :
    (let l := { launch0 with lr := { launch0.lr with extY := 2, extS := 2 } }
     let i := { inst0 with teamsLeft := [(0, 0, 0), (0, 0, 1), (1, 0, 0), (1, 0, 1)] }
     let s := { ready with
       parts := ready.parts.map fun q => { q with res := { q.res with held := [(11, 0, 64), (11, 1, 64)], genClusters := [(0, 0), (0, 1), (0, 2)] } }
       sched := { ready.sched with launches := [l], insts := [i] } }
     ((dispatch s (0, 0)).others.filter fun t => 2 ≤ t.uid).map fun t => (t.info.y, t.info.stg, t.place))
      = [(0, 1, .onCore 0 1 0), (0, 0, .onCore 0 0 1)] := by
  decide +kernel

theorem noBound_base : NoBound base := by unfold NoBound; decide +kernel

theorem witness_InstanceEnds :
    let i := { inst0 with tasksLeft := 0, teamsLeft := [] }
    let s := { launched with sched := { launched.sched with insts := [i] } }
    findInst s 1 = some i ∧ findLaunch s i.seqno = some launch0 ∧ i.id = 1 ∧ allEnded i = true ∧ statusWaits s launch0 = false ∧ i.failed = false ∧ launch0.parent = none
      ∧ noneLeft launch0 = false ∧ noneLeft { launch0 with lr := { lr0 with period := 0 }, nextK := 1 } = true ∧ (∀ j ∈ s.sched.insts, j.seqno = i.seqno → j.id ≠ 1 → j.closed = true)
      ∧ ({ launch0 with parent := some (1, 4) } : LaunchState).parent ≠ none ∧ (let j := { i with failed := true }
        let u := { launched with sched := { launched.sched with insts := [j] } }
        findInst u 1 = some j ∧ allEnded j = true ∧ j.failed = true) := by decide +kernel

/-- Before and at the deadline; late with a B team there and with the hold on; a level to go down; a hold to end. -/
theorem witness_Degradation :
    (findInst launched 1 = some inst0 ∧ findLaunch launched 1 = some launch0 ∧ inst0.deadline = some 50 ∧ inst0.closed = false ∧ inst0.missRaised = false ∧ ¬ 50 ≤ launched.clk.ftime
      ∧ 50 ≤ ({ launched with clk := { launched.clk with ftime := 50 } } : State).clk.ftime ∧ launch0.lr.cls ≠ 1 ∧ (1 : Nat) < 2 ^ 63)
    ∧ (let l := { launch0 with lr := { lr0 with release := 100, deadline := 30, dwait := some 4 } }; heldNext l = some (0, 30) ∧ l.lr.cls ≠ 1 ∧ l.lr.seqno = 1)
    ∧ (let l := { launch0 with lr := { lr0 with cls := 1 } }; let s := { launched with sched := { launched.sched with launches := [l] } };
      findLaunch s 1 = some l ∧ inst0.lateRaised = false ∧ 50 < s.clk.ftime + l.lr.wct ∧ inst0.teamsLeft ≠ [] ∧ l.level < 3 ∧ l.lastChange = none)
    ∧ (let l := { launch0 with lr := { lr0 with cls := 1 } }; let b := { launch0 with lr := { lr0 with seqno := 2 } };
      let s := { withTask (fun t => { t with info := { t.info with inst := 2, seqno := 2 } }) launched with sched := { launched.sched with launches := [l, b], insts := [inst0, { inst0 with id := 2, seqno := 2, deadline := none, orderDl := none }] } };
      bTeamThere s 0 = true ∧ (getPart s 0).sch.bhold = false)
    ∧ (let l := { launch0 with lr := { lr0 with cls := 1 }, level := 1, lastChange := some 8 };
      1 ≤ l.level ∧ max (l.lastChange.getD 0) (getPart launched 0).sch.lastS + 32 * 1000 ≤ 32008 ∧ l.lr.period = 1000)
    ∧ (let s := modPS { launched with clk := { launched.clk with ftime := 1000000 } } 0 fun q => { q with bhold := true };
      (getPart s 0).sch.bhold = true ∧ (getPart s 0).sch.lastS + 1000000 ≤ s.clk.ftime) := by decide +kernel

theorem hasPart_launched : HasPart launched 0 := by unfold HasPart; decide +kernel

/-- No such launch, no such instance, one to come, one that is skipped, one that is due. -/
theorem witness_HeldMiss :
    findLaunch launched 7 = none ∧ findLaunch launched 1 = some launch0 ∧ heldNext { launch0 with cancelled := true } = none
    ∧ (let l := { launch0 with lr := { lr0 with deadline := 30 } }; heldNext l = some (0, 30) ∧ launched.clk.ftime < 30 ∧ l.lr.cls ≠ 1 ∧ skipsK l 0 = false)
    ∧ (let l := { launch0 with lr := { lr0 with deadline := 30, cls := 1 }, level := 3 }; heldNext l = some (0, 30) ∧ skipsK l 0 = true) := by decide +kernel

/-- A class S launch of partition 0 with its instance overdue, and before its release; the B hold to take, a level to rise, the top level. -/
def missState (level : Nat) (insts : List Inst) : State :=
  { launched with
    clk := { launched.clk with ftime := 50 }
    sched := { launched.sched with launches := [{ launch0 with lr := { lr0 with cls := 1, deadline := 30 }, level := level }], insts := insts } }
theorem witness_ClassSMiss :
    (∀ level ∈ [0, 3], let s := missState level [inst0]; findLaunch s 1 = some { launch0 with lr := { lr0 with cls := 1, deadline := 30 }, level := level } ∧ findInst s 1 = some inst0 ∧ inst0.seqno = 1
      ∧ inst0.deadline = some 50 ∧ inst0.closed = false ∧ inst0.missRaised = false ∧ 50 ≤ s.clk.ftime ∧ bTeamThere s 0 = false ∧ launch0.lastChange.all (fun n => decide (n + periodOf lr0 ≤ s.clk.ftime)) = true
      ∧ ringOf s 0 false < s.rings.length ∧ ((ringAt s (ringOf s 0 false)).waiting.filter fun w => !w.retry).length < 63)
    ∧ (let l := { launch0 with lr := { lr0 with cls := 1, deadline := 30 } }; let s := missState 0 []; findLaunch s 1 = some l ∧ heldNext l = some (0, 30) ∧ skipsK l 0 = false ∧ 30 ≤ s.clk.ftime)
    ∧ (let b := { launch0 with lr := { lr0 with seqno := 2 } };
      let s := missState 0 [inst0, { inst0 with id := 2, seqno := 2 }]
      let s := { withTask (fun t => { t with info := { t.info with inst := 2, seqno := 2 } }) s with sched := { s.sched with launches := s.sched.launches ++ [b] } };
      bTeamThere s 0 = true ∧ (getPart s 0).sch.bhold = false) := by decide +kernel
theorem hasPart_missState : HasPart (missState 0 [inst0]) 0 := by unfold HasPart; decide +kernel

/-- On core before and after a request; halted at the grace's end; killed; over its time; waiting for a frame slot; saved and to be restored. -/
theorem witness_Escalation :
    (onCore base.task = true ∧ base.task.time.ladder = .run ∧ groupOfTask base = [base.task.uid] ∧ grouped base.task = false ∧ base.task.freeze = [] ∧ base.task.egress = [])
    ∧ (let s := { framed base with clk := { base.clk with ftime := 50000 }, sched := { base.sched with safePt := false } };
      let s := withTask (fun t => { t with time := { t.time with ladder := .asked 0 } }) s;
      s.task.place = .onCore 0 0 0 ∧ s.task.time.ladder = .asked 0 ∧ 0 + 1000 * max 1 ((getPart s 0).sch.grace.toNat % 2 ^ 16) ≤ s.clk.ftime ∧ s.sched.safePt = false ∧ slotFor s s.task = some 0 ∧ s.task.freeze = [] ∧ grouped s.task = false ∧ groupOfTask s = [s.task.uid] ∧ opsOf s s.task.uid = [])
    ∧ (0 + 1000 * max (max 1 ((getPart base 0).sch.grace.toNat % 2 ^ 16)) ((getPart base 0).sch.kill.toNat % 2 ^ 20) ≤ 1000000)
    ∧ (let s := withTask (fun t => { t with time := { t.time with wctUsed := 1 } }) base; s.task.info.wct < s.task.time.wctUsed ∧ s.task.pending = [] ∧ groupOfTask s = [s.task.uid])
    ∧ (let c : Trap := { cause := .pageFault, loc := some 3 }; let s := framed (withTask (fun t => { t with freeze := [.faultWait c] }) base);
      awaitsChild s s.task.uid = false ∧ s.task.freeze = [.faultWait c] ∧ c.loc = some 3 ∧ groupOfTask s = [s.task.uid] ∧ slotFor s s.task = some 0 ∧ ringOf s s.task.info.part true < s.rings.length)
    ∧ (let s := granted { launched with task := { task1 with place := .ready 0, time := { task1.time with ladder := .off } }, sched := { launched.sched with insts := [{ inst0 with teamsLeft := [] }] } };
      s.task.place = .ready 0 ∧ groupOfTask s = [s.task.uid] ∧ (freeCoresFor s (fun u => sameTeam u.info s.task.info) (0, 0)).contains 0 = true ∧ inPool s (0, 0) = false ∧ mayReturn s s.task (0, 0) = true ∧ setFree s 0 (0, 0) = true
        ∧ frameCells s s.task = s.task.frame.kept ∧ ∀ x ∈ rivals s (0, 0), keyLt x.1 (taskKey s s.task) = false) := by decide +kernel

/-! #### Rings, errors, registers, power, mirrors -/

def rec0 : Rec := { words := 5, retry := false, at_ := 0, warned := false }

/-- Ring 0 in use over the heap's block, with one record. -/
def ringed : State :=
  let s := granted base
  { s with rings := setNth s.rings 0 { ringAt s 0 with cfg := 0x8001, waiting := [rec0] } }

theorem witness_RingsAndResume :
    ((ringAt ringed 0).waiting = rec0 :: [] ∧ (ringAt ringed 0).cfg.getLsbD 0 = true ∧ ((ringAt ringed 0).tail + 1) % 64 ≠ (ringAt ringed 0).head % 64
      ∧ frameOk (getPart ringed 0) ((ringAt ringed 0).base * 64) = true ∧ physWaits ringed ((ringAt ringed 0).base * 64) 64 = false ∧ (∀ q < 65, q ≠ 0 → (ringAt ringed q).waiting = []) ∧ ringed.rings.length = 65)
    ∧ (let s := { base with clk := { base.clk with ftime := 1000001 }, rings := setNth base.rings 2 { ringAt base 2 with cfg := 0, waiting := [rec0] } };
      (ringAt s 2).cfg.toNat / 2 ^ 12 % 16 = 0 ∧ ∃ x ∈ (ringAt s 2).waiting, x.warned = false ∧ x.at_ + 1000000 < s.clk.ftime)
    ∧ (let s := withTask (fun t => { t with place := .onRecord 3 }) base; s.task.info.part = 0 ∧ s.task.place = .onRecord 3 ∧ (3 : W64).toNat = 3 ∧ (0x10003 : W64).toNat = 3 + 2 ^ 16
        ∧ groupOfTask s = [s.task.uid] ∧ s.task.egress = [] ∧ ownerOf s s.task.frame.sysrAt ≠ some 0
        ∧ (let s := granted s; s.task.place = .onRecord 3 ∧ ownerOf s s.task.frame.sysrAt = some 0))
    ∧ (∀ x ∈ allTasks base, x.info.part = 0 → x.place ≠ .onRecord 3)
    ∧ (findLaunch launched (1 : W64).toNat = some launch0 ∧ launch0.lr.part = 0 ∧ launch0.lr.part ≠ 1 ∧ ∃ i ∈ launched.sched.insts, i.seqno = (1 : W64).toNat ∧ i.closed = false) := by decide +kernel

/-- A launch that has released nothing, on its own and as the child of a spawnd. -/
theorem witness_Cancels : let s := { launched with sched := { launched.sched with insts := [] } }
    findLaunch s (1 : W64).toNat = some launch0 ∧ launch0.lr.part = 0 ∧ 0 < s.parts.length ∧ (∀ i ∈ s.sched.insts, i.seqno ≠ (1 : W64).toNat) ∧ launch0.parent = none
    ∧ (let l := { launch0 with parent := some (1, 4) }
      let u := { s with task := { task1 with place := .onChild 3 }, sched := { s.sched with launches := [l] } }
      findLaunch u (1 : W64).toNat = some l ∧ l.parent = some (u.task.uid, 4) ∧ u.task.place = .onChild 3 ∧ groupOfTask u = [u.task.uid]
        ∧ ∀ m ∈ u.sched.launches, m.lr.seqno ≠ l.lr.seqno → ∀ x ∈ m.parent, x.1 ≠ u.task.uid) := by decide +kernel

/-- The other rings of that device wait for nothing, whatever their number. -/
theorem witness_RingWrites_others : ∀ q, q ≠ 0 → (ringAt ringed q).waiting = [] := by
  intro q hq
  by_cases h : q < 65
  · exact (by decide +kernel : ∀ q < 65, q ≠ 0 → (ringAt ringed q).waiting = []) q h hq
  · have hl : ringed.rings.length = 65 := by decide +kernel
    unfold ringAt nth
    rw [List.getD_eq_getElem?_getD, List.getElem?_eq_none (by omega)]
    rfl

theorem witness_StoredErrors : poisonedRow base 5 = false ∧ ringRoom base (ringOf base ((ownerOf base (5 * 128)).getD 0) false)
    ∧ poisonedRow (after (.uncorrectableError (.home 5)) base) 5 = true ∧ onCore base.task = true ∧ (∀ c ∈ base.task.pending, c.cause ≠ .machineCheck) ∧ onCore State.reset.task = false
    ∧ (∀ x ∈ base.task.stashRows, x.row ≠ 128 * 127 + 127)
    ∧ (let s := { base with side := { base.side with l1 := [{ core := 0, row := 5, way := 0, coh := 2, data := 1, dirty := true, own := true, bad := false }] } }; ∃ l ∈ s.side.l1, l.row = 5 ∧ l.dirty = true) := by
  refine ⟨by decide +kernel, ?_, by decide +kernel, by decide +kernel, by decide +kernel, by decide +kernel, by decide +kernel, by decide +kernel⟩
  unfold ringRoom; decide +kernel

theorem witness_DieResets : (¬ (base.sched.dierst.toNat / 16 % 4 = 1 ∨ base.sched.dierst.toNat / 16 % 4 = 2)) ∧ (pairAt base (7 / 2)).state ≠ 0 ∧ tasksOn base 7 = []
    ∧ (let s := { base with sched := { base.sched with dierst := 0x20 } }; s.sched.dierst.toNat / 16 % 4 = 2 ∧ (pairAt s 0).isolated ≠ some 0)
    ∧ (let s := { base with sched := { base.sched with dierst := 0x20 }, mir := { base.mir with pairs := setNth base.mir.pairs 0 { Pair.reset with isolated := some 0, taken := false } } };
      (pairAt s 0).isolated = some 0 ∧ (pairAt s 0).taken = false)
    ∧ (let s := { base with sched := { base.sched with dierst := 0x17 } }; s.sched.dierst.toNat / 16 % 4 = 1 ∧ dieEmpty s (s.sched.dierst.toNat % 8) = true)
    ∧ (let s := { base with sched := { base.sched with dierst := 0x10 } }; s.sched.dierst.toNat / 16 % 4 = 1 ∧ dieEmpty s (s.sched.dierst.toNat % 8) = false)
    ∧ (∀ l ∈ base.side.l1, l.core / 64 = 7 → l.dirty = false)
    ∧ base.task.place = .onCore 0 0 0 ∧ groupOfTask base = [base.task.uid] ∧ base.others = [] ∧ (pairAt base 0).state ≠ 0
    ∧ (let s := { base with mir := { base.mir with pairs := setNth base.mir.pairs 2 { Pair.reset with isolated := some 5, taken := true } } };
      (pairAt s 2).isolated = some 5 ∧ (pairAt s 2).taken = true ∧ ∀ j < 5, ¬ ((pairAt s (j / 2)).isolated = some j ∧ (pairAt s (j / 2)).taken = true))
    ∧ (∀ k < 8, ¬ ((pairAt base (k / 2)).isolated = some k ∧ (pairAt base (k / 2)).taken = true)) := by decide +kernel
theorem room_loseCaches : ringRoom (loseCaches base 0) (ringOf base base.task.info.part false) := by unfold ringRoom; decide +kernel

theorem still_base : Still base := ⟨by decide +kernel, noBound_base, noShadow_of (by decide +kernel)⟩

/-- A stop of partition 0 that is complete: STOPPING, its tasks off their cores. -/
theorem witness_StopAndLog : HasPart base 0 ∧ (0 : W64).getLsbD 0 = false ∧ (1 : W64).getLsbD 0 = true ∧ (0x1000 : W64).toNat / 2 ^ 3 % 2 ^ 49 * 8 ≠ 0 ∧ isDevice 0x1000 = true ∧ Still base
    ∧ (getPart base 0).sch.stopping = 0
    ∧ (let s := modPS { base with task := { task1 with place := .ready 0 } } 0 fun q => { q with stopping := 1, stop := 0x1000 };
      (getPart s 0).sch.stopping = 1 ∧ quiet s 0 = true ∧ (getPart s 0).sch.dirtyFrames = [] ∧ isDevice (getPart s 0).sch.stop.toNat = true) :=
  ⟨hasPart_base, by decide +kernel, by decide +kernel, by decide +kernel, by decide +kernel, still_base, by decide +kernel⟩

theorem witness_Translations : HasPart base 0 ∧ (0x6000 : W64).toNat / 2 ^ 13 % 4 = 3 ∧ heapOk (getPart base 0) 0 = true ∧ tasksOf base 1 = [] ∧ HasPart base 1 ∧ heapOk (getPart base 1) 0 = true
    ∧ (getPart base 0).mem.tlbBusy = false ∧ (getPart (after (.parPtroot 1 1) base) 1).mem.tlbBusy = true :=
  ⟨hasPart_base, by decide +kernel, by decide +kernel, by decide +kernel, by unfold HasPart; decide +kernel, by decide +kernel⟩

/-- A contribution to a pass of partition 0 that is still open is an access that is not complete. -/
theorem witness_OpenPass : let s := modPM { launched with sched := { launched.sched with contribs := [contrib0] }, task := { task1 with info := { task1.info with part := 9 } } } 0 fun q => { q with tlbBusy := true, tlbinv := 2 ^ 63 }
    tasksOf s 0 = [] ∧ (getPart s 0).mem.tlbBusy = true ∧ passWaits s 0 (fun _ => true) = true ∧ passWaits s 0 (vaHit s 0 (getPart s 0).mem.tlbinv) = true
      ∧ passWaits base 0 (fun _ => true) = false := by decide +kernel

/-- Partition 0 holds block 0: region 5 stands on die 0; region 1024 is nobody's; an exchange under way. -/
theorem witness_RegionCommands : let s := granted base
    HasPart s 0 ∧ (getPart s 0).mem.rgnstat.toNat % 4 ≠ 1 ∧ ownerOf s (5 * 2 ^ 21) = some 0 ∧ (plainBlocks (getPart s 0)).contains (5 / 1024) = true ∧ (regionOf s 5).home = 0 ∧ (regionOf s 5).deg = 0
      ∧ (getPart s 0).mem.exchange = none ∧ partnerRegion s (getPart s 0) 3 5 = none ∧ ownerOf s (1024 * 2 ^ 21) = none ∧ (plainBlocks (getPart s 0)).contains (1024 / 1024) = false ∧ ownerOf s (5 * 2 ^ 21) ≠ some 1
      ∧ (let u := modPart s 0 fun q => { q with res := { q.res with blocks := [0, 96] } }; (partnerRegion u (getPart u 0) 3 5).isSome = true)
      ∧ (let u := modPart s 0 fun q => { q with mem := { q.mem with exchange := some (5, 7, true) } }; (getPart u 0).mem.exchange = some (5, 7, true)) := by
  refine ⟨?_, by decide +kernel⟩
  unfold HasPart; decide +kernel

/-- Regions that rise, that fall, that are pinned and that are new; way maps with two open ways and with one; a staged table to commit. -/
def region0 (n deg hits missr coll epochs : Nat) (dpin : Bool) : RegionState :=
  { num := n, home := 0, deg := deg, ppin := false, dpin := dpin, hits := hits, missr := missr, coll := coll, accDie := List.replicate 9 0, epochs := epochs }
theorem witness_EpochsAndSlots :
    (let s := { base with clk := { base.clk with ftime := 64000 }, side := { base.side with regions := [region0 1 2 0 64 4 4 false, region0 2 3 3 4 0 4 false, region0 3 1 0 64 0 9 true, region0 4 1 0 64 0 3 false] } };
      s.side.epoch < s.clk.ftime / 64000 ∧ (s.side.regions.map RegionState.num).Nodup ∧ ∀ r ∈ s.side.regions, r.accDie.sum < 512)
    ∧ base.clk.ftime / 64000 ≤ base.side.epoch
    ∧ ((List.range 16).filter fun k => (BitVec.ofNat 128 (packN 8 (List.replicate 14 0x80))).getLsbD (8 * k + 7) = false).length = 2
    ∧ ((List.range 16).filter fun k => (BitVec.ofNat 128 (packN 8 (List.replicate 15 0x80))).getLsbD (8 * k + 7) = false).length = 1
    ∧ base.side.ways.length = 8 ∧ base.side.hbmCommit.length = 8 ∧ base.side.hbmActive.length = 8 ∧ base.side.hbmErr.length = 8
    ∧ (let s := { base with clk := { base.clk with ftime := 1280 }, side := { base.side with hbmCommit := setNth base.side.hbmCommit 1 true } };
      s.side.hbmFrame < s.clk.ftime / 1280 ∧ nth s.side.hbmCommit 1 false = true ∧ nth s.side.hbmCommit 2 false = false)
    ∧ stallOver base = true ∧ stallOver (queued .mark base) = false := by decide +kernel

theorem witness_Power :
    (let s := { base with clk := { base.clk with ftime := 1000000 } }; s.boot.interval < s.clk.ftime / 1000000 ∧ (s.parts.map fun q => q.res.pwrToken.toNat % 2 ^ 20).sum ≤ s.boot.pwrBudget)
    ∧ base.clk.ftime / 1000000 ≤ base.boot.interval ∧ (getPart base 5).res.frozen = false ∧ (getPart (after (.powerThrottle 5) base) 5).res.frozen = true ∧ 5 < base.parts.length
    ∧ (17500 : W64).toNat / 2 ^ 20 % 2 ^ 20 ≤ (17500 : W64).toNat % 2 ^ 20 ∧ ((base.parts.filter fun q => q.id != 5).map fun q => q.res.pwrToken.toNat % 2 ^ 20).sum + (17500 : W64).toNat % 2 ^ 20 ≤ base.boot.pwrBudget
    ∧ base.boot.pwrBudget < ((base.parts.filter fun q => q.id != 5).map fun q => q.res.pwrToken.toNat % 2 ^ 20).sum + (17501 : W64).toNat % 2 ^ 20
    ∧ ((base.parts.filter fun q => q.id != 5).map fun q => (nth q.res.lnk 39 0).toNat / 2 ^ 32 % 2 ^ 16).sum + (BitVec.ofNat 64 (36000 * 2 ^ 32)).toNat / 2 ^ 32 % 2 ^ 16 ≤ 36000
    ∧ (getPart base 5).res.lnk.length = 40 ∧ base.boot.powered = true ∧ (17499 : BitVec 20).toNat < 17500 ∧ 17500 ≤ (17500 : BitVec 20).toNat ∧ (∀ d ∈ base.boot.hot, d = 3) := by decide +kernel

/-- The pool and a WEIGHT there or not. -/
theorem witness_Draws : let s := modPart { base with boot := { base.boot with pool := 20 } } 5 fun q => { q with res := { q.res with pwrToken := 2 ^ 40 } }
    (getPart s 5).res.frozen = false ∧ (getPart s 5).res.pwrToken.toNat / 2 ^ 40 % 2 ^ 8 ≠ 0 ∧ s.boot.pool ≠ 0
      ∧ (let u := modPart s 5 fun q => { q with res := { q.res with pwrToken := 7 } }; (getPart u 5).res.pwrToken.toNat / 2 ^ 40 % 2 ^ 8 = 0)
      ∧ (let u := { s with boot := { s.boot with poolWait := [5] } }; drawNext u = some (5, 0) ∧ 5 < u.parts.length
        ∧ (let v := modPart { u with boot := { u.boot with pool := 0, poolWait := [6] } } 6 fun q => { q with res := { q.res with pwrToken := 0 } }; drawNext v = some (6, 0) ∧ (getPart v 6).res.pwrToken.toNat / 2 ^ 40 % 2 ^ 8 = 0)) := by decide +kernel

/-- R230: two lines of one colour, the two ends of an aligned 128 KiB; two frames of different colours; R231's use of PA[30:27]. -/
theorem witness_SliceIndex : (0x20000 : Nat) / 2 ^ 17 = 0x3ffff / 2 ^ 17 ∧ colour 0x20000 ≠ colour 0x40000 ∧ sliceRow (2 ^ 27) = 2 ^ 10 ∧ sliceBank (2 ^ 38) = 2 ∧ sliceSet (2 ^ 39 - 1) < 49152 := by
  decide +kernel

/-- R230, R231: the spec's example, PA 0x12_3456_7880. -/
theorem test_slice_index : sliceRow 0x1234567880 = 0x34F1 ∧ colour 0x1234567880 = 13 ∧ sliceBank 0x1234567880 = 1 ∧ sliceSet 0x1234567880 = 29937 ∧ homeDie base 0x1234567880 = 1 := by
  decide +kernel

/-- The first and the last entry, and what stands after it; partition 5 bound to a stream of port 0. -/
theorem witness_CapabilityTable : (granted base).boot.boot.getLsbD 9 = true ∧ (getPart (granted base) 0).res.ide = [] ∧ capEntries[0]? = some (1, 0) ∧ totalOf 1 0 = some (8, 1)
    ∧ capEntries[capEntries.length - 1]? = some (14, 0) ∧ (totalOf 14 0).isSome = true ∧ capEntries.length < 2048
    ∧ (let s := modPart (granted base) 5 fun q => { q with res := { q.res with ide := [(0, 3)] } }; (getPart s 5).res.ide ≠ [] ∧ (∃ x ∈ (getPart s 5).res.ide, some (0, 3) = some x)
      ∧ ¬ ∃ x ∈ (getPart s 5).res.ide, (none : Option (Nat × Nat)) = some x) := by decide +kernel

theorem witness_RegisterMaps : base.boot.boot.getLsbD 9 = false ∧ (granted base).boot.boot.getLsbD 9 = true ∧ (granted base).boot.boot.toNat % 4 = 2
    ∧ (let s := after (.create (1 * 2 ^ 60 + 5 * 2 ^ 54)) (granted base); (getPart s 5).live = true ∧ 5 < s.parts.length ∧ s.boot.boot.getLsbD 9 = true) ∧ base.rings.length = 65 := by decide +kernel

/-- Partition 0 with blocks 0 and 32 as a mirrored pair; pair 0 active. -/
def paired : State :=
  let s := modPart (granted base) 0 fun q => { q with res := { q.res with blocks := [0, 32], pairs := [(0, 32)] } }
  { s with mir := { s.mir with pairs := setNth s.mir.pairs 0 { Pair.reset with state := 0, taken := false } } }

theorem witness_MirrorsKept :
    (let s := { withTask (fun t => { t with freeze := [.mirror false], info := { t.info with cls := 0 } }) paired with mir := { paired.mir with written := [(1, 9)] } };
      s.mir.pairs.length = 4 ∧ onCore s.task = true ∧ Memory.wf s.mem = true ∧ s.task.freeze = [.mirror false] ∧ s.mir.written = [(s.task.uid, 9)] ∧ shadowBlock s (9 / 2 ^ 24) = some 32
        ∧ onMute s s.task = false ∧ (let u := { s with mir := { s.mir with mute := [0] } }; onMute u u.task = true) ∧ (withTask (fun t => { t with freeze := [.mirror true] }) s).task.freeze = [.mirror true])
    ∧ (∀ f ∈ base.task.freeze, f ≠ .mirror false) ∧ (pairAt paired 0).isolated = none ∧ (pairAt paired 0).hbAt.length = 2 ∧ (pairAt paired 0).state = 0
    ∧ (let s := { paired with task := { task1 with place := .onCore 0 0 0 }, clk := { paired.clk with ftime := 200000 } };
      (pairAt s 0).hbAt.getD 1 0 + 200000 ≤ s.clk.ftime ∧ (pairAt s 0).hbAt.getD 0 0 + 200000 ≤ s.clk.ftime ∧ tasksOn s 1 = [] ∧ s.sched.dierst.toNat / 16 % 4 ≠ 1)
    ∧ (let s := after (.woadHeartbeat 0) { paired with clk := { paired.clk with ftime := 200000 } }; ¬ (pairAt s 0).hbAt.getD 0 0 + 200000 ≤ s.clk.ftime ∧ (pairAt s 0).hbAt.getD 1 0 + 200000 ≤ s.clk.ftime) := by
  decide +kernel

/-- A die whose heartbeat is not overdue, and one that is isolated already. -/
theorem witness_SilentDie : ¬ (pairAt paired 0).hbAt.getD 0 0 + 200000 ≤ paired.clk.ftime ∧ (pairAt paired 0).state = 0 ∧ (pairAt paired 0).isolated = none
    ∧ (let s := { paired with mir := { paired.mir with pairs := setNth paired.mir.pairs 0 { Pair.reset with state := 1, isolated := some 0 } } }; (pairAt s 0).isolated = some 0) := by decide +kernel

/-- A die of a mirrored pair with a task that cannot be replayed, and with one that can. -/
def replayed : State :=
  { paired with
    task := { task1 with info := { task1.info with cls := 0 } }
    sched := { paired.sched with insts := [inst0] }
    mir := { paired.mir with standing := [{ uid := 1, image := task1, bars := [] }] } }
theorem witness_OrderlyPaired : (pairAt paired 0).state = 0 ∧ paired.mir.pairs.length = 4 ∧ (∀ t ∈ allTasks paired, onCore t = true → dieOf t = 0 → canReplay paired t = false)
    ∧ (pairAt replayed 0).state = 0 ∧ replayed.task.place = .onCore 0 0 0 ∧ canReplay replayed replayed.task = true ∧ replayed.others = [] := by decide +kernel
theorem bare_replayed : Bare replayed := by unfold Bare; decide +kernel

/-- Die 0 lost and not yet taken over; a task to fail over; a pair to resync, and one that resyncs. -/
theorem witness_FailOvers :
    (let s := { paired with mir := { paired.mir with pairs := setNth paired.mir.pairs 0 { Pair.reset with state := 1, taken := false, lost := 0 } } };
      (pairAt s 0).taken = false ∧ (pairAt s 0).lost = 0 ∧ (s.parts.flatMap fun q => q.res.pairs) = [(0, 32)] ∧ (0 : Nat) ≠ 32 ∧ homeDie s 0 = 0 ∧ Memory.wf s.mem = true)
    ∧ (let t := { task1 with place := .replay 0 0 0, info := { task1.info with cls := 0 } };
      let s := { paired with task := t, mir := { paired.mir with pairs := setNth paired.mir.pairs 0 { Pair.reset with state := 1, taken := true, lost := 0 }, standing := [{ uid := 1, image := task1, bars := [] }] } };
      s.task.place = .replay 0 0 0 ∧ (pairAt s 0).taken = true ∧ holders s (partnerOf 0, 0) = [] ∧ (s.mir.standing.find? fun y => y.uid == s.task.uid) = some { uid := 1, image := task1, bars := [] }
        ∧ (pairAt s 0).state = 1 ∧ dieOpen s (pairAt s 0).lost = true ∧ (findInst s s.task.info.inst).any Inst.failed = false ∧ (∀ y ∈ allTasks s, .replayWait ∉ y.freeze) ∧ s.others = []
        ∧ (let u := { s with sched := { s.sched with insts := [{ inst0 with failed := true }] } }; (findInst u u.task.info.inst).any Inst.failed = true))
    ∧ ((0x30 : W64).toNat / 16 % 4 = 3 ∧ (0x30 : W64).toNat % 8 = 0)
    ∧ (let s := { paired with mir := { paired.mir with pairs := setNth paired.mir.pairs 0 { Pair.reset with state := 2, lost := 1 } } };
      (pairAt s 0).state = 2 ∧ homeDie s 0 = partnerOf (pairAt s 0).lost) ∧ (∀ t ∈ allTasks base, inReplay t = false) := by decide +kernel

/-! #### Partitions, the endpoint, the Mordant die, engines -/

/-- A command word: OP, partition, type, instance, number. -/
def cmd (op p ty inst n : Nat) : W64 := BitVec.ofNat 64 (op * 2 ^ 60 + p * 2 ^ 54 + ty * 2 ^ 40 + inst * 2 ^ 32 + n)

/-- Two live partitions, all dies released; partition 5 holds blocks 1 and 33 and two frame units. -/
def two : State :=
  modPart (granted base) 5 fun _ => { Part.reset 5 true with res := { PartRes.reset with blocks := [1, 33] } }

theorem witness_PartitionCommands :
    CmdOf two (cmd 1 5 0 0 0) 1 ∧ (getPart two 5).live = true ∧ (getPart two 6).live = false ∧ 6 < two.parts.length ∧ CmdOf two (cmd 2 5 0 0 0) 2
    ∧ (let s := after (.destroy (cmd 2 5 0 0 0)) two; (getPart s 5).sch.stopping = 3 ∧ quiet s 5 = true ∧ s.boot.cmdstat.toNat % 4 = 1)
    ∧ (CmdOf two (cmd 3 5 14 0 4) 3 ∧ (totalOf 14 0).isSome = true ∧ (totalOf 255 0) = none ∧ instReleased two 14 0 = true ∧ 4 % ((totalOf 14 0).getD (0, 1)).2 = 0 ∧ 4 ≤ freeUnits two 14 0
        ∧ 1 ≤ freeUnits two 1 3 ∧ (totalOf 1 3).isSome = true)
    ∧ (let s := after (.grant (cmd 3 5 14 0 4)) two;
      heldUnits (getPart s 5) 14 0 = 4 ∧ stillServes s 5 14 0 (4 - 4) = true ∧ CmdOf s (cmd 4 5 14 0 4) 4 ∧ ¬ 8 ≤ heldUnits (getPart s 5) 14 0)
    ∧ (let b := 7; released two (b / 32) = true ∧ (∀ x ∈ two.parts, x.res.blocks.contains b = false ∧ x.res.scrubbing.contains b = false) ∧ (getPart two 5).res.blkreq.getLsbD 63 = false)
    ∧ (∃ x ∈ two.parts, x.res.blocks.contains 0 = true)
    ∧ ((getPart two 5).res.blocks.contains 1 = true ∧ blockUsed two 5 1 = false ∧ (cmd 6 5 0 0 1).getLsbD 53 = false)
    ∧ ((getPart two 5).res.blocks.contains 33 = true ∧ 33 / 32 = partnerOf (1 / 32) ∧ (getPart two 5).res.pairs = [] ∧ ∀ l ∈ two.side.l1, l.row / 2 ^ 24 ≠ 1 ∧ l.row / 2 ^ 24 ≠ 33)
    ∧ ∃ x ∈ (getPart paired 0).res.pairs, x.1 = 0 ∨ x.2 = 0 ∨ x.1 = 32 ∨ x.2 = 32 := by
  refine ⟨by unfold CmdOf; decide +kernel, by decide +kernel, by decide +kernel, by decide +kernel, by unfold CmdOf; decide +kernel, by decide +kernel,
    ⟨by unfold CmdOf; decide +kernel, by decide +kernel⟩, ⟨by decide +kernel, by decide +kernel, by unfold CmdOf; decide +kernel, by decide +kernel⟩, by decide +kernel, by decide +kernel, by decide +kernel,
    by decide +kernel, by decide +kernel⟩

theorem witness_PartitionEvents : HasPart two 5
    ∧ (let s := after (.blkrem (cmd 6 5 0 0 1)) two; (getPart s 5).res.blkreq = BitVec.ofNat 64 (2 ^ 63 + 1) ∧ (getPart s 5).res.blocks.contains 1 = true ∧ tasksOf s 5 = [])
    ∧ (let s := modPart two 5 fun q => { q with res := { q.res with scrubbing := [9] } }; s.parts.find? (fun x => x.res.scrubbing.contains 9) = some (getPart s 5) ∧ (getPart s 5).id = 5)
    ∧ ((getPart two 6).live = false ∧ (getPart two 5).live = true)
    ∧ (let s := withTask (fun t => { t with info := { t.info with part := 5 } }) two; s.task.info.part = 5 ∧ onCore s.task = true ∧ s.task.egress = [] ∧ ∀ t ∈ s.others, t.info.part ≠ 5 ∧ t.uid ≠ s.task.uid)
    ∧ inboundAddr base 0 64 128 = none
    ∧ (let s := modPart two 0 fun q => { q with mem := { q.mem with inbase := 1 } }; inboundAddr s 0 64 128 = some ((getPart s 0).mem.inbase.toNat / 2 ^ 18 % 2 ^ 19 * 2 ^ 21 + 64))
    ∧ NoBound two ∧ Still two :=
  ⟨by unfold HasPart; decide +kernel, by decide +kernel, by decide +kernel, by decide +kernel, by decide +kernel, by decide +kernel, by decide +kernel, by unfold NoBound; decide +kernel,
    by decide +kernel, by unfold NoBound; decide +kernel, noShadow_of (by decide +kernel)⟩

/-- Inbound accesses: on the partition's stream or not, in their turn or behind an earlier one, to a region that moves. -/
theorem witness_Inbound :
    (let s := modPart two 0 fun q => { q with mem := { q.mem with inbase := 1 }, res := { q.res with ide := [(0, 3)] } };
      (getPart s 0).res.ide ≠ [] ∧ (∃ x ∈ (getPart s 0).res.ide, some (0, 3) = some x) ∧ s.boot.inq = [] ∧ inWaits s { part := 0, req := 7, io := 1, off := 64, len := 128, data := none } = false
        ∧ s.boot.boot.getLsbD (9 + 0) = true ∧ s.boot.boot.getLsbD (9 + 1) = true ∧ base.boot.boot.getLsbD (9 + 1) = false)
    ∧ (let s := modPart two 0 fun q => { q with mem := { q.mem with inbase := 1, exchange := some (0, 7, true) } };
      (getPart s 0).res.ide = [] ∧ inWaits s { part := 0, req := 7, io := 1, off := 64, len := 128, data := none } = true)
    ∧ (let s := { two with boot := { two.boot with inq := [{ part := 5, req := 7, io := 1, off := 0, len := 8, data := none }] } };
      (¬ ∀ r ∈ s.boot.inq, ¬ (r.req = 7 ∧ r.io = 1)) ∧ (∀ r ∈ s.boot.inq, ¬ (r.req = 7 ∧ r.io = 0))) := by decide +kernel

/-- An image at 0 that can be bound: one slot at 0x8000, its peer at 0x40, a class S record at 0x400. -/
def bindable : State :=
  { recorded (granted base) with
    ept := { base.ept with tstat := 3 }
    mem := [(0, 1), (9, 0x80), (0x10, 0x40), (0x19, 4), (0x401, 0x10), (0x409, 0x20), (0x438, 100), (0x448, 0xe8), (0x449, 3), (0x450, 1), (0x452, 1), (0x453, 1), (0x454, 1), (0x456, 1), (0x45c, 1), (0x460, 3), (0x461, 0x80)] }

def imageOf (s : State) : Nat := match readImg s 0 0 64 with
  | .ok x => x
  | .error _ => 0

theorem witness_Binds : let s := bindable; let x := BitVec.ofNat 512 (imageOf s)
    readImg s 0 ((getPart s 0).res.sessaddr.toNat / 2 ^ 6 % 2 ^ 51 * 64) 64 = .ok (imageOf s) ∧ imgBad x = false ∧ ringSlots s 0 (imgRing x % 2 ^ 57 / 4096 * 4096) (2 ^ (imgRing x % 16)) = some [0x8000]
      ∧ readImg s 0 (imgPeer x) 32 = .ok 0 ∧ rf 0 18 14 = 0 ∧ imgRrec x = 0
      ∧ (match sessRecord s 0 3 (imgRec x) false with
        | .ok r => unitsFor s 0 [r]
        | .error _ => false) = true :=
  ⟨ok_eq (by decide +kernel), by decide +kernel, by decide +kernel, ok_eq (by decide +kernel), by decide +kernel⟩

/-- A session that is bound, and the launch of its record. -/
def withSession : State := { granted base with ept := { base.ept with sessions := [session0] }, sched := launched.sched }

theorem witness_SessionCommands :
    (let s := granted base; HasPart s 0 ∧ (getPart s 0).res.sessstat.toNat % 4 ≠ 1 ∧ (∀ x ∈ s.ept.sessions, x.num ≠ 3) ∧ boundOn s 0 (3 / 8192) < heldUnits (getPart s 0) 8 (3 / 8192)
      ∧ (readImg s 0 ((getPart s 0).res.sessaddr.toNat / 2 ^ 6 % 2 ^ 51 * 64) 64).toBool = true ∧ imgBad (BitVec.ofNat 512 16) = true
      ∧ (s.ept.sessions.find? fun x => x.num == 3 && x.part == 0) = none)
    ∧ (∃ x ∈ withSession.ept.sessions, x.num = 3) ∧ (withSession.ept.sessions.find? fun x => x.num == 3 && x.part == 0) = some session0 ∧ session0.reasonSeq = none
    ∧ (let l := { launch0 with lr := { lr0 with sess := some 3 } }; let s := { withSession with sched := { launched.sched with launches := [l] } };
      findLaunch s session0.recSeq = some l ∧ l.lr.sess = some 3 ∧ l.lr.part = 0 ∧ (∃ i ∈ s.sched.insts, i.seqno = session0.recSeq ∧ i.closed = false) ∧ ∀ y ∈ s.ept.sessions, y.closing = true → y = session0)
    ∧ (translate (granted base) 0 accEngWrite 0).toBool = true := by
  refine ⟨⟨by unfold HasPart; decide +kernel, by decide +kernel⟩, by decide +kernel⟩

/-- The first message, a later one, an older one; HOLD; a full ring; a chunk in time, late, sent twice. -/
theorem witness_Messages :
    (let s := withSession; HasPart s 0 ∧ s.boot.boot.getLsbD 9 = true ∧ (s.ept.sessions.find? fun y => y.num == 3 && imgValid y.image && !y.closing) = some session0
      ∧ imgHold session0.image = false ∧ session0.rv = false ∧ session0.slots.contains (session0.ringPa.getD session0.nextSlot 0) = false ∧ session0.ringPa.getD session0.nextSlot 0 % 4096 = 0 ∧ Still s
      ∧ ringRoom s (ringOf s 0 false))
    ∧ (let x := { session0 with rv := true, rxseq := 9 }; ((8 : BitVec 32) - x.rxseq).toNat ≠ 0 ∧ 2 ^ 31 ≤ ((8 : BitVec 32) - x.rxseq).toNat ∧ ((9 : BitVec 32) - x.rxseq).toNat = 0 ∧ ¬ 2 ^ 31 ≤ ((10 : BitVec 32) - x.rxseq).toNat)
    ∧ imgHold (3 : BitVec 512) = true ∧ ({ session0 with slots := [0x2000] } : Session).slots.contains 0x2000 = true
    ∧ (let s := { withSession with ept := { withSession.ept with egressQ := [(3, 7, 100, 0)] } };
      s.ept.egressQ = (3, 7, 100, 0) :: [] ∧ s.ept.sessions.find? (fun y => y.num == 3) = some session0 ∧ 100 + imgSlack session0.image = 100 ∧ session0.lv = false)
    ∧ (let s := withTask (fun t => { t with egress := [(3, 7, 100, 0)], info := { t.info with msgSlot := some 0x2000 } }) base; s.task.egress = (3, 7, 100, 0) :: [] ∧ s.task.info.msgSlot.isSome = true ∧ s.task.time.rxReady < 32)
    ∧ (∀ c ∈ base.ept.egressQ, c.1 ≠ 3) := by
  refine ⟨⟨by unfold HasPart; decide +kernel, by decide +kernel, by decide +kernel, by decide +kernel, by decide +kernel, by decide +kernel, by decide +kernel,
    ⟨by decide +kernel, by unfold NoBound; decide +kernel, noShadow_of (by decide +kernel)⟩, by unfold ringRoom; decide +kernel⟩, by decide +kernel⟩

/-- Commands whose image stands in a region that moves; a message behind an earlier one of its session. -/
theorem witness_Waits :
    (let s := modPart (granted base) 0 fun q => { q with mem := { q.mem with exchange := some (0, 7, true) } }; sessBlocked s 0 1 = true ∧ sessBlocked s 0 3 = true ∧ sessBlocked s 0 2 = false
      ∧ (getPart s 0).res.sessstat.toNat % 4 ≠ 1)
    ∧ sessBlocked (granted base) 0 1 = false ∧ sessBlocked bindable 0 1 = false ∧ sessBlocked (granted base) 0 3 = false
    ∧ unitsFor (modPS bindable 0 fun q => { q with unitsHeld := List.replicate 16 1 }) 0 [{ lr := { lr0 with cls := 1 }, raw := 0, img := { image := [], ftab := [], sched := [], lmap := [], groups := [] }, clusters := [] }] = false
    ∧ (let s := { withSession with ept := { withSession.ept with rxWait := [{ sess := 3, strm := false, seq := 1, txts := 0, at_ := 0, src := 0, payload := [] }] } }; ∃ m ∈ s.ept.rxWait, m.sess = 3)
    ∧ physWaits withSession (session0.ringPa.getD session0.nextSlot 0) 4096 = false
    ∧ (base.boot.boot.toNat % 4 = 0 ∧ sessBlocked base 0 1 = false ∧ (granted base).boot.boot.toNat % 4 ≠ 0)
    ∧ (let s := { withSession with boot := { withSession.boot with boot := 0x200 } }; s.boot.boot.getLsbD 9 = true ∧ s.boot.boot.toNat % 4 = 0)
    ∧ ownerOf withSession 0x2000 = some 0 ∧ ownerOf { withSession with parts := base.parts } 0x2000 ≠ some 0
    ∧ peerWaits withSession 3 = false := by decide +kernel

/-- A session whose peer record stands in the heap; one whose record's region moves. -/
theorem witness_Peer :
    (let x := { session0 with peer := [.glob 0x40 0x40 2 0 0 false], peerOff := 0x40 }
      let s := { withSession with ept := { withSession.ept with sessions := [x] } }
      s.ept.sessions.find? (fun y => y.num == 3) = some x ∧ peerWaits s 3 = false ∧ ownerOf s (0x40 / 128 * 128) = some 0 ∧ packedOf 0 = none
        ∧ peerWaits (modPart s 0 fun q => { q with mem := { q.mem with exchange := some (0, 7, true) } }) 3 = true) := by decide +kernel
theorem noBound_withSession : NoBound withSession := by unfold NoBound; decide +kernel

/-- What a chunk that has left its core, or a row that has come, ends a stall for. -/
theorem witness_Thaws : stallOver base = true ∧ stallOver (queued .mark base) = false := by decide +kernel

/-- A packet's head. -/
def head0 (gone : Bool) : CollHead := { op := 0, root := 0, count := 0, ranks := 1, bad := [], gone := gone }

theorem witness_Fabric : (head0 false).gone = false ∧ (head0 true).gone = true ∧ HasPart base 0 ∧ (base.ept.tstat.getLsbD 1 = false ∧ bindable.ept.tstat.getLsbD 1 = true)
    ∧ (let s := modPart base 0 fun q => { q with res := { q.res with job := 7, gidmap := setNth q.res.gidmap 0 (2 ^ 32 + 9) } };
      (getPart s 0).live = true ∧ (getPart s 0).res.job.toNat % 2 ^ 24 = 7 ∧ (nth (getPart s 0).res.gidmap 0 0).getLsbD 32 = true ∧ (nth (getPart s 0).res.gidmap 0 0).toNat % 2 ^ 32 = 9 ∧ s.sched.packets = []) :=
  ⟨by decide +kernel, by decide +kernel, hasPart_base, by decide +kernel, by decide +kernel⟩

theorem witness_Booting :
    (base.boot.powered = true ∧ base.boot.staged.find? (fun e => e.1 == 10 + base.boot.next) = none ∧ base.boot.next = 0)
    ∧ (let b := { base.boot with boot := 0x3600 }; b.boot.toNat % 4 = 0 ∧ b.boot.getLsbD 9 = true ∧ b.boot.getLsbD 10 = true ∧ b.boot.getLsbD 12 = true ∧ b.boot.getLsbD 13 = true ∧ b.boot.getLsbD 20 = false ∧ b.boot.getLsbD 21 = false)
    ∧ (let b := { base.boot with boot := 0x1c600 + 2 ^ 21 }; b.boot.getLsbD 21 = true ∧ b.boot.getLsbD 22 = false ∧ b.boot.getLsbD 23 = false ∧ b.boot.getLsbD 14 = true ∧ b.boot.getLsbD 15 = true)
    ∧ (let b := { base.boot with boot := 0xff601, next := 10 }; b.boot.toNat % 4 = 1 ∧ b.next = 10) ∧ (granted base).boot.boot.toNat % 4 = 2 ∧ base.boot.boot.getLsbD 9 = false := by decide +kernel

/-- ALLOC, FREE and REKEY of slot 9 for partition 5. -/
def keyWord (op : Nat) : W64 := BitVec.ofNat 64 (op * 2 ^ 62 + 5 * 2 ^ 8 + 9)
theorem witness_Keys : two.boot.boot.getLsbD 9 = true ∧ (∀ op ∈ [1, 2, 3], (keyWord op).toNat / 2 ^ 14 % 2 ^ 48 = 0 ∧ (keyWord op).getLsbD 7 = false ∧ (keyWord op).toNat % 128 ≠ 0 ∧ (keyWord op).toNat / 2 ^ 62 = op)
    ∧ (getPart two 5).live = true ∧ (∀ x ∈ two.parts, x.res.keys.contains 9 = false) ∧ (∀ k ∈ two.boot.keys, k.1 = 9 → k.2 = 5)
    ∧ (let s := after (.alloc (keyWord 1)) two; (getPart s 5).res.keys.contains 9 = true ∧ keyRows s 5 9 = [] ∧ 5 < s.parts.length ∧ ∃ x ∈ s.parts, x.res.keys.contains 9 = true)
    ∧ (keyWord 1 ||| 0x80).getLsbD 7 = true ∧ Memory.wf two.mem = true
    ∧ (let s := modPart { two with side := { two.side with keyed := [(2 ^ 24 + 5, 2, 9)] } } 5 fun q => { q with res := { q.res with keys := [9], blocks := [1], pairs := [] } }
      (getPart s 5).res.keys.contains 9 = true ∧ keyRows s 5 9 = [2 ^ 24 + 5, 2 ^ 24 + 6] ∧ (keyRows s 5 9).Nodup ∧ (2 ^ 31 + 7 * 128) / 128 ∉ keyRows s 5 9) := by decide +kernel

theorem witness_Attestation : let s := granted base
    (0 : Nat) < 2 ∧ s.boot.boot.getLsbD (9 + 0) = true ∧ s.boot.boot.getLsbD (9 + 1) = true ∧ s.boot.spdmState.length = 3 ∧ base.boot.boot.getLsbD 9 = false
      ∧ (∀ n ∈ [1, 2, 3, 4, 5], ({ s with boot := { s.boot with spdmState := [n, 0, n] } } : State).boot.spdmState.getD 0 0 = n ∧ ({ s with boot := { s.boot with spdmState := [n, 0, n] } } : State).boot.spdmState.getD 2 0 = n) ∧ (getPart s 9).live = false ∧ (∀ m ∈ s.boot.measures, m.1 ≠ 1) ∧ (getPart s 0).live = true
      ∧ (after (.dieRelease 7 true) State.reset).boot.measures.find? (fun m => m.1 == 3) = some (3, 7) := by decide +kernel

theorem witness_CoreEvents :
    uintReady base = false ∧ base.clk.slew = 0
    ∧ (let s := withTask (fun t => { t with info := { t.info with ftab := List.replicate 255 0xffff ++ [50] }, uint := { t.uint with en := true, queue := [0x1234] } }) base;
      uintReady s = true ∧ s.task.uint.queue = 0x1234 :: [] ∧ fragOf s.task.info.ftab 255 = some 50)
    ∧ (let l := { launch0 with parent := some (1, 4) }; let i := { inst0 with tasksLeft := 0, closed := true };
      let s := { launched with task := { task1 with place := .onChild 0 }, sched := { launched.sched with launches := [l], insts := [i] } };
      findInst s 1 = some i ∧ findLaunch s i.seqno = some l ∧ l.parent = some (1, 4) ∧ findTask s 1 = some s.task ∧ s.task.place = .onChild 0 ∧ i.tasksLeft = 0 ∧ i.closed = true ∧ inst0.tasksLeft ≠ 0
        ∧ groupOfTask (focus s 1) = [1] ∧ ∀ m ∈ s.sched.launches, m.lr.seqno ≠ l.lr.seqno → ∀ x ∈ m.parent, x.1 ≠ 1) := by
  decide +kernel

/-- A copy of one plate row to another, under way and at its end with its interrupt and its counter; a collective at its start and at its end; a compaction. -/
def copying (row : Nat) (cw : W64) : EngOp :=
  { newOp (.copy 0) (BitVec.ofNat 1024 (2 ^ 61 + (2 ^ 61 + 0x4000) * 2 ^ 64)) 0 1 cw with id := 1, owner := 1, row := row }
def withOp (o : EngOp) (s : State) : State := { withTask (fun t => { t with owners := 3 }) s with sched := { s.sched with ops := [o] } }

theorem witness_EngineEvents :
    (let o := copying 0 0; let s := withOp o base; findOp s 1 = some o ∧ findTask s o.owner = some s.task ∧ o.kind = .copy 0 ∧ o.stopped = false ∧ o.row < o.total ∧ powerFrozen s s.task = false ∧ onCore s.task = true
      ∧ (∀ p ∈ opsOf s s.task.uid, o.id ≤ p.id) ∧ spaceOf (o.desc.toNat % 2 ^ 64) = 1 ∧ spaceOf (o.desc.toNat / 2 ^ 64 % 2 ^ 64) = 1 ∧ tileOf (o.desc.toNat % 2 ^ 64) = none
      ∧ tileOf (o.desc.toNat / 2 ^ 64 % 2 ^ 64) = none ∧ swf s.task.plates = true)
    ∧ (let o := copying 1 (2 ^ 31); opHb o = false ∧ o.cw.getLsbD 30 = false ∧ o.steps ≠ 3 ∧ o.total ≤ o.row ∧ o.cw.getLsbD 23 = false ∧ o.cw.getLsbD 31 = true)
    ∧ (let o := copying 1 (2 ^ 23 + 5); let s := withOp o (modPS base 0 fun q => { q with counters := [(5, 2)] });
      o.cw.getLsbD 23 = true ∧ o.cw.getLsbD 31 = false ∧ HasPart s 0 ∧ swf (w := 32) (getPart s 0).sch.counters = true ∧ 2 ≤ (sget (w := 32) (getPart s 0).sch.counters (o.cw.toNat % 2 ^ 12)).toNat)
    ∧ (let o := { newOp .coll (BitVec.ofNat 1024 (2 ^ (8 * 0x2C))) 0 0 0 with id := 1, owner := 1 }; let s := { withOp o base with clk := { base.clk with ftime := 1000 } };
      o.kind = .coll ∧ o.steps ≤ 1 ∧ o.desc.toNat / 2 ^ (8 * 0x2C) % 2 ^ 32 ≠ 0 ∧ o.trigger + 1000 * (o.desc.toNat / 2 ^ (8 * 0x2C) % 2 ^ 32) ≤ s.clk.ftime ∧ findOp s 1 = some o)
    ∧ (let o := { newOp .compact 0 0 0 0 with id := 1, owner := 1 }; let s := withOp o base;
      (opsOf s s.task.uid).find? (fun p => p.kind == .compact && decide (p.total ≤ p.row) && !p.stopped) = some o ∧ compHi o.desc = none)
    ∧ (∀ p ∈ opsOf base base.task.uid, p.kind ≠ .compact) := by
  refine ⟨by decide +kernel, by decide +kernel, ⟨by decide +kernel, by decide +kernel, by unfold HasPart; decide +kernel, by decide +kernel⟩, by decide +kernel, by decide +kernel, by decide +kernel⟩

/-- A copy of one row from row 0 of the heap to the scratchpad, and the other way: global sides. -/
def copyIn : EngOp := { newOp (.copy 0) (BitVec.ofNat 1024 ((2 ^ 61 + 0x4000) * 2 ^ 64)) 0 1 0 with id := 1, owner := 1 }
def copyOut : EngOp := { newOp (.copy 0) (BitVec.ofNat 1024 (2 ^ 61)) 0 1 0 with id := 1, owner := 1 }
theorem witness_EngineGlobal :
    (let s := withOp copyIn (granted base); let w := copyIn.desc.toNat % 2 ^ 64; let v := copyIn.desc.toNat / 2 ^ 64 % 2 ^ 64
      let a := sideAddr w (copyAddr copyIn.desc s.task.info true copyIn.row - (w % 2 ^ 61 : Nat))
      spaceOf w = 0 ∧ spaceOf v = 1 ∧ tileOf w = none ∧ tileOf v = none ∧ isLocal a = false ∧ compHolds s copyIn [a] = false ∧ s.mir.mute.contains copyIn.die = false ∧ findOp s 1 = some copyIn
        ∧ powerFrozen s s.task = false ∧ okWith (· == .glob 0 0 2 0 0 false) (translate s 0 accEngRead (a / 128 * 128)) = true ∧ dirtyBound s 0 keepNone = [] ∧ shadowBlock s 0 = none)
    ∧ (let s := withOp copyOut (granted base); let w := copyOut.desc.toNat % 2 ^ 64; let v := copyOut.desc.toNat / 2 ^ 64 % 2 ^ 64
      let a := sideAddr v (copyAddr copyOut.desc s.task.info false copyOut.row - (v % 2 ^ 61 : Nat))
      spaceOf w = 1 ∧ spaceOf v = 0 ∧ isLocal a = false ∧ compHolds s copyOut [a] = false ∧ s.task.owners.getLsbD 0 = true ∧ Memory.wf s.mem = true ∧ copyOut.row < copyOut.total
        ∧ okWith (· == .glob 0 0 2 0 0 false) (translate s 0 accEngWrite (a / 128 * 128)) = true)
    ∧ (let s := { base with mir := { base.mir with mute := [0] } }; s.mir.mute.contains copyIn.die = true) := by decide +kernel

/-- The completion steps: plates handed back, on the core and off it, but for one that another operation names; a counter at 1 with a launch bound, and at 0; a barrier that completes, that overruns, with a stale tag, broken, posted and not. -/
theorem witness_Completions :
    (let o := { copying 1 0 with desc := (copying 1 0).desc ||| BitVec.ofNat 1024 (2 ^ (8 * 0x39)) }; let p := { o with id := 2, row := 0 }
      let s := { withOp o base with sched := { base.sched with ops := [o, p] } };
      opHb o = true ∧ o.cw.getLsbD 30 = false ∧ o.cw.getLsbD 23 = false ∧ o.cw.getLsbD 31 = false ∧ o.steps ≠ 3 ∧ o.stopped = false ∧ o.total ≤ o.row ∧ onCore s.task = true
        ∧ namesPlate s.task.info o 1 = true ∧ namesPlate s.task.info o 2 = false ∧ (∃ x ∈ opsOf s o.owner, x.id ≠ 1 ∧ opHb x = true ∧ namesPlate s.task.info x 1 = true)
        ∧ onCore (withTask (fun t => { t with place := .ready 0 }) s).task = false)
    ∧ (let o := copying 1 (2 ^ 23 + 5); let s := withOp o (modPS launched 0 fun q => { q with counters := [(5, 1)], bound := [(5, 1)] });
      (sget (w := 32) (getPart s 0).sch.counters (o.cw.toNat % 2 ^ 12)) = 1 ∧ (getPart s 0).sch.bound.find? (fun e => e.1 == 5) = some (5, 1)
        ∧ (let u := { s with sched := { s.sched with launches := [launch0] } }; findLaunch u 1 = some launch0))
    ∧ sget (w := 32) (getPart base 0).sch.counters 5 = 0
    ∧ (let o := copying 1 (2 ^ 30 + 5 * 2 ^ 24); opHb o = false ∧ o.cw.getLsbD 30 = true ∧ o.cw.toNat / 2 ^ 24 % 2 ^ 6 = 5 ∧ o.tag = false ∧ 0 < o.total
      ∧ (let s := barred { pend := 128, phase := false, posted := true, broken := false } (withOp o base); getBar s (barTeam s s.task.info o) 5 = { pend := 128, phase := false, posted := true, broken := false }
          ∧ ∀ e ∈ s.sched.barSets, e.bars.length = 64)
      ∧ ((128 : Int) - (128 * o.total : Nat) = 0 ∧ (127 : Int) - (128 * o.total : Nat) < 0 ∧ 0 < (129 : Int) - (128 * o.total : Nat) ∧ (-2 ^ 31 + 127 : Int) - (128 * o.total : Nat) < -2 ^ 31)) := by decide +kernel

/-- A collective of one rank with its own contribution at hand, in the coherent heap. -/
theorem witness_collEnd : let o := { newOp .coll (BitVec.ofNat 1024 (0x100 * 2 ^ (8 * 0x18))) 0 0 0 with id := 1, owner := 1, steps := 2 }
    let s := withOp o (granted base)
    let a := o.desc.toNat / 2 ^ (8 * 0x18) % 2 ^ 57 / 8 * 8
    opHb o = false ∧ o.cw.getLsbD 30 = false ∧ o.stopped = false ∧ o.total ≤ o.row ∧ o.desc.toNat / 2 ^ (8 * 0x18) % 2 ^ 64 / 2 ^ 61 = 0 ∧ isLocal a = false ∧ findOp s 1 = some o
      ∧ okWith (fun tgt => !tgtWaits s (rqDevice 0) tgt) (translate s 0 accEngWrite a) = true ∧ compBars s o [a] = false := by decide +kernel

/-- A collective of one rank whose contribution is there, and agrees or not; one whose peer is gone. -/
def collOp (status : Nat) : EngOp := { newOp .coll 0 0 0 0 with id := 1, owner := 1, steps := 1, after := 1, ranks := 1, status := status }
def collState (op : Nat) : State :=
  let s := withOp (collOp 0) base
  { s with sched := { s.sched with packets := [{ part := 0, job := 0, gid := 0, tag := 0, rank := 0, head := { head0 false with op := op }, data := [] }] } }
theorem witness_Collectives : ∀ op ∈ [0, 1], let s := collState op; let o := collOp 0
    findOp s 1 = some o ∧ o.row = o.total ∧ (∀ p ∈ s.sched.ops, p.id = 1 → p = o) ∧ (∀ p ∈ s.sched.ops, sameColl s o p = true → lowerTag s p = false) ∧ collNeed s o = o.ranks
      ∧ (∀ k < o.ranks, rankData s o k = [({ rows := [], bad := [] } : RankData)][k]?) ∧ collMismatch s o = decide (op = 1) ∧ (collOp 1).status = 1
      ∧ o.toSend = [] ∧ contributed o = true ∧ (∀ k < collNeed s o, (rankData s o k).isSome = true) ∧ contributed { o with row := 0, total := 1 } = false := by decide +kernel

/-! #### Rounding -/

/-- 1.5 in fp32: its value, a power of two and an integer beside it; sums that are not zero, that are zero, that hold a NaN, an infinity, both infinities. -/
theorem witness_Rounding : fmt32 ∈ [fmt32, fmt16, fmtB, fmtE5, fmtE4] ∧ 0x3fc00000 < 2 ^ fmt32.width ∧ 0x3fc00000 / 2 ^ fmt32.p % 2 ^ fmt32.ebits ≠ 0
    ∧ decodeF fmt32 0x3fc00000 = .fin false (3 * 2 ^ 22) (-23) ∧ decodeF fmt32 0x40000000 = .fin false (2 ^ 23) (-22) := by decide +kernel
theorem witness_RoundedFunctions : numOf (.fin false (2 ^ 23) (-22)) = (2 : Int) ∧ numOf (.fin false (2 ^ 23) (-22)) = (2 : Rat) ^ (1 : Int) ∧ 0 < numOf (.fin false (3 * 2 ^ 22) (-23)) := by decide +kernel
theorem witness_BeatSums : (∀ v ∈ decodeF fmt32 0x3f800000 :: [FV.fin true 1 0], v.isNaN = false ∧ v.isInf = false)
    ∧ ((decodeF fmt32 0x3f800000 :: [FV.fin true 1 0]).map numOf).sum = 0 ∧ ((decodeF fmt32 0x3f800000 :: [FV.fin true 3 0]).map numOf).sum ≠ 0 ∧ FV.inf false ∈ decodeF fmt32 0x7f800000 :: []
    ∧ FV.nan ∈ decodeF fmt32 0x7fc00000 :: [] := by decide +kernel
theorem witness_Conversions : decodeF (tyFmt 12) 0x7f800000 = .inf false ∧ decodeF (tyFmt 12) 0x7fc00000 = .nan ∧ decodeF (tyFmt 12) 0 = .fin false 0 (-149) ∧ (0xff : Nat) < 2 ^ tyWidth 0
    ∧ numOf (decodeF (tyFmt 12) 0x3fc00000) ≠ 0 := by decide +kernel

/-! #### The words, the step, the invariant -/

theorem witness_DecodeOfEncode : (Instr.add .sa0 onS).hasOwnWord = true ∧ (Instr.move always (.limm40 6 (BitVec.allOnes 40)) true (.port .lgb)).hasOwnWord = true ∧ (Instr.acmpTag (lit 0x4f)).hasOwnWord = true
    ∧ (Instr.bundleIssue 0).hasOwnWord = false := by decide +kernel

theorem witness_StepRunsDecoded : base.agenda = [] ∧ base.clk.ck % 2 = 0 ∧ canIssue base = true ∧ base.others = [] ∧ base.task.info.codelen ≤ base.task.regs.pc
    ∧ (base.withFetchWord 24 0x081401).task.regs.pc < (base.withFetchWord 24 0x081401).task.info.codelen
    ∧ ({ base with agenda := [{ uid := 1, event := .heartbeatTick }] } : State).agenda = { uid := 1, event := .heartbeatTick } :: [] := by decide +kernel

theorem witness_StepRunsDecoded_next : ∃ t, exec (decode (fetch base.task)) base = .next t := exec_next _ _

theorem reset_sound : Sound State.reset := ⟨by decide +kernel, by decide +kernel⟩

theorem witness_SoundKept : Sound base := ⟨by decide +kernel, by decide +kernel⟩

end Sys2Proof.Tests
end

section
/-! PROOFS. What the scalar and address units compute on 64-bit words, in the words of the spec (R92 to R101). -/

namespace Sys2Proof.Machine

/-- A field from bit 0 up is a remainder. -/
theorem fld_low {w : Nat} (x : BitVec w) (hi : Nat) : fld x hi 0 = x.toNat % 2 ^ (hi + 1) := by
  simp [fld, bitsOf]

/-! ### Sums, extremes and shifts (R92, R93) -/

theorem subW_eq (a t : W64) : a - t = BitVec.ofInt 64 (a.toNat - t.toNat) := by
  simp [sub_eq_add_neg, BitVec.ofInt_add, BitVec.ofInt_neg]

theorem minW_eq (a t : W64) : (if sltW t a then t else a) = BitVec.ofInt 64 (min a.toInt t.toInt) := by
  rcases lt_or_ge t.toInt a.toInt with h | h
  · simp [sltW, h, min_eq_right h.le]
  · simp [sltW, not_lt.2 h, min_eq_left h]

theorem maxW_eq (a t : W64) : (if sltW a t then t else a) = BitVec.ofInt 64 (max a.toInt t.toInt) := by
  rcases lt_or_ge a.toInt t.toInt with h | h
  · simp [sltW, h, max_eq_right h.le]
  · simp [sltW, not_lt.2 h, max_eq_left h]

theorem minuW_eq (a t : W64) : (if t.toNat < a.toNat then t else a) = BitVec.ofNat 64 (min a.toNat t.toNat) := by
  rcases lt_or_ge t.toNat a.toNat with h | h
  · simp [h, min_eq_right h.le]
  · simp [not_lt.2 h, min_eq_left h]

theorem maxuW_eq (a t : W64) : (if a.toNat < t.toNat then t else a) = BitVec.ofNat 64 (max a.toNat t.toNat) := by
  rcases lt_or_ge a.toNat t.toNat with h | h
  · simp [h, max_eq_right h.le]
  · simp [not_lt.2 h, max_eq_left h]

/-- A shift left is a product by a power of two, modulo 2^64, whatever its distance. -/
theorem shiftLeft_eq_ofNat (t : W64) (n : Nat) : t <<< n = BitVec.ofNat 64 (t.toNat * 2 ^ n) := by
  apply BitVec.eq_of_toNat_eq
  simp [Nat.shiftLeft_eq]

/-- A shift right is a quotient by a power of two, whatever its distance. -/
theorem ushiftRight_eq_ofNat (a : W64) (n : Nat) : a >>> n = BitVec.ofNat 64 (a.toNat / 2 ^ n) := by
  rw [← Nat.shiftRight_eq_div_pow, ← BitVec.toNat_ushiftRight, BitVec.ofNat_toNat, BitVec.setWidth_eq]

theorem shlW_eq (a t : W64) : shlW a t = BitVec.ofNat 64 (a.toNat * 2 ^ t.toNat) := by
  rw [← shiftLeft_eq_ofNat, shlW]
  split
  · next h => exact (BitVec.shiftLeft_eq_zero h).symm
  · rfl

theorem shrW_eq (a t : W64) : shrW a t = BitVec.ofNat 64 (a.toNat / 2 ^ t.toNat) := by
  rw [← ushiftRight_eq_ofNat, shrW]
  split
  · next h => exact (BitVec.ushiftRight_eq_zero h).symm
  · rfl

/-- From the width on, every power of two divides a word down to its sign fill. -/
theorem toInt_ediv_two_pow (a : W64) {n : Nat} (h : 64 ≤ n) : a.toInt / 2 ^ n = a.toInt / 2 ^ 64 := by
  have hlo := BitVec.le_two_mul_toInt (x := a)
  have hhi := BitVec.two_mul_toInt_lt (x := a)
  have hp : (2 : Int) ^ 64 ≤ 2 ^ n := pow_le_pow_right₀ (by norm_num) h
  rcases lt_or_ge a.toInt 0 with hneg | hpos
  · rw [Int.ediv_eq_neg_one_of_neg_of_le hneg (by omega), Int.ediv_eq_neg_one_of_neg_of_le hneg (by omega)]
  · rw [Int.ediv_eq_zero_of_lt hpos (by omega), Int.ediv_eq_zero_of_lt hpos (by omega)]

theorem sshiftRight_eq_ofInt (a : W64) (n : Nat) : a.sshiftRight n = BitVec.ofInt 64 (a.toInt / 2 ^ n) := by
  rw [BitVec.sshiftRight, Int.shiftRight_eq_div_pow]
  push_cast; rfl

theorem sarW_eq (a t : W64) : sarW a t = BitVec.ofInt 64 (a.toInt / 2 ^ t.toNat) := by
  rw [sarW, sshiftRight_eq_ofInt]
  rcases le_total t.toNat 64 with h | h
  · rw [min_eq_left h]
  · rw [min_eq_right h, toInt_ediv_two_pow a h]

theorem rotlW_eq (a t : W64) : rotlW a t = (a <<< (t.toNat % 64)) ||| (a >>> (64 - t.toNat % 64)) := by
  simp [rotlW, BitVec.rotateLeft_def]

/-! ### Products and quotients (R96, R100) -/

theorem mulhW_eq (x : Int) : BitVec.ofInt 64 (x / 2 ^ 64) = (BitVec.ofInt 128 x).extractLsb' 64 64 := by
  apply BitVec.eq_of_toNat_eq
  simp only [BitVec.toNat_ofInt, BitVec.extractLsb'_toNat, Nat.shiftRight_eq_div_pow]
  omega

theorem mulhuW_eq (x : Nat) : BitVec.ofNat 64 (x / 2 ^ 64) = (BitVec.ofNat 128 x).extractLsb' 64 64 := by
  apply BitVec.eq_of_toNat_eq
  simp only [BitVec.toNat_ofNat, BitVec.extractLsb'_toNat, Nat.shiftRight_eq_div_pow]
  omega

/-- The truncated quotient and its remainder are fixed by the remainder's size and sign. -/
theorem tdiv_tmod_of_bounds {a b q r : Int} (hb : b ≠ 0) (h : a = q * b + r) (hr : r.natAbs < b.natAbs) (hp : 0 ≤ a → 0 ≤ r)
    (hn : a ≤ 0 → r ≤ 0) : a.tdiv b = q ∧ a.tmod b = r := by
  have hsum : r + b * q = a := by rw [h]; ring
  rcases le_total 0 a with ha | ha
  · exact (Int.tdiv_tmod_unique ha hb).2 ⟨hsum, hp ha, by omega⟩
  · exact (Int.tdiv_tmod_unique' ha hb).2 ⟨hsum, by omega, hn ha⟩

/-! ### Counts (R97) -/

theorem bitLen_eq {x m : Nat} (lo : 2 ^ m ≤ x) (hi : x < 2 ^ (m + 1)) : bitLen x = m + 1 := by
  have hx : x ≠ 0 := ((Nat.two_pow_pos m).trans_le lo).ne'
  rw [bitLen, if_neg hx, (Nat.log2_eq_iff hx).2 ⟨lo, hi⟩]

theorem clzW_eq {t : W64} {n : Nat} (h : t = 0 ∧ n = 64 ∨ n < 64 ∧ 2 ^ (63 - n) ≤ t.toNat ∧ t.toNat < 2 ^ (64 - n)) :
    clzW t = BitVec.ofNat 64 n := by
  obtain ⟨rfl, rfl⟩ | ⟨hn, lo, hi⟩ := h
  · rfl
  · have hlen : bitLen t.toNat = 63 - n + 1 := bitLen_eq lo (by rwa [show 63 - n + 1 = 64 - n by omega])
    rw [clzW, hlen, show 64 - (63 - n + 1) = n by omega]

theorem ctzN_zero : ∀ k, ctzN k 0 = k
  | 0 => rfl
  | k + 1 => by simp [ctzN, ctzN_zero k, Nat.add_comm]

theorem ctzN_eq : ∀ {k n x : Nat}, n < k → 2 ^ n ∣ x → x.testBit n = true → ctzN k x = n
  | k + 1, 0, x, _, _, hb => by
    have hodd : x % 2 = 1 := by simpa [Nat.testBit_zero] using hb
    simp [ctzN, hodd]
  | k + 1, n + 1, x, hn, hd, hb => by
    obtain ⟨y, rfl⟩ := hd
    have heven : 2 ^ (n + 1) * y = 2 * (2 ^ n * y) := by ring
    have ih := ctzN_eq (k := k) (n := n) (x := 2 ^ n * y) (by omega) ⟨y, rfl⟩
      (by rw [heven, Nat.testBit_succ] at hb; simpa using hb)
    simp [ctzN, heven, ih, Nat.add_comm]

theorem ctzW_eq {t : W64} {n : Nat} (h : t = 0 ∧ n = 64 ∨ n < 64 ∧ 2 ^ n ∣ t.toNat ∧ t.getLsbD n = true) :
    ctzW t = BitVec.ofNat 64 n := by
  obtain ⟨rfl, rfl⟩ | ⟨hn, hd, hb⟩ := h
  · exact congrArg (BitVec.ofNat 64) (ctzN_zero 64)
  · rw [ctzW, ctzN_eq hn hd hb]

theorem popcN_eq : ∀ k x : Nat, popcN k x = (List.range k).countP fun i => x.testBit i
  | 0, _ => rfl
  | k + 1, x => by
    rw [popcN, popcN_eq k, List.range_succ_eq_map, List.countP_cons, List.countP_map, Nat.add_comm]
    congr 1
    · apply List.countP_congr
      simp [Nat.testBit_succ]
    · rcases Nat.mod_two_eq_zero_or_one x with h | h <;> simp [Nat.testBit_zero, h]

/-! ### Fields (R98) and narrowing (R99) -/

theorem bfWidth_eq (t : W64) : bfWidth t = min (t.extractLsb' 8 7).toNat 64 := by
  simp [bfWidth, fld, bitsOf, Nat.shiftRight_eq_div_pow]

theorem bfLow_eq (t : W64) : bfLow t = (t.extractLsb' 0 6).toNat := by
  simp [bfLow, fld_low]

/-- bfx by the value of its field: from half its range on, a signed field lies 2^w lower. -/
theorem bfxW_eq (a t : W64) {w lo : Nat} (hw : bfWidth t = w) (hlo : bfLow t = lo) :
    let f := a.toNat / 2 ^ lo % 2 ^ w
    bfxW a t = BitVec.ofInt 64 (if t.getLsbD 15 = true ∧ 1 ≤ w ∧ 2 ^ (w - 1) ≤ f then (f : Int) - 2 ^ w else f) := by
  subst hw hlo
  dsimp only [bfxW]
  generalize a.toNat / 2 ^ bfLow t = x
  by_cases hs : bitAt t 15 = true ∧ 1 ≤ bfWidth t
  · have hsx : t.getLsbD 15 = true := hs.1
    rw [if_pos hs, sgn, Nat.mod_mod]
    by_cases hf : x % 2 ^ bfWidth t < 2 ^ (bfWidth t - 1)
    · rw [if_pos hf, if_neg (by omega)]
    · rw [if_neg hf, if_pos ⟨hsx, hs.2, not_lt.1 hf⟩]
  · rw [if_neg hs, if_neg (fun h => hs ⟨h.1, h.2.1⟩), BitVec.ofInt_natCast]

theorem getLsbD_bfiW (a b t : W64) {k : Nat} (hk : k < 64) : (bfiW a b t).getLsbD k =
    if bfLow t ≤ k ∧ k < bfLow t + bfWidth t then a.getLsbD (k - bfLow t) else b.getLsbD k := by
  simp only [bfiW, BitVec.getLsbD_or, BitVec.getLsbD_and, BitVec.getLsbD_not, BitVec.getLsbD_shiftLeft, BitVec.getLsbD_ofNat,
    Nat.testBit_mul_two_pow, Nat.testBit_two_pow_sub_one, hk, decide_true, Bool.true_and]
  by_cases hlo : bfLow t ≤ k
  · have hin : k - bfLow t < min (bfLow t + bfWidth t) 64 - bfLow t ↔ k < bfLow t + bfWidth t := by omega
    by_cases hhi : k < bfLow t + bfWidth t <;> simp [hlo, hin, hhi]
  · simp [hlo]

/-- A signed reading is the integer of the pattern at its own width. -/
theorem sgn_eq_toInt {w : Nat} (hw : 0 < w) (n : Nat) : sgn w n = (BitVec.ofNat w n).toInt := by
  have hp : 2 ^ w = 2 * 2 ^ (w - 1) := by rw [← pow_succ', Nat.sub_add_cancel hw]
  have hiff : n % 2 ^ w < 2 ^ (w - 1) ↔ 2 * (n % 2 ^ w) < 2 ^ w := by omega
  simp [sgn, BitVec.toInt_eq_toNat_cond, hiff]

theorem ofInt_sgn {w : Nat} (hw : 0 < w) (a : W64) : BitVec.ofInt 64 (sgn w a.toNat) = (a.setWidth w).signExtend 64 := by
  rw [sgn_eq_toInt hw, BitVec.ofNat_toNat, BitVec.signExtend]

theorem getLsbD_sextW (a t : W64) {k : Nat} (hk : k < 64) : (sextW a t).getLsbD k =
    if 1 ≤ t.toNat % 128 ∧ t.toNat % 128 ≤ k then a.getLsbD (t.toNat % 128 - 1) else a.getLsbD k := by
  have hw : fld t 6 0 = t.toNat % 128 := fld_low t 6
  simp only [sextW, hw]
  split
  · rw [if_neg (by omega)]
  · next h =>
    rw [ofInt_sgn (by omega), BitVec.getLsbD_signExtend]
    by_cases hin : k < t.toNat % 128
    · simp [hk, hin]
    · have hlast : t.toNat % 128 - 1 < t.toNat % 128 := by omega
      rw [if_neg hin, if_pos (by omega), BitVec.msb_eq_getLsbD_last]
      simp [hk, hlast]

theorem getLsbD_zextW (a t : W64) {k : Nat} (hk : k < 64) : (zextW a t).getLsbD k =
    if 1 ≤ t.toNat % 128 ∧ t.toNat % 128 ≤ k then false else a.getLsbD k := by
  have hw : fld t 6 0 = t.toNat % 128 := fld_low t 6
  simp only [zextW, hw]
  split
  · rw [if_neg (by omega)]
  · next h =>
    rw [BitVec.getLsbD_ofNat, Nat.testBit_mod_two_pow]
    by_cases hin : k < t.toNat % 128
    · simp [hk, hin, BitVec.getLsbD]
    · rw [if_pos (by omega)]
      simp [hin]

/-! ### Addresses (R101) -/

theorem leaSum_eq (a b t : W64) (n : Nat) :
    a + (t <<< n) + dispOf b = BitVec.ofInt 64 (a.toNat + t.toNat * 2 ^ n + b.toInt / 256) := by
  have hscaled : (t.toNat : Int) * 2 ^ n = ((t.toNat * 2 ^ n : Nat) : Int) := by push_cast; rfl
  have hdisp : dispOf b = BitVec.ofInt 64 (b.toInt / 256) := sshiftRight_eq_ofInt b 8
  rw [BitVec.ofInt_add, BitVec.ofInt_add, hscaled, BitVec.ofInt_natCast, BitVec.ofInt_natCast, ← shiftLeft_eq_ofNat, ← hdisp,
    BitVec.ofNat_toNat, BitVec.setWidth_eq]

theorem caddW_zero (a t : W64) : caddW a 0 t = a + t := if_pos rfl

theorem caddW_eq {a m t : W64} {r : Nat} (hm : m ≠ 0) (hr : r < m.toNat) (hd : (m.toNat : Int) ∣ a.toInt + t.toInt - r) :
    caddW a m t = BitVec.ofNat 64 r := by
  have hmod : (a.toInt + t.toInt) % m.toNat = r := by
    rw [Int.emod_eq_emod_iff_emod_sub_eq_zero.2 (Int.emod_eq_zero_of_dvd hd), Int.emod_eq_of_lt (by omega) (by omega)]
  rw [caddW, if_neg hm, hmod, BitVec.ofInt_natCast]

end Sys2Proof.Machine
end

section
/-! PROOFS. The scalar units and the address unit: an operation completes with the word that its function gives (R91 to R101). -/

namespace Sys2Proof.Machine

/-! ### A result unit gives what its function gives -/

section
variable {i : Instr} {s : State} {u : Sa} {h : Head} {lat : Nat} {x : W64}

theorem results_sa1 {f : W64 → W64} (hi : exec i s = issueOne (saAct u h (sa1Trig u lat f)) s) (hx : f (trig64 s h) = x) :
    Results i s h (saD u) [] (row64 x) lat :=
  fun _ ha hd => hx ▸ yields_unit hi ha hd rfl

theorem results_sa2 {f : W64 → W64 → W64} (hi : exec i s = issueOne (saAct u h (sa2Trig u lat f)) s)
    (hx : f (port64 s (saA u)) (trig64 s h) = x) : Results i s h (saD u) [saA u] (row64 x) lat :=
  fun _ ha hd => hx ▸ yields_unit hi ha hd rfl

theorem results_sa3 {f : W64 → W64 → W64 → W64} (hi : exec i s = issueOne (saAct u h (sa3Trig u lat f)) s)
    (hx : f (port64 s (saA u)) (port64 s (saB u)) (trig64 s h) = x) : Results i s h (saD u) [saA u, saB u] (row64 x) lat :=
  fun _ ha hd => hx ▸ yields_unit hi ha hd rfl

theorem results_agu {f : W64 → W64 → W64 → W64} (hi : exec i s = issueOne (trigAct unitAgu h (aguTrig f)) s)
    (hx : f (port64 s .agua) (port64 s .agub) (trig64 s h) = x) : Results i s h .agud [.agua, .agub] (row64 x) 1 :=
  fun _ ha hd => hx ▸ yields_unit hi ha hd rfl

/-- A comparison writes 1 or 0 by its relation (R94). -/
theorem results_flag {f : W64 → W64 → Bool} {p : Prop} (hi : exec i s = issueOne (saAct u h (sa2Trig u lat fun a t => flagW (f a t))) s)
    (hp : f (port64 s (saA u)) (trig64 s h) = true ↔ p) :
    (p → Results i s h (saD u) [saA u] (row64 1) lat) ∧ (¬ p → Results i s h (saD u) [saA u] (row64 0) lat) :=
  ⟨fun hy => results_sa2 hi (if_pos (hp.2 hy)), fun hn => results_sa2 hi (if_neg fun hf => hn (hp.1 hf))⟩

end

/-! ### The operations of latency 1 (R92 to R95, R97 to R99) -/

theorem scalarLogic : Claims.ScalarLogic := fun _ _ _ =>
  ⟨results_sa2 rfl (by simp [BitVec.ofNat_add]), results_sa2 rfl (subW_eq _ _), results_sa2 rfl rfl, results_sa2 rfl rfl,
    results_sa2 rfl rfl, results_sa2 rfl rfl, results_sa2 rfl (minW_eq _ _), results_sa2 rfl (maxW_eq _ _),
    results_sa2 rfl (minuW_eq _ _), results_sa2 rfl (maxuW_eq _ _)⟩

theorem scalarShifts : Claims.ScalarShifts := fun _ _ _ =>
  ⟨results_sa2 rfl (shlW_eq _ _), results_sa2 rfl (shrW_eq _ _), results_sa2 rfl (sarW_eq _ _), results_sa2 rfl (rotlW_eq _ _)⟩

theorem scalarCompareSelect : Claims.ScalarCompareSelect := fun _ _ _ =>
  ⟨results_flag rfl beq_iff_eq, results_flag rfl bne_iff_ne, results_flag rfl decide_eq_true_iff, results_flag rfl decide_eq_true_iff,
    results_flag rfl decide_eq_true_iff, results_flag rfl decide_eq_true_iff,
    fun ht => results_sa3 rfl (if_pos ht), fun ht => results_sa3 rfl (if_neg (not_not.2 ht))⟩

theorem scalarCounts : Claims.ScalarCounts := fun _ _ _ _ =>
  ⟨fun hn => results_sa1 rfl (clzW_eq hn), fun hn => results_sa1 rfl (ctzW_eq hn),
    fun hn => results_sa1 rfl (hn ▸ congrArg (BitVec.ofNat 64) (popcN_eq 64 _))⟩

theorem scalarFields : Claims.ScalarFields := fun _ _ _ =>
  ⟨results_sa2 rfl (bfxW_eq _ _ (bfWidth_eq _) (bfLow_eq _)), fun _ hy => results_sa3 rfl <| BitVec.eq_of_getLsbD_eq fun k hk => by
    rw [getLsbD_bfiW _ _ _ hk, hy k hk, bfWidth_eq, bfLow_eq]⟩

theorem scalarNarrow : Claims.ScalarNarrow := fun _ _ _ _ _ hx hz =>
  ⟨results_sa2 rfl <| BitVec.eq_of_getLsbD_eq fun k hk => (getLsbD_sextW _ _ hk).trans (hx k hk).symm,
    results_sa2 rfl <| BitVec.eq_of_getLsbD_eq fun k hk => (getLsbD_zextW _ _ hk).trans (hz k hk).symm⟩

/-- Settles O1: every operation is a result unit whose function gives the stated word. -/
theorem scalarOneCycle : Obligations.ScalarOneCycle :=
  ⟨scalarLogic, scalarShifts, scalarCompareSelect, scalarCounts, scalarFields, scalarNarrow⟩

/-! ### Products and quotients (R96, R100) -/

theorem scalarProducts : Claims.ScalarProducts := fun _ _ _ =>
  ⟨results_sa2 rfl (by simp [BitVec.ofInt_mul]), results_sa2 rfl (mulhW_eq _), results_sa2 rfl (mulhuW_eq _)⟩

theorem scalarDivide : Claims.ScalarDivide := by
  intro s h
  refine ⟨fun hz => ?_, fun hnz q r ha hr hp hn => ?_, fun hnz q r ha hr => ?_⟩
  · exact ⟨results_sa2 (u := .sa1) rfl (if_pos hz), results_sa2 (u := .sa1) rfl (if_pos hz), results_sa2 (u := .sa1) rfl (if_pos hz),
      results_sa2 (u := .sa1) rfl (if_pos hz)⟩
  · have hint : (trig64 s h).toInt ≠ 0 := fun h0 => hnz (BitVec.toInt_inj.1 h0)
    obtain ⟨hq, hr⟩ := tdiv_tmod_of_bounds hint ha hr hp hn
    exact ⟨results_sa2 (u := .sa1) rfl ((if_neg hnz).trans (congrArg (BitVec.ofInt 64) hq)),
      results_sa2 (u := .sa1) rfl ((if_neg hnz).trans (congrArg (BitVec.ofInt 64) hr))⟩
  · obtain ⟨hq, hr⟩ := (Nat.div_mod_unique (by omega)).2 ⟨(by rw [ha]; ring : r + (trig64 s h).toNat * q = (port64 s .sa1a).toNat), hr⟩
    exact ⟨results_sa2 (u := .sa1) rfl ((if_neg hnz).trans (congrArg (BitVec.ofNat 64) hq)),
      results_sa2 (u := .sa1) rfl ((if_neg hnz).trans (congrArg (BitVec.ofNat 64) hr))⟩

/-- Settles O2: the quotient and remainder that the hypotheses describe are the truncated ones. -/
theorem scalarMulDiv : Obligations.ScalarMulDiv := ⟨scalarProducts, scalarDivide⟩

/-! ### The address unit (R101) -/

/-- Settles O3: the sums are the integers' own, modulo 2^64 or modulo M. -/
theorem addressUnit : Obligations.AddressUnit := by
  intro s h
  have hscale : fld (port64 s .agub) 5 0 = (port64 s .agub).toNat % 64 := fld_low _ 5
  refine ⟨results_agu rfl ?_, results_agu rfl ?_, fun hb => results_agu rfl ?_, fun hb r hr hd => results_agu rfl (caddW_eq hb hr hd)⟩
  · rw [leaW, hscale, leaSum_eq]
  · rw [leawW, hscale, leaSum_eq]
  · rw [hb, caddW_zero]

end Sys2Proof.Machine
end

section
/-! PROOFS. The frame of a bundle that writes registers alone, and loop (R28, R104). -/

namespace Sys2Proof.Machine

/-! ### Words in rows (R19) -/

/-- A scalar register's row gives back its word. -/
@[simp] theorem lo64_setWidth (x : W64) : lo64 (x.setWidth 1024) = x := by
  rw [lo64, BitVec.ofNat_toNat, BitVec.setWidth_setWidth_of_le x (by decide), BitVec.setWidth_eq]

/-- A word is what its row keeps in a 64-bit register. -/
@[simp] theorem row64_setWidth (x : W64) : (row64 x).setWidth 64 = x := by
  rw [row64, BitVec.ofNat_toNat, BitVec.setWidth_setWidth_of_le x (by decide), BitVec.setWidth_eq]

theorem setWidth_row_inj {x y : W64} (h : x.setWidth 1024 = y.setWidth 1024) : x = y := by
  simpa using congrArg lo64 h

/-! ### Registers read and moved (R28, R36) -/

/-- A register that no result is on its way to reads as it stands. -/
theorem readReg_landed {t : Task} {d : RegDst} (n : Nat) (h : inFlight t d = false) : readReg t n d = t.regs.read d := by
  simp [readReg, h]

theorem rrbRead_landed {s : State} (h : inFlight s.task .rrb = false) : rrbRead s = s.task.regs.rrb := by
  rw [rrbRead, readReg_landed _ h, Regs.read, lo64_setWidth]

theorem ctlReg_landed {s : State} {v : Row} {d : RegDst} (h : inFlight (opened s).task d = false) :
    ctlReg (trigAt (opened s) v) d = lo64 ((opened s).task.regs.read d) :=
  congrArg lo64 (readReg_landed _ h)

theorem moveReg_read_same (t : Task) (d : RegDst) (x : Row) (seq : Nat) : (moveReg t d x seq).regs.read d = holds d x :=
  write_read_same _ d x

theorem moveReg_read_ne (t : Task) {d e : RegDst} (x : Row) (seq : Nat) (h : e ≠ d) : (moveReg t d x seq).regs.read e = t.regs.read e := by
  refine (write_read_ne _ d e x h).trans ?_
  cases e <;> rfl

theorem holds_rrb {x : W64} (h : x.toNat < 32) : holds .rrb (row64 x) = x.setWidth 1024 := by
  have hmask : x &&& 0x1f = x := BitVec.eq_of_toNat_eq <| by
    rw [BitVec.toNat_and]
    exact (Nat.and_two_pow_sub_one_eq_mod x.toNat 5).trans (Nat.mod_eq_of_lt h)
  rw [holds, row64_setWidth, hmask]

theorem holds_p {n : BitVec 3} (hn : n ≠ 0) (b : Bool) : holds (.p n) (BitVec.ofNat 1024 (b2n b)) = BitVec.ofNat 1024 (b2n b) := by
  rw [holds, if_neg hn]
  cases b <;> simp [b2n]

/-- Only a tile's configuration moves on with a pop (R152). -/
theorem poppedReg_eq_false (src : Src) {d : RegDst} (h : ∀ k, d ≠ .tcfg k) : poppedReg src d = false := by
  cases src <;> simp [poppedReg, h]

/-! ### A bundle that writes registers alone -/

/-- A task that differs in its registers, the results on their way to them and its dirty marks alone. -/
def RegsMoved (t u : Task) : Prop := ∃ r f d, u = { t with regs := r, flights := f, dirty := d }

theorem RegsMoved.trans {t u v : Task} (h : RegsMoved t u) (k : RegsMoved u v) : RegsMoved t v := by
  obtain ⟨_, _, _, rfl⟩ := h
  obtain ⟨r, f, d, rfl⟩ := k
  exact ⟨r, f, d, rfl⟩

theorem regsMoved_moveReg (t : Task) (d : RegDst) (x : Row) (seq : Nat) : RegsMoved t (moveReg t d x seq) := ⟨_, _, _, rfl⟩

theorem regsMoved_regs (t : Task) (r : Regs) : RegsMoved t { t with regs := r } := ⟨r, t.flights, t.dirty, rfl⟩

theorem RegsMoved.spec {t u : Task} (h : RegsMoved t u) : u.spec = t.spec := by
  obtain ⟨_, _, _, rfl⟩ := h
  rfl

/-- The frame of a bundle that writes registers and nothing else (R28). -/
theorem closes_keeps {s t : State} {u : Task} {src : Src} (hr : Ready s) (hu : RegsMoved (begun s).task u)
    (hc : Closes s src { begun s with task := u } t) :
    KeepsMemory s t ∧ KeepsDevice s t ∧ KeepsTask s t ∧ t.task.ports = s.task.ports := by
  have hfree := opened_freeze_nil hr
  obtain ⟨-, -, hpend, -, -, -⟩ := hr
  obtain ⟨r, f, d, rfl⟩ := hu
  simp only [Closes, begun] at hc
  simp only [KeepsMemory, KeepsDevice, KeepsTask, hc, hfree]
  simp [hpend]

/-! ### loop (R104) -/

/-- rrb after a rotation by one. -/
def rotated (rrb : W64) : W64 := BitVec.ofNat 64 ((rrb.toNat % 32 + 1) % 32)

theorem rotated_lt (rrb : W64) : (rotated rrb).toNat < 32 := by
  simp only [rotated, BitVec.toNat_ofNat]
  omega

/-- The last rotating predicate never stands in p0. -/
theorem renP_last_ne_zero (rrb : W64) : renP rrb 7 ≠ 0 := by
  intro h
  have hval := congrArg BitVec.toNat h
  simp [renP] at hval
  omega

/-- The task after the writes of a taken loop: lc, rrb and the stage predicate. -/
def loopMoves (s : State) : Task :=
  let r := (opened s).task.regs
  let t := moveReg (begun s).task .lc (row64 (r.lc - 1)) s.seq
  let t := moveReg t .rrb (row64 (rotated r.rrb)) s.seq
  moveReg t (.p (renP (rotated r.rrb) 7)) (BitVec.ofNat 1024 (b2n (decide (r.ec.toNat ≤ (r.lc - 1).toNat)))) s.seq

/-- The task as a taken loop leaves it. -/
def looped (s : State) (pc : Nat) : Task := { loopMoves s with regs := { (loopMoves s).regs with pc := pc } }

theorem regsMoved_looped (s : State) (pc : Nat) : RegsMoved (begun s).task (looped s pc) :=
  (regsMoved_moveReg _ _ _ _).trans <| (regsMoved_moveReg _ _ _ _).trans <| (regsMoved_moveReg _ _ _ _).trans <| regsMoved_regs _ _

/-- The jump changes no register that a destination names. -/
theorem looped_read (s : State) (pc : Nat) (d : RegDst) : (looped s pc).regs.read d = (loopMoves s).regs.read d := by
  cases d <;> rfl

theorem loopMoves_read_lc (s : State) : (loopMoves s).regs.read .lc = ((opened s).task.regs.lc - 1).setWidth 1024 := by
  rw [loopMoves, moveReg_read_ne _ _ _ (by simp), moveReg_read_ne _ _ _ (by simp), moveReg_read_same, holds, row64_setWidth]

theorem loopMoves_read_rrb (s : State) : (loopMoves s).regs.read .rrb = (rotated (opened s).task.regs.rrb).setWidth 1024 := by
  rw [loopMoves, moveReg_read_ne _ _ _ (by simp), moveReg_read_same, holds_rrb (rotated_lt _)]

theorem loopMoves_read_stage (s : State) : (loopMoves s).regs.read (.p (renP (rotated (opened s).task.regs.rrb) 7))
    = if (opened s).task.regs.ec.toNat ≤ ((opened s).task.regs.lc - 1).toNat then 1 else 0 := by
  rw [loopMoves, moveReg_read_same, holds_p (renP_last_ne_zero _)]
  split
  · next h => rw [decide_eq_true h]; rfl
  · next h => rw [decide_eq_false h]; rfl

theorem loopMoves_read_ne (s : State) {d : RegDst} (h : [RegDst.lc, .rrb, .p (renP (rotated (opened s).task.regs.rrb) 7)].contains d = false) :
    (loopMoves s).regs.read d = (opened s).task.regs.read d := by
  simp only [List.contains_eq_mem, List.mem_cons, List.not_mem_nil, decide_eq_false_iff_not, not_or] at h
  obtain ⟨hlc, hrrb, hq, -⟩ := h
  rw [loopMoves, moveReg_read_ne _ _ _ hq, moveReg_read_ne _ _ _ hrrb, moveReg_read_ne _ _ _ hlc]
  cases d <;> rfl

section
variable {s : State} (landed : ∀ d ∈ [RegDst.lc, .ec, .rrb], inFlight (opened s).task d = false)
include landed

theorem ctlReg_lc (v : Row) : ctlReg (trigAt (opened s) v) .lc = (opened s).task.regs.lc := by
  rw [ctlReg_landed (landed .lc (by simp)), Regs.read, lo64_setWidth]

theorem ctlReg_ec (v : Row) : ctlReg (trigAt (opened s) v) .ec = (opened s).task.regs.ec := by
  rw [ctlReg_landed (landed .ec (by simp)), Regs.read, lo64_setWidth]

theorem trigLoop_zero (v : Row) (h : (opened s).task.regs.lc = 0) : trigLoop (trigAt (opened s) v) (begun s) = .ok (begun s) := by
  rw [trigLoop, ctlReg_lc landed, if_pos h]

theorem trigLoop_taken (v : Row) (h : (opened s).task.regs.lc ≠ 0) :
    trigLoop (trigAt (opened s) v) (begun s) = .ok { begun s with task := looped s ((lo64 v).toNat % 8192) } := by
  have hrrb : ctlRrb (trigAt (opened s) v) = (opened s).task.regs.rrb := rrbRead_landed (landed .rrb (by simp))
  simp only [trigLoop, ctlReg_lc landed, ctlReg_ec landed, hrrb, if_neg h, fld_low, target]
  rfl

end

theorem loop_selfHits (s mid : State) (h : Head) : selfHits s mid none [actLoop h 0] (actLoop h 0) = false := by
  simp [selfHits, actLoop, ctlAct, trigAct]

theorem loop_slotPoisoned {s : State} {h : Head} (hs : Readable s h.g h.src)
    (clean : ∀ d ∈ [RegDst.lc, .ec, .rrb], regPoisoned (opened s).task d = false) :
    slotPoisoned (opened s) none (actLoop h 0) = false := by
  obtain ⟨-, -, hsrc, hguard⟩ := hs
  have hreads : [RegDst.lc, .ec, .rrb].any (regPoisoned (opened s).task) = false := List.any_eq_false.2 fun d hd => by simp [clean d hd]
  simp only [slotPoisoned, actLoop, ctlAct, trigAct, hsrc, hguard, hreads]
  rfl

/-- A loop completes with what its trigger leaves. -/
theorem completes_loop {s u : State} {h : Head} (ha : Acts s h) (clean : ∀ d ∈ [RegDst.lc, .ec, .rrb], regPoisoned (opened s).task d = false)
    (run : trigLoop (trigAt (opened s) (trigVal s h)) (begun s) = .ok u) (spec : u.task.spec = s.task.spec) :
    Completes (.loop h) s h.src u := by
  have ⟨⟨_, _, _, _, _, todo⟩, _, hs⟩ := ha
  exact completes_act (mk := actLoop h) rfl ⟨rfl, rfl, rfl, rfl⟩ ha (loop_selfHits _ _ h) (loop_slotPoisoned hs clean) run (spec ▸ todo)

/-- Settles O8: the taken loop writes its three registers in one bundle and moves the pc, without a bubble. -/
theorem loopPass : Obligations.LoopPass := by
  intro s h ha hregs
  have clean := fun d hd => (hregs d hd).1
  have landed := fun d hd => (hregs d hd).2
  refine ⟨fun hz => completes_loop ha clean (trigLoop_zero landed _ hz) (opened_task_spec s), fun hnz => ?_⟩
  obtain ⟨t, hexec, hc⟩ := completes_loop ha clean (trigLoop_taken landed _ hnz) ((regsMoved_looped s _).spec.trans (opened_task_spec s))
  obtain ⟨hmem, hdev, htask, hports⟩ := closes_keeps ha.1 (regsMoved_looped s _) hc
  obtain ⟨hread, hpc, hcyc, -⟩ := hc
  have reads : ∀ d, poppedReg h.src d = false → t.task.regs.read d = (loopMoves s).regs.read d :=
    fun d hd => (hread d hd).trans (looped_read s _ d)
  refine ⟨t, hexec, hpc, hcyc.trans ?_, ?_, ?_, ?_, ?_, hmem, hdev, htask, hports⟩
  · simp [looped, loopMoves, moveReg, settle, begun]
  · exact setWidth_row_inj ((reads .lc (poppedReg_eq_false _ (by simp))).trans (loopMoves_read_lc s))
  · exact setWidth_row_inj ((reads .rrb (poppedReg_eq_false _ (by simp))).trans (loopMoves_read_rrb s))
  · exact (reads _ (poppedReg_eq_false _ (by simp))).trans (loopMoves_read_stage s)
  · exact fun d hpop hne => (reads d hpop).trans (loopMoves_read_ne s hne)

end Sys2Proof.Machine
end
